-- ==== Sys2Proof/Word.lean ====
section
/-! DEFINITION. The word types of the LN620: what its manual compares, wraps or lays out as bits. -/

namespace Sys2Proof

/-- One byte of a frame or of the configuration image. -/
abbrev Byte := BitVec 8

/-- A parcel sequence number, 0–65535, wrapping (00_scope.md, Sequence numbers). -/
abbrev Seq := BitVec 16

/-- A volume mark: 32-bit modular, in 0.01 m³ (00_scope.md, Volume marks). -/
abbrev Mark := BitVec 32

/-- A station's serial number (00_scope.md, Stations). -/
abbrev Serial := BitVec 32

/-- The CRC-16 of a channel section (R190). -/
abbrev Digest := BitVec 16

/-- An exact fraction `num / (denPred + 1)`: its denominator is never zero.
Fouling references are compared exactly (R152, R153). -/
structure Ratio where
  num     : Nat
  denPred : Nat
  deriving DecidableEq, Repr, Inhabited

end Sys2Proof
end

