-- ==== Sys2Proof/Syntax.lean ====
section
/-! DEFINITION. The commands of the LN620: one constructor of `Instr` for each row of spec/opcode_table.json,
with the operands the rules read. The table gives no operands; they are the model's (DESIGN CHOICE, log 1). -/

namespace Sys2Proof

/-- The source a frame header names (R186): type nibble aside, the low nibble of byte 0 and byte 1. -/
structure Src where
  chan : BitVec 4
  pos  : Byte
  deriving DecidableEq, Repr

/-- Body of a JOIN (R187). -/
structure JoinBody where
  serial     : Serial
  cause      : Byte
  digest     : Digest
  startSeq   : Seq
  capability : Byte
  deriving DecidableEq, Repr

/-- Body of a STATUS (R187). -/
structure StatusBody where
  serial  : Serial
  mode    : Byte
  role    : Byte
  flags   : BitVec 16
  digest  : Digest
  p       : BitVec 16
  fReq    : BitVec 16
  fEff    : BitVec 16
  lit     : Byte
  failed  : Byte
  nextSeq : Seq
  present : Byte
  deriving DecidableEq, Repr

/-- Body of a FLOW or of a UVT: value and state code (R187). -/
structure ReadingBody where
  value : BitVec 16
  state : Byte
  deriving DecidableEq, Repr

/-- Body of a PARCEL (R187). -/
structure ParcelBody where
  recipient : Byte
  firstSeq  : Seq
  lastSeq   : Seq
  dose      : BitVec 24
  flags     : Byte
  origin    : Byte
  deriving DecidableEq, Repr

/-- Body of a DISCHARGE (R187). -/
structure DischargeBody where
  firstSeq : Seq
  lastSeq  : Seq
  dose     : BitVec 24
  flags    : Byte
  origin   : Byte
  verdict  : Byte
  deriving DecidableEq, Repr

/-- Body of a COMMAND but for its code, which the row of the table fixes (R187). -/
structure CommandBody where
  chan : Byte
  pos  : Byte
  arg1 : Byte
  arg2 : Byte
  deriving DecidableEq, Repr

/-- Body of a REPORT (R187, R188). -/
structure ReportBody where
  code    : Byte
  outcome : Byte
  table   : Byte
  start   : Byte
  count   : Byte
  records : List Byte
  deriving DecidableEq, Repr

/-- A frame's type and body (R186, R187). -/
inductive Body where
  | join       (b : JoinBody)
  | status     (b : StatusBody)
  | flow       (b : ReadingBody)
  | uvt        (b : ReadingBody)
  | parcel     (b : ParcelBody)
  | discharge  (b : DischargeBody)
  | wipeClaim
  | wipeActive
  | wipeDone   (outcome : Byte)
  | command    (code : Byte) (b : CommandBody)
  | report     (b : ReportBody)
  | leave      (reason : Byte)
  deriving DecidableEq, Repr

/-- One 11-bit character as the receiver reads it (R170, R171), with the quiet before its start bit. -/
structure RxChar where
  byte  : Byte
  /-- the mark bit -/
  mark  : Bool
  /-- the stop bit; `false` is a framing error -/
  stop  : Bool
  /-- bit times of quiet between the previous character and this one -/
  quiet : Nat
  deriving DecidableEq, Repr

/-- Lamp status of a ballast reply (R124). -/
inductive LampStatus where
  | off | striking | lit | openCircuit | shortCircuit
  deriving DecidableEq, Repr

/-- Temperature class of a ballast reply (R124). -/
inductive TempClass where
  | normal | warm | hot
  deriving DecidableEq, Repr

/-- Status and level code (0 none, 5–10 for 50–100 %) of one lamp in a ballast reply (R124, R125). -/
structure LampReport where
  status : LampStatus
  level  : Nat
  deriving DecidableEq, Repr

/-- The fields of a good reply (R125, R130). -/
structure BallastReply where
  cls : TempClass
  a   : LampReport
  b   : LampReport
  deriving DecidableEq, Repr

/-- Why a visit ended in a miss (R125). -/
inductive MissKind where
  | noReply | badChecksum | malformed
  deriving DecidableEq, Repr

/-- The judgement of a reply when its 24th bit has been sampled: the one outcome of its visit (R125). -/
inductive ReplyJudgement where
  | good (r : BallastReply)
  | miss (k : MissKind)
  deriving DecidableEq, Repr

/-- What the part reads at its pins when a reset cause ends: the levels of the causes, and what it takes at reset release
(R191, R194, R195, R155, R105). -/
structure ResetPins where
  /-- the supply, in millivolts -/
  supply    : Nat
  /-- RESETN reads high -/
  resetn    : Bool
  ch        : BitVec 2
  pos       : BitVec 3
  flowSrc   : Bool
  uvtSrc    : Bool
  wipeFit   : Bool
  whome     : Bool
  wend      : Bool
  /-- bit m − 1 set: lockout input LKOm reads open -/
  lockouts  : BitVec 6
  deriving DecidableEq, Repr

/-- Which roster entry an ageing event concerns (R51: no two entries share all three). -/
structure EntryKey where
  chan   : Nat
  pos    : Nat
  serial : Option Serial
  deriving DecidableEq, Repr

/-- The commands: one constructor per row of spec/opcode_table.json, in its order. -/
inductive Instr where
  /-- `mv`: the supply in millivolts -/
  | supplyBelowReset (mv : Nat)
  /-- `us`: how long RESETN has stood low, in microseconds; left out, the 10 µs of the row -/
  | resetnLow (us : Nat := 10)
  | resetRelease (pins : ResetPins)
  /-- `mv`: the supply in millivolts -/
  | supplyLowChange (mv : Nat)
  | cfgBusError
  | imageReadComplete (image : List Byte)
  | listenEnd
  | accrualTimerExpiry
  | statusTimerExpiry
  | flowTimerExpiry
  | uvtTimerExpiry
  | flowSourceLapse
  | flowSourceDupClear
  | uvtSourceLapse
  | uvtSourceDupClear
  | holdTimerExpiry
  | rosterEntryLost (key : EntryKey)
  | rosterEntryRemove (key : EntryKey)
  | pendingBreakExpiry
  | rxFrameBroken (run : List RxChar)
  | rxFrameRejected (run : List RxChar)
  | formatErrorFrame (src : Src)
  | joinReceived (src : Src) (b : JoinBody)
  | statusReceived (src : Src) (b : StatusBody)
  | flowReceived (src : Src) (b : ReadingBody)
  | uvtReceived (src : Src) (b : ReadingBody)
  | parcelReceived (src : Src) (b : ParcelBody)
  | dischargeReceived (src : Src) (b : DischargeBody)
  | reportReceived (src : Src)
  | leaveReceived (src : Src) (reason : Byte)
  | wipeClaimReceived (src : Src)
  | wipeActiveReceived (src : Src)
  | wipeDoneReceived (src : Src) (outcome : Byte)
  | clearLamp (src : Src) (b : CommandBody)
  | clearBallast (src : Src) (b : CommandBody)
  | clearSensor (src : Src) (b : CommandBody)
  | clearWiper (src : Src) (b : CommandBody)
  | wipeNow (src : Src) (b : CommandBody)
  | restart (src : Src) (b : CommandBody)
  | query (src : Src) (b : CommandBody)
  | commandOtherCode (src : Src) (code : Byte) (b : CommandBody)
  | restartTimeout
  | quietGapEnd
  | transmitStart (elapsed : Nat)
  /-- `read`: the 11 bits of each character read back, bit 0 the start bit (R170, R176). The operand left out is no
  character read back: ill formed, and it changes nothing (log 4). -/
  | transmitComplete (read : List (BitVec 11) := [])
  /-- `read`: as of `transmitComplete`, up to the character that differs (R176) -/
  | collision (read : List (BitVec 11) := [])
  | servedFlagClear
  | pollCycleDue
  /-- `reply`: the 24 bits sampled on BDI, the first one most significant (R123) -/
  | ballastGoodReply (reply : BitVec 24)
  | ballastMiss (reply : BitVec 24)
  | strikeAttemptExpiry (lamp : Nat)
  | warmupEnd (lamp : Nat)
  | coolingEnd (lamp : Nat)
  | strikeSpacingExpiry
  | extinguishHoldoffExpiry
  | dayTimerExpiry
  | runMinute (lamp : Nat)
  /-- `ms`: how long the input LKOm has stood open, in milliseconds; left out, the 50 ms of the row (R105) -/
  | lockoutOpen (module : Nat) (ms : Nat := 50)
  /-- `ms`: how long the input LKOm has stood closed -/
  | lockoutClose (module : Nat) (ms : Nat := 50)
  | scanStart
  | scanComplete (raw : List (BitVec 10)) (fdir : Bool)
  | wipeIntervalExpiry
  | claimWindowExpiry
  | waitRecordExpiry
  /-- `ms`: how long WEND has stood at the new level, in milliseconds; left out, the 10 ms of the row (R155) -/
  | wendActive (active : Bool) (ms : Nat := 10)
  /-- `ms`: how long WHOME has stood active -/
  | whomeActive (ms : Nat := 10)
  /-- `ms`: how long WHOME has stood inactive -/
  | whomeInactive (ms : Nat := 10)
  | strokeTimerExpiry
  | releaseTimerExpiry
  | idleMarkZeroCharacter (c : RxChar)
  deriving DecidableEq, Repr

end Sys2Proof
end

