-- ==== Sys2Proof/Decode.lean ====
section
/-! DEFINITION. Bytes and frames: byte order, the CRC, the bytes of a frame, and which command a received
frame is (R170, R172, R186, R187), and the judgement of a ballast's reply (R125). The opcode table gives no row any bits, so `decodeTableWord` reads none. -/

namespace Sys2Proof

/-! ### Byte order: most significant byte first (10_frame_and_image_formats.md) -/

def hi8 (x : BitVec 16) : Byte := x.extractLsb' 8 8
def lo8 (x : BitVec 16) : Byte := x.extractLsb' 0 8

def be16 (a b : Byte) : BitVec 16 := a ++ b
def be24 (a b c : Byte) : BitVec 24 := a ++ b ++ c
def be32 (a b c d : Byte) : BitVec 32 := a ++ b ++ c ++ d

def bytes16 (x : BitVec 16) : List Byte := [hi8 x, lo8 x]
def bytes24 (x : BitVec 24) : List Byte := [x.extractLsb' 16 8, x.extractLsb' 8 8, x.extractLsb' 0 8]
def bytes32 (x : BitVec 32) : List Byte :=
  [x.extractLsb' 24 8, x.extractLsb' 16 8, x.extractLsb' 8 8, x.extractLsb' 0 8]

/-! ### The CRC (R172): x^16 + x^12 + x^5 + 1, initial value all ones, neither reflected nor inverted -/

def crcBit (c : BitVec 16) : BitVec 16 :=
  if c.msb then (c <<< 1) ^^^ 0x1021#16 else c <<< 1

def crcByte (c : BitVec 16) (b : Byte) : BitVec 16 :=
  let c0 := c ^^^ (b ++ 0#8)
  crcBit (crcBit (crcBit (crcBit (crcBit (crcBit (crcBit (crcBit c0)))))))

def crc16 (bytes : List Byte) : BitVec 16 := bytes.foldl crcByte 0xFFFF#16

/-! ### Frame bodies (R186, R187) -/

/-- The type code of byte 0, bits 7–4. -/
def Body.typeCode : Body → BitVec 4
  | .join _ => 1
  | .status _ => 2
  | .flow _ => 3
  | .uvt _ => 4
  | .parcel _ => 5
  | .discharge _ => 6
  | .wipeClaim => 7
  | .wipeActive => 8
  | .wipeDone _ => 9
  | .command _ _ => 10
  | .report _ => 11
  | .leave _ => 12

/-- The body bytes in the order of R187. -/
def Body.bytes : Body → List Byte
  | .join b => bytes32 b.serial ++ [b.cause] ++ bytes16 b.digest ++ bytes16 b.startSeq ++ [b.capability]
  | .status b =>
    bytes32 b.serial ++ [b.mode, b.role] ++ bytes16 b.flags ++ bytes16 b.digest ++ bytes16 b.p ++
      bytes16 b.fReq ++ bytes16 b.fEff ++ [b.lit, b.failed] ++ bytes16 b.nextSeq ++ [b.present]
  | .flow b => bytes16 b.value ++ [b.state]
  | .uvt b => bytes16 b.value ++ [b.state]
  | .parcel b =>
    [b.recipient] ++ bytes16 b.firstSeq ++ bytes16 b.lastSeq ++ bytes24 b.dose ++ [b.flags, b.origin]
  | .discharge b =>
    bytes16 b.firstSeq ++ bytes16 b.lastSeq ++ bytes24 b.dose ++ [b.flags, b.origin, b.verdict]
  | .wipeClaim => []
  | .wipeActive => []
  | .wipeDone o => [o]
  | .command code b => [b.chan, b.pos, code, b.arg1, b.arg2]
  | .report b => [b.code, b.outcome, b.table, b.start, b.count] ++ b.records
  | .leave r => [r]

/-- The frame without its CRC: byte 0 holds type and channel, then position, body length, body (R186). -/
def frameHead (src : Src) (body : Body) : List Byte :=
  (body.typeCode ++ src.chan) :: src.pos :: BitVec.ofNat 8 body.bytes.length :: body.bytes

/-- All bytes of a frame as sent: the CRC follows the body, high byte first (R172, R186). -/
def frameBytes (src : Src) (body : Body) : List Byte :=
  frameHead src body ++ bytes16 (crc16 (frameHead src body))

/-- The 11 bits of one character: start bit 0, the byte least significant bit first, mark, stop bit 1 (R170). -/
def charBits (mark : Bool) (b : Byte) : List Bool :=
  [false, b.getLsbD 0, b.getLsbD 1, b.getLsbD 2, b.getLsbD 3, b.getLsbD 4, b.getLsbD 5, b.getLsbD 6,
    b.getLsbD 7, mark, true]

/-- The same 11 bits as one word, bit 0 the start bit. -/
def lineChar (mark : Bool) (b : Byte) : BitVec 11 := 1#1 ++ BitVec.ofBool mark ++ b ++ 0#1

/-- The characters of a frame, in the order sent (R170). -/
def lineChars : List Byte → List (BitVec 11)
  | [] => []
  | b :: rest => lineChar true b :: rest.map (lineChar false)

/-- The bits of a frame on the line, its characters back to back, mark 1 on the first alone (R170). -/
def lineBits : List Byte → List Bool
  | [] => []
  | b :: rest => charBits true b ++ rest.flatMap (charBits false)

/-! ### From a received frame to its command (R172, R173, R186) -/

/-- A COMMAND frame by its code (R187); the row of any code outside 1–7 is COMMAND_OTHER_CODE. -/
def commandOf (src : Src) (code : Byte) (b : CommandBody) : Instr :=
  if code = 1 then .clearLamp src b
  else if code = 2 then .clearBallast src b
  else if code = 3 then .clearSensor src b
  else if code = 4 then .clearWiper src b
  else if code = 5 then .wipeNow src b
  else if code = 6 then .restart src b
  else if code = 7 then .query src b
  else .commandOtherCode src code b

/-- The command that an accepted frame of a given body is. -/
def Body.received (src : Src) : Body → Instr
  | .join b => .joinReceived src b
  | .status b => .statusReceived src b
  | .flow b => .flowReceived src b
  | .uvt b => .uvtReceived src b
  | .parcel b => .parcelReceived src b
  | .discharge b => .dischargeReceived src b
  | .wipeClaim => .wipeClaimReceived src
  | .wipeActive => .wipeActiveReceived src
  | .wipeDone o => .wipeDoneReceived src o
  | .command code b => commandOf src code b
  | .report _ => .reportReceived src
  | .leave r => .leaveReceived src r

/-- An accepted frame measured against its type (R186): a fixed-length type with any other body length is a
format error; a REPORT body is not read; a type outside 1–12 is not accepted (R172). -/
def acceptedFrame (ty : BitVec 4) (src : Src) (body : List Byte) : Option Instr :=
  if ty = 1 then
    match body with
    | [s0, s1, s2, s3, c, d0, d1, q0, q1, k] =>
      some (.joinReceived src ⟨be32 s0 s1 s2 s3, c, be16 d0 d1, be16 q0 q1, k⟩)
    | _ => some (.formatErrorFrame src)
  else if ty = 2 then
    match body with
    | [s0, s1, s2, s3, m, r, f0, f1, d0, d1, p0, p1, q0, q1, e0, e1, l, x, n0, n1, pr] =>
      some (.statusReceived src
        ⟨be32 s0 s1 s2 s3, m, r, be16 f0 f1, be16 d0 d1, be16 p0 p1, be16 q0 q1, be16 e0 e1, l, x, be16 n0 n1, pr⟩)
    | _ => some (.formatErrorFrame src)
  else if ty = 3 then
    match body with
    | [v0, v1, st] => some (.flowReceived src ⟨be16 v0 v1, st⟩)
    | _ => some (.formatErrorFrame src)
  else if ty = 4 then
    match body with
    | [v0, v1, st] => some (.uvtReceived src ⟨be16 v0 v1, st⟩)
    | _ => some (.formatErrorFrame src)
  else if ty = 5 then
    match body with
    | [r, a0, a1, z0, z1, d0, d1, d2, f, o] =>
      some (.parcelReceived src ⟨r, be16 a0 a1, be16 z0 z1, be24 d0 d1 d2, f, o⟩)
    | _ => some (.formatErrorFrame src)
  else if ty = 6 then
    match body with
    | [a0, a1, z0, z1, d0, d1, d2, f, o, v] =>
      some (.dischargeReceived src ⟨be16 a0 a1, be16 z0 z1, be24 d0 d1 d2, f, o, v⟩)
    | _ => some (.formatErrorFrame src)
  else if ty = 7 then
    match body with
    | [] => some (.wipeClaimReceived src)
    | _ => some (.formatErrorFrame src)
  else if ty = 8 then
    match body with
    | [] => some (.wipeActiveReceived src)
    | _ => some (.formatErrorFrame src)
  else if ty = 9 then
    match body with
    | [o] => some (.wipeDoneReceived src o)
    | _ => some (.formatErrorFrame src)
  else if ty = 10 then
    match body with
    | [c, p, code, a1, a2] => some (commandOf src code ⟨c, p, a1, a2⟩)
    | _ => some (.formatErrorFrame src)
  else if ty = 11 then some (.reportReceived src)
  else if ty = 12 then
    match body with
    | [r] => some (.leaveReceived src r)
    | _ => some (.formatErrorFrame src)
  else none

/-- The bytes of a complete frame, whose first character carried mark 1, judged on length, CRC and type (R172):
the command it is, or `none` where it is discarded. No body length above 48 passes. -/
def judgeFrame : List Byte → Option Instr
  | b0 :: b1 :: b2 :: rest =>
    if b2.toNat ≤ 48 ∧ rest.length = b2.toNat + 2 then
      if rest.drop b2.toNat = bytes16 (crc16 (b0 :: b1 :: b2 :: rest.take b2.toNat)) then
        acceptedFrame (b0.extractLsb' 4 4) ⟨b0.extractLsb' 0 4, b1⟩ (rest.take b2.toNat)
      else none
    else none
  | _ => none

/-! ### A ballast's reply (R124, R125): status and level of lamp A, of lamp B, class and checksum. Each byte is two
four-bit codes in the order of the rule, the first in the high half (log 25) -/

def lampStatusOf (c : BitVec 4) : Option LampStatus :=
  if c = 0 then some .off else if c = 1 then some .striking else if c = 2 then some .lit
  else if c = 3 then some .openCircuit else if c = 4 then some .shortCircuit else none

def tempClassOf (c : BitVec 4) : Option TempClass :=
  if c = 0 then some .normal else if c = 1 then some .warm else if c = 2 then some .hot else none

/-- A level code of the table of R124: none, or 50–100 %. -/
def levelCode (c : BitVec 4) : Bool := decide (c = 0) || (decide (5 ≤ c.toNat) && decide (c.toNat ≤ 10))

/-- One lamp's status with its level: a level goes with lit, and with lit alone (R125). -/
def lampReportOf (status level : BitVec 4) : Option LampReport :=
  match lampStatusOf status with
  | some st => if levelCode level && (decide (st = .lit) == decide (level ≠ 0)) then some ⟨st, level.toNat⟩ else none
  | none => none

/-- Code `k` of the six codes of a reply. -/
def replyCode (reply : BitVec 24) (k : Nat) : BitVec 4 := reply.extractLsb' (20 - 4 * k) 4

/-- The checksum worked from the address sent and the five other codes (R125). -/
def replyChecksum (addr : Nat) (reply : BitVec 24) : Nat :=
  (addr + (replyCode reply 0).toNat + (replyCode reply 1).toNat + (replyCode reply 2).toNat +
    (replyCode reply 3).toNat + (replyCode reply 4).toNat) % 16

/-- The judgement of a reply to the ballast at an address (R125). -/
def judgeReply (addr : Nat) (reply : BitVec 24) : ReplyJudgement :=
  if reply = BitVec.allOnes 24 then .miss .noReply
  else if (replyCode reply 5).toNat ≠ replyChecksum addr reply then .miss .badChecksum
  else match lampReportOf (replyCode reply 0) (replyCode reply 1), lampReportOf (replyCode reply 2) (replyCode reply 3),
      tempClassOf (replyCode reply 4) with
    | some a, some b, some c => .good ⟨c, a, b⟩
    | _, _, _ => .miss .malformed

/-- The reply is a good one of some ballast, 1–12. -/
def goodSomewhere (reply : BitVec 24) : Bool :=
  (List.range 12).any fun k =>
    match judgeReply (k + 1) reply with
    | .good _ => true
    | .miss _ => false

/-! ### The opcode table's words -/

/-- No row of spec/opcode_table.json gives bits, so no word spells a command. -/
def decodeTableWord (nbits w : Nat) : Option Instr :=
  match nbits, w with
  | _, _ => none

end Sys2Proof
end

