-- ==== Sys2Proof/Config.lean ====
section
/-! DEFINITION. The free values: results the manual does not state. Nothing in Lean can evaluate them. -/

namespace Sys2Proof

/-- The ratio of a sensor value (the operand, in 0.01 mW/cm²) to an expected output of 0.00: R152 and R153
divide by that output and state no result for 0. DESIGN CHOICE, safe: a free value (log 15). -/
opaque Config.ratioOverZero : Nat → Ratio

/-- The three bits 23–21 of a QUEUE record for an origin byte outside 1–8: R188 writes origin − 1 there and
states nothing for other bytes. DESIGN CHOICE, safe: a free value (log 16). -/
opaque Config.originBits : Byte → BitVec 3

end Sys2Proof
end

