-- ==== Sys2Proof/Machine/State.lean ====
section
/-! DEFINITION. The state of the LN620, block by block (00_scope.md, Block overview), as plain data, and the
state right after reset. Quantities are whole numbers in the units of 00_scope.md; times are in milliseconds.
A timer is `none` while stopped (idle, expired) and `some` of its elapsed time while running. -/

namespace Sys2Proof.Machine

/-! ### Names -/

/-- The bank mode (R64). -/
inductive BankMode where
  | loading | listen | dosing | hold | isolated | failsafe
  deriving DecidableEq, Repr

/-- The reset cause record (R194). -/
inductive ResetCause where
  | powerOn | pin | supply | restart
  deriving DecidableEq, Repr

/-- Why a load failed (R192, R193). -/
inductive LoadFailure where
  | imageAbsent | imageCrc | imageRange
  deriving DecidableEq, Repr

/-- The bank's role (R63). -/
inductive Role where
  | noRole | head | mid | tail | sole
  deriving DecidableEq, Repr

/-- The standing of a roster entry (R50). -/
inductive EntryState where
  | heard | active | conflict | lost
  deriving DecidableEq, Repr

/-- Lamp states (R95). -/
inductive LampState where
  | off | striking | warming | lit | cooling | failed | locked
  deriving DecidableEq, Repr

/-- Failure causes of a lamp (R93). -/
inductive FailCause where
  | noStrike | lampOpen | lampShort | ballastHot | ballastLost
  deriving DecidableEq, Repr

/-- The action of a slot half (R124). -/
inductive SlotAction where
  | off | strike | on | read
  deriving DecidableEq, Repr

/-- Wiper states (R155). -/
inductive WiperState where
  | absent | homing | parked | want | claiming | strokeOut | strokeBack | fault
  deriving DecidableEq, Repr

/-- Receive assembler states (R171). -/
inductive AsmPhase where
  | idle | inFrame | skip
  deriving DecidableEq, Repr

/-- The state of an own flow or UVT reading handed to the planner (R74, R78). -/
inductive OfferState where
  | normal | reverse | fault
  deriving DecidableEq, Repr

/-! ### Configuration and straps -/

/-- The latched straps (R191). `position` is 1–8. -/
structure Straps where
  channel  : Nat
  position : Nat
  flowSrc  : Bool
  uvtSrc   : Bool
  wipeFit  : Bool
  deriving DecidableEq, Repr

/-- The values of the configuration image in service (R190, R193) and the zone volume Z. All zero while no
image is held (R73, R78, R87). -/
structure ImageCfg where
  dT         : Nat
  margin     : Nat
  vP         : Nat
  area       : Nat
  qMin       : Nat
  qDesign    : Nat
  qSpan      : Nat
  uvtWorst   : Nat
  holdFrac   : Nat
  /-- the eight points (UVT_i, G_i) -/
  table      : List (Nat × Nat)
  sensorSpan : Nat
  exposure   : Nat
  nMod       : Nat
  /-- bit i − 1 set: lamp i is fitted -/
  fitted     : BitVec 24
  ballasts   : Nat
  eNom       : Nat
  warmup     : Nat
  minLit     : Nat
  wipeMin    : Nat
  foulThr    : Nat
  z          : Nat
  deriving DecidableEq, Repr

/-! ### Parcel tracker -/

/-- A parcel record (R1). -/
structure ParcelRec where
  firstSeq  : Seq
  lastSeq   : Seq
  entryMark : Mark
  exitMark  : Mark
  dose      : Nat
  origin    : Byte
  flags     : Byte
  deriving DecidableEq, Repr

/-- A pending break (R41). -/
structure PendingBreak where
  seq  : Seq
  life : Nat
  deriving DecidableEq, Repr

structure Tracker where
  queue        : List ParcelRec
  counter      : Mark
  /-- in steps of 0.0002 m³, 0–49 (R9) -/
  residue      : Nat
  creationMark : Mark
  creating     : Bool
  firstResync  : Bool
  nextExpected : Option Seq
  watermark    : Option Seq
  brk          : Option PendingBreak
  discharged   : BitVec 32
  underdosed   : BitVec 32
  estimated    : BitVec 32
  placeholders : Nat
  resyncs      : Nat
  duplicates   : Nat
  overlaps     : Nat
  adoptions    : Nat
  accrual      : Option Nat
  deriving DecidableEq, Repr

/-! ### Roster and station controller -/

/-- A roster entry (R50). `wiping` is the age of the indication while it is set; `sinceLost` is present in LOST
only. The self entry's mode and digest are the bank's own and are read from their owners (log 9). -/
structure RosterEntry where
  isSelf    : Bool
  chan      : Nat
  pos       : Nat
  serial    : Option Serial
  state     : EntryState
  mode      : Option BankMode
  digest    : Option Digest
  p         : Option Nat
  flags     : BitVec 16
  wiping    : Option Nat
  lastHeard : Nat
  sinceLost : Option Nat
  deriving DecidableEq, Repr

structure Roster where
  entries   : List RosterEntry
  refDigest : Option Digest
  up        : Option Nat
  down      : Option Nat
  role      : Role
  unlearned : Nat
  isolation : Nat
  deriving DecidableEq, Repr

structure Control where
  mode           : BankMode
  resetCause     : ResetCause
  positionReason : Bool
  digestReason   : Bool
  listenTimer    : Option Nat
  statusTimer    : Option Nat
  deriving DecidableEq, Repr

/-! ### Dose planner -/

/-- The flow state with the adopted value (R73). -/
inductive FlowState where
  | normal (q : Nat) | reverse | stale
  deriving DecidableEq, Repr

/-- The UVT state with the adopted value (R78). -/
inductive UvtState where
  | normal (v : Nat) | stale
  deriving DecidableEq, Repr

/-- An adopted source: position (flow) or slot (UVT), and the time since its last adoption. -/
structure Source where
  id  : Nat
  age : Nat
  deriving DecidableEq, Repr

/-- A plan of shares: the share of each bank of the planning set by position, and S_k (R84). -/
structure Plan where
  shares     : List (Nat × Nat)
  cumulative : Nat
  deriving DecidableEq, Repr

/-- The dose planner. `lastReq` is F_req as the last computation left it, absent while there has been none since reset
(R86, R89). -/
structure Planner where
  flow       : FlowState
  flowSource : Option Source
  flowDup    : Option Nat
  flowTimer  : Option Nat
  uvt        : UvtState
  uvtSource  : Option Source
  uvtDup     : Option Nat
  uvtTimer   : Option Nat
  holdTimer  : Option Nat
  holdCond   : Bool
  plan       : Option Plan
  shortfall  : Bool
  fReq       : Nat
  lastReq    : Option Nat
  deriving DecidableEq, Repr

/-! ### Lamp sequencer and ballast link -/

/-- Half of a command slot: action and level code, 0 none or 5–10 (R124, R126). -/
structure SlotHalf where
  action : SlotAction
  level  : Nat
  deriving DecidableEq, Repr

/-- A lamp record (R93). `slot` is the lamp's half of its ballast's command slot; its level is the record's
commanded level. `attempt` is 1–3 in STRIKING (R96) and 0 elsewhere. -/
structure Lamp where
  index      : Nat
  fitted     : Bool
  state      : LampState
  slot       : SlotHalf
  e          : Nat
  cause      : Option FailCause
  runMinutes : Nat
  residue    : Nat
  strikes    : Nat
  strikesDay : Nat
  timer      : Nat
  attempt    : Nat
  deriving DecidableEq, Repr

structure Sequencer where
  lamps    : List Lamp
  /-- common level L as a code, 5–10 -/
  level    : Nat
  spacing  : Option Nat
  holdoff  : Option Nat
  day      : Nat
  lockouts : BitVec 6
  deriving DecidableEq, Repr

/-- A ballast record (R127). -/
structure BallastRec where
  addr   : Nat
  lost   : Bool
  misses : Nat
  cls    : TempClass
  deriving DecidableEq, Repr

/-- The visit in flight and the command it sends (R123, R126). -/
structure Visit where
  ballast : Nat
  a       : SlotHalf
  b       : SlotHalf
  deriving DecidableEq, Repr

/-- Before LOADING ends; readback with the findings kept so far in address order, `none` for a ballast that
missed three times (R133); poll cycles (R128). -/
inductive LinkPhase where
  | stopped
  | readback (findings : List (Option BallastReply))
  | running
  deriving DecidableEq, Repr

structure Link where
  phase        : LinkPhase
  ballasts     : List BallastRec
  count        : Nat
  visit        : Option Visit
  cursor       : Nat
  urgent       : List Nat
  cycleTimer   : Option Nat
  cycleRunning : Bool
  cycleDue     : Bool
  misses       : Nat
  deriving DecidableEq, Repr

/-! ### Sensor scanner -/

/-- An analog input (R141, R142); the window's oldest sample first. -/
structure Input where
  window   : List Nat
  fault    : Bool
  outRun   : Nat
  validRun : Nat
  deriving DecidableEq, Repr

/-- A module's fouling reference (R152); `eRef` in order of the module's lamps. -/
structure FoulRef where
  ratio     : Option Ratio
  eRef      : List Nat
  armed     : Bool
  postCount : Nat
  belowRun  : Nat
  deriving DecidableEq, Repr

/-- A reading handed to the planner (R148). -/
structure Offer where
  state : OfferState
  value : Nat
  deriving DecidableEq, Repr

structure Scanner where
  timer        : Option Nat
  /-- how often the scan in progress has been begun (R137, R139) -/
  scan         : Option Nat
  scanDue      : Bool
  inputs       : List Input
  refs         : List FoulRef
  sensorFaults : Nat
  foulRequests : Nat
  ownFlow      : Option Offer
  ownUvt       : Option Offer
  /-- a scan has completed with a lamp burning and a value in its module's window: F_eff is 0.00 until then (R154) -/
  fEffBegun    : Bool
  deriving DecidableEq, Repr

/-! ### Wiper controller -/

/-- The wait record (R162). -/
structure Wait where
  pos       : Nat
  remaining : Nat
  deriving DecidableEq, Repr

/-- `claim` is the ticket of the claim waiting or in flight and `window` the claim window, in CLAIMING. -/
structure Wiper where
  state       : WiperState
  whome       : Bool
  wend        : Bool
  stroke      : Option Nat
  release     : Option Nat
  interval    : Option Nat
  claim       : Option Nat
  window      : Option Nat
  wait        : Option Wait
  owed        : Bool
  strokes     : Nat
  faults      : Nat
  withdrawals : Nat
  deriving DecidableEq, Repr

/-! ### Bus interface -/

/-- A frame as posted: header source, type and body, its collision count (R178), and the ticket by which its
poster knows it (log 23). -/
structure Frame where
  src    : Src
  body   : Body
  coll   : Nat
  ticket : Nat
  deriving DecidableEq, Repr

/-- The frame in flight; `withdrawn` once its poster has withdrawn it (R184). -/
structure InFlight where
  frame     : Frame
  withdrawn : Bool
  deriving DecidableEq, Repr

/-- The receive assembler and the characters collected; `own` while the frame in assembly is the bank's own
transmission (R171, R173). -/
structure Assembler where
  phase : AsmPhase
  chars : List Byte
  own   : Bool
  deriving DecidableEq, Repr

structure Bus where
  queue             : List Frame
  inFlight          : Option InFlight
  served            : Bool
  busFault          : Bool
  access            : Option Nat
  asm               : Assembler
  nextTicket        : Nat
  rxErrors          : Nat
  collisions        : Nat
  dropped           : Nat
  lost              : Nat
  refusedDischarges : Nat
  formatErrors      : Nat
  deriving DecidableEq, Repr

/-! ### Loader, supply monitor and command handler -/

/-- The supply monitor: whether the supply stands below its warning level, which is SUPPLY_LOW, below its reset level
and below its retention level (R194, R195). -/
structure SupplyMonitor where
  low            : Bool
  belowReset     : Bool
  belowRetention : Bool
  deriving DecidableEq, Repr

structure Loader where
  straps   : Straps
  attempts : Nat
  cfg      : ImageCfg
  digest   : Option Digest
  failure  : Option LoadFailure
  supply   : SupplyMonitor
  deriving DecidableEq, Repr

/-- The reply in progress (R196, R197). `table` is the code of R187. -/
inductive Reply where
  /-- an answer held until LISTEN ends -/
  | heldAnswer (code : Byte) (outcome : Byte)
  /-- a QUERY reply held until LISTEN ends -/
  | heldQuery (table start owed : Nat)
  /-- a QUERY reply whose frame `ticket` waits or is in flight -/
  | running (table next owed ticket : Nat)
  deriving DecidableEq, Repr

/-- The pending restart: its age, and the tickets of the REPORT and the LEAVE not yet completed or given up
(R199). -/
structure Restart where
  elapsed : Nat
  report  : Option Nat
  leave   : Option Nat
  deriving DecidableEq, Repr

structure Handler where
  reply   : Option Reply
  restart : Option Restart
  ignored : Nat
  deriving DecidableEq, Repr

/-- Whether the part is held in reset; the causes that stand beside the supply monitor's: RESETN low, and a RESTART reset
being taken; and what happened during that reset (R194). -/
structure ResetHold where
  held           : Bool
  resetnLow      : Bool
  restarting     : Bool
  belowRetention : Bool
  belowReset     : Bool
  resetn         : Bool
  restart        : Bool
  deriving DecidableEq, Repr

/-! ### The machine -/

/-- The whole part and the queue of the commands that wait for it. -/
structure State where
  pending : List Instr
  serial  : Serial
  hold    : ResetHold
  ctl     : Control
  ldr     : Loader
  trk     : Tracker
  ros     : Roster
  pln     : Planner
  seq     : Sequencer
  link    : Link
  scn     : Scanner
  wip     : Wiper
  bus     : Bus
  cmd     : Handler
  deriving DecidableEq, Repr

/-- No event of the spec stops the part (INVENTORY.md, Faults), so no fault is ever raised. -/
inductive Fault where
  deriving DecidableEq, Repr

/-- Why a command has no meaning. -/
inductive Refusal where
  /-- Raised by `exec` alone, for a row of the opcode table whose meaning is not written. Safe. -/
  | notModelled (mnemonic : String)
  deriving DecidableEq, Repr

/-! ### After reset -/

/-- Lamp i after a cold reset (R94). The manual gives fitted and e from the end of LOADING alone: that no lamp is
fitted and e is 0.00 until then is the model's choice (DESIGN CHOICE, log 5). -/
def Lamp.fresh (i : Nat) : Lamp :=
  { index := i, fitted := false, state := .off, slot := ⟨.read, 0⟩, e := 0, cause := none, runMinutes := 0,
    residue := 0, strikes := 0, strikesDay := 0, timer := 0, attempt := 0 }

/-- Ballast b after every reset (R127). -/
def BallastRec.fresh (b : Nat) : BallastRec := { addr := b, lost := false, misses := 0, cls := .normal }

/-- An analog input after every reset (R154). -/
def Input.fresh : Input := { window := [], fault := false, outRun := 0, validRun := 0 }

/-- A fouling reference after every reset (R152, R154). -/
def FoulRef.fresh : FoulRef :=
  { ratio := none, eRef := [0, 0, 0, 0], armed := false, postCount := 0, belowRun := 0 }

/-- No configuration image held: every value zero (R73, R78, R87). -/
def ImageCfg.absent : ImageCfg :=
  { dT := 0, margin := 0, vP := 0, area := 0, qMin := 0, qDesign := 0, qSpan := 0, uvtWorst := 0, holdFrac := 0,
    table := [], sensorSpan := 0, exposure := 0, nMod := 0, fitted := 0, ballasts := 0, eNom := 0, warmup := 0,
    minLit := 0, wipeMin := 0, foulThr := 0, z := 0 }

/-- The machine right after the release of a cold reset: LOADING, every value as each chapter gives it.
DESIGN CHOICE (log 5, log 6): straps low (channel 0, position 1, no source, no wiper), limit inputs inactive,
lockouts closed, supply above its three levels, serial number 1, and, until LOADING ends, no ballast configured
(count 0: R127 gives that field only its value from the end of LOADING). -/
def State.reset : State :=
  { pending := []
    serial := 1
    hold := { held := false, resetnLow := false, restarting := false, belowRetention := false, belowReset := false,
              resetn := false, restart := false }
    ctl := { mode := .loading, resetCause := .powerOn, positionReason := false, digestReason := false,
             listenTimer := none, statusTimer := none }
    ldr := { straps := { channel := 0, position := 1, flowSrc := false, uvtSrc := false, wipeFit := false },
             attempts := 0, cfg := .absent, digest := none, failure := none,
             supply := { low := false, belowReset := false, belowRetention := false } }
    trk := { queue := [], counter := 0, residue := 0, creationMark := 0, creating := false, firstResync := false,
             nextExpected := none, watermark := none, brk := none, discharged := 0, underdosed := 0, estimated := 0,
             placeholders := 0, resyncs := 0, duplicates := 0, overlaps := 0, adoptions := 0, accrual := none }
    ros := { entries := [], refDigest := none, up := none, down := none, role := .noRole, unlearned := 0,
             isolation := 0 }
    pln := { flow := .stale, flowSource := none, flowDup := none, flowTimer := none, uvt := .stale,
             uvtSource := none, uvtDup := none, uvtTimer := none, holdTimer := none, holdCond := false,
             plan := none, shortfall := false, fReq := 0, lastReq := none }
    seq := { lamps := (List.range 24).map fun k => Lamp.fresh (k + 1)
             level := 10, spacing := none, holdoff := none, day := 0, lockouts := 0 }
    link := { phase := .stopped, ballasts := (List.range 12).map fun k => BallastRec.fresh (k + 1)
              count := 0, visit := none, cursor := 1, urgent := [], cycleTimer := none, cycleRunning := false,
              cycleDue := false, misses := 0 }
    scn := { timer := none, scan := none, scanDue := false, inputs := List.replicate 8 Input.fresh
             refs := List.replicate 6 FoulRef.fresh, sensorFaults := 0, foulRequests := 0, ownFlow := none,
             ownUvt := none, fEffBegun := false }
    wip := { state := .absent, whome := false, wend := false, stroke := none, release := none, interval := none,
             claim := none, window := none, wait := none, owed := false, strokes := 0, faults := 0,
             withdrawals := 0 }
    bus := { queue := [], inFlight := none, served := false, busFault := false, access := none,
             asm := { phase := .idle, chars := [], own := false }, nextTicket := 0, rxErrors := 0, collisions := 0, dropped := 0,
             lost := 0, refusedDischarges := 0, formatErrors := 0 }
    cmd := { reply := none, restart := none, ignored := 0 } }

/-! ### Replacing one block -/

def State.setPending (s : State) (v : List Instr) : State := { s with pending := v }
def State.setHold (s : State) (v : ResetHold) : State := { s with hold := v }
def State.setCtl (s : State) (v : Control) : State := { s with ctl := v }
def State.setLdr (s : State) (v : Loader) : State := { s with ldr := v }
def State.setTrk (s : State) (v : Tracker) : State := { s with trk := v }
def State.setRos (s : State) (v : Roster) : State := { s with ros := v }
def State.setPln (s : State) (v : Planner) : State := { s with pln := v }
def State.setSeq (s : State) (v : Sequencer) : State := { s with seq := v }
def State.setLink (s : State) (v : Link) : State := { s with link := v }
def State.setScn (s : State) (v : Scanner) : State := { s with scn := v }
def State.setWip (s : State) (v : Wiper) : State := { s with wip := v }
def State.setBus (s : State) (v : Bus) : State := { s with bus := v }
def State.setCmd (s : State) (v : Handler) : State := { s with cmd := v }

end Sys2Proof.Machine
end

