-- ==== Sys2Proof/Machine/Operands.lean ====
section
/-! DEFINITION. The arithmetic the rules share: wrapping numbers, saturating counts, the roundings, slots, and
where a lamp stands (00_scope.md, Conventions). -/

namespace Sys2Proof.Machine

/-! ### Sequence numbers and volume marks -/

/-- The distance from `b` to `a`, −32768 to 32767. -/
def seqDist (b a : Seq) : Int := (a - b).toInt

/-- `a` is later than `b`. At a distance of −32768 neither is later than the other (log 10). -/
def seqLater (a b : Seq) : Bool := decide (0 < seqDist b a)

/-- The length of a range, by R1's formula; of one that R4, R25 or R182 has carried beyond 32768 numbers too (DESIGN CHOICE,
log 48). -/
def rangeLen (first last : Seq) : Nat := (last - first).toNat + 1

/-- `a` is later than `b`, over 2^32. -/
def markLater (a b : Mark) : Bool := decide (0 < (a - b).toInt)

/-- The counter has reached a mark: the mark is not later than the counter. -/
def markReached (counter mark : Mark) : Bool := !markLater mark counter

/-- The counter has passed a mark: the counter is later than the mark. -/
def markPassed (counter mark : Mark) : Bool := markLater counter mark

/-! ### Counts and roundings -/

/-- A count that saturates at 65535 rises by one. -/
def bump16 (n : Nat) : Nat := min (n + 1) 65535

/-- A count that saturates at 65535 rises by `k`. -/
def raise16 (n k : Nat) : Nat := min (n + k) 65535

/-- `a / b`, rounded up. -/
def ceilDiv (a b : Nat) : Nat := (a + b - 1) / b

/-- `a / b`, rounded to the nearest whole number, half up. -/
def roundHalfUp (a b : Nat) : Nat := (2 * a + b) / (2 * b)

/-- `a / b`, rounded to the nearest whole number, half away from zero. -/
def roundAway (a : Int) (b : Nat) : Int :=
  if 0 ≤ a then (roundHalfUp a.toNat b : Int) else -(roundHalfUp (-a).toNat b : Int)

/-- A whole number limited to 0–65535. -/
def clamp16 (a : Int) : Nat := min a.toNat 65535

def sumOf (l : List Nat) : Nat := l.foldr (· + ·) 0

/-- The elements that satisfy `p` if there are any, otherwise all of them (R111, R114). -/
def preferring {α : Type} (p : α → Bool) (l : List α) : List α :=
  if (l.filter p).isEmpty then l else l.filter p

/-! ### Addresses and slots -/

/-- A bank address: channel 0–3, position 1–8 (R52). -/
def isBankAddress (a : Src) : Bool :=
  decide (a.chan.toNat ≤ 3) && decide (1 ≤ a.pos.toNat) && decide (a.pos.toNat ≤ 8)

/-- A plant address: channel 15, position 1–4 (R52). -/
def isPlantAddress (a : Src) : Bool :=
  decide (a.chan.toNat = 15) && decide (1 ≤ a.pos.toNat) && decide (a.pos.toNat ≤ 4)

/-- The bus slot of a station (00_scope.md, Stations). -/
def slotOf (chan pos : Nat) : Nat := if chan = 15 then 31 + pos else chan * 8 + pos - 1

/-- The bank's own slot. -/
def ownSlot (s : State) : Nat := slotOf s.ldr.straps.channel s.ldr.straps.position

/-- The bank's own channel and position in a header (R186). -/
def ownSrc (s : State) : Src :=
  ⟨BitVec.ofNat 4 s.ldr.straps.channel, BitVec.ofNat 8 s.ldr.straps.position⟩

/-- The source is the bank's own address. -/
def isOwnAddress (s : State) (a : Src) : Bool :=
  decide (a.chan.toNat = s.ldr.straps.channel) && decide (a.pos.toNat = s.ldr.straps.position)

/-- The source is a bank address of the bank's own channel. -/
def fromOwnChannelBank (s : State) (a : Src) : Bool :=
  isBankAddress a && decide (a.chan.toNat = s.ldr.straps.channel)

/-! ### Lamps, ballasts and modules (R93) -/

def ballastOf (i : Nat) : Nat := (i + 1) / 2

def moduleOf (i : Nat) : Nat := (i + 3) / 4

/-- The lamps of module `m` in index order. -/
def lampsOf (s : State) (m : Nat) : List Lamp := s.seq.lamps.filter fun l => moduleOf l.index == m

/-- The class last recorded for a ballast, and whether it is LOST (R127). -/
def ballastClass (s : State) (b : Nat) : TempClass :=
  ((s.link.ballasts.find? fun r => r.addr == b).map (·.cls)).getD .normal

def ballastLost (s : State) (b : Nat) : Bool :=
  ((s.link.ballasts.find? fun r => r.addr == b).map (·.lost)).getD false

/-! ### Modes and timers -/

/-- DOSING or HOLD: the modes that take part in the dose account. -/
def BankMode.doses : BankMode → Bool
  | .dosing | .hold => true
  | _ => false

/-- HEAD or SOLE: the roles that number the channel's water (R13). -/
def Role.numbers : Role → Bool
  | .head | .sole => true
  | _ => false

/-- STROKE_OUT or STROKE_BACK. -/
def WiperState.stroking : WiperState → Bool
  | .strokeOut | .strokeBack => true
  | _ => false

/-- One more millisecond on a running timer. -/
def tickTimer (t : Option Nat) : Option Nat := t.map (· + 1)

/-- The next millisecond carries a running timer to its limit. -/
def fallsDue (t : Option Nat) (limit : Nat) : Bool :=
  match t with
  | some v => decide (v + 1 = limit)
  | none => false

end Sys2Proof.Machine
end

