-- ==== Sys2Proof/Machine/Flags.lean ====
section
/-! DEFINITION. The flag bits and the codes of frames and records (R2, R71, R187, R188). -/

namespace Sys2Proof.Machine

/-! ### Record flags: bit numbers of R187 -/

def flagEstimated : Byte := 1#8
def flagPlaceholder : Byte := 2#8
def flagMerged : Byte := 4#8
def flagHoldSeen : Byte := 8#8
def flagShortfallSeen : Byte := 16#8
def flagWipeSeen : Byte := 32#8
def flagResync : Byte := 64#8
def flagOverlap : Byte := 128#8

/-- `f` where the condition stands, no flag otherwise. -/
def flagIf (c : Bool) (f : Byte) : Byte := if c then f else 0#8

/-- Bit `n` of the STATUS flags where the condition stands. -/
def statusBit (n : Nat) (c : Bool) : BitVec 16 := if c then BitVec.twoPow 16 n else 0#16

/-! ### Codes (R187, R188) -/

def ResetCause.code : ResetCause → Byte
  | .powerOn => 1
  | .pin => 2
  | .supply => 3
  | .restart => 4

/-- The mode field of a STATUS and of a roster record; LISTEN appears in the self record alone. -/
def BankMode.code : BankMode → Nat
  | .loading => 0
  | .listen => 1
  | .dosing => 2
  | .hold => 3
  | .isolated => 4
  | .failsafe => 5

/-- A received STATUS mode: outside 2–5 it is taken as ISOLATED. -/
def modeOfCode (b : Byte) : BankMode :=
  if b = 2 then .dosing else if b = 3 then .hold else if b = 5 then .failsafe else .isolated

def Role.code : Role → Byte
  | .noRole => 0
  | .head => 1
  | .mid => 2
  | .tail => 3
  | .sole => 4

def OfferState.code : OfferState → Byte
  | .normal => 0
  | .reverse => 1
  | .fault => 2

/-- The state of a received FLOW: any code but NORMAL and REVERSE is FAULT (R75). -/
def flowStateOf (b : Byte) : OfferState := if b = 0 then .normal else if b = 1 then .reverse else .fault

/-- The state of a received UVT: any code but NORMAL, or a value above 100.0 %, is FAULT (R78). -/
def uvtStateOf (value : Nat) (b : Byte) : OfferState := if b = 0 ∧ value ≤ 1000 then .normal else .fault

def LampState.code : LampState → Nat
  | .off => 0
  | .striking => 1
  | .warming => 2
  | .lit => 3
  | .cooling => 4
  | .failed => 5
  | .locked => 6

def FailCause.code : FailCause → Nat
  | .noStrike => 1
  | .lampOpen => 2
  | .lampShort => 3
  | .ballastHot => 4
  | .ballastLost => 5

def EntryState.code : EntryState → Nat
  | .heard => 0
  | .active => 1
  | .conflict => 2
  | .lost => 3

def LoadFailure.code : LoadFailure → Nat
  | .imageAbsent => 1
  | .imageCrc => 2
  | .imageRange => 3

/-- LEAVE reasons. -/
def leavePosition : Byte := 1
def leaveDigest : Byte := 2
def leaveConfig : Byte := 3
def leaveRestart : Byte := 4

/-- REPORT outcomes. -/
def outcomeDone : Byte := 0
def outcomeRefused : Byte := 1
def outcomeData : Byte := 2

/-- The wiping bit and the CONFIG_FAIL bit of received STATUS flags. -/
def wipingFlag (f : BitVec 16) : Bool := f.getLsbD 0
def configFailFlag (f : BitVec 16) : Bool := f.getLsbD 12

/-! ### The ballast link's outputs (R123, R124) -/

def SlotAction.code : SlotAction → Nat
  | .off => 0
  | .strike => 1
  | .on => 2
  | .read => 3

/-- The level sent with an action: none with OFF and READ, 100 % with STRIKE, the slot's with ON (R124). -/
def SlotHalf.sentLevel (h : SlotHalf) : Nat :=
  match h.action with
  | .off | .read => 0
  | .strike => 10
  | .on => h.level

/-- A byte of two four-bit codes, the first in the high half (log 25). -/
def codePair (a b : Nat) : Byte := BitVec.ofNat 4 a ++ BitVec.ofNat 4 b

/-- The three command bytes of a visit (R124). -/
def Visit.command (v : Visit) : List Byte :=
  [BitVec.ofNat 8 v.ballast, codePair v.a.action.code v.b.action.code, codePair v.a.sentLevel v.b.sentLevel]

/-- A byte as it is sent: most significant bit first (R123). -/
def bitsMsbFirst (b : Byte) : List Bool :=
  [b.getLsbD 7, b.getLsbD 6, b.getLsbD 5, b.getLsbD 4, b.getLsbD 3, b.getLsbD 2, b.getLsbD 1, b.getLsbD 0]

/-- The outputs over one clock period: whether BCLK runs (it idles low), and the level of BDO (R123). -/
structure LinePeriod where
  clocked : Bool
  bdo     : Bool
  deriving DecidableEq, Repr

/-- BCLK idle low, BDO idle high. -/
def LinePeriod.idle : LinePeriod := ⟨false, true⟩

/-- The 64 clock periods of an exchange: command, turnaround, reply, gap (R123). -/
def Visit.exchange (v : Visit) : List LinePeriod :=
  (v.command.flatMap bitsMsbFirst).map (fun x => ⟨true, x⟩) ++ List.replicate 8 ⟨true, true⟩ ++
    List.replicate 24 ⟨true, true⟩ ++ List.replicate 8 .idle

/-- The outputs over clock period `k` since the visit in flight began: those of its exchange, and idle after it; idle
throughout with no visit in flight, as in LOADING, in reset and between visits (R123). -/
def Link.outputs (l : Link) (k : Nat) : LinePeriod :=
  match l.visit with
  | some v => (v.exchange[k]?).getD .idle
  | none => .idle

end Sys2Proof.Machine
end

