-- ==== Sys2Proof/Machine/Bus.lean ====
section
/-! DEFINITION. The bus interface's own operations: classes, the transmit queue, posting, withdrawing, access,
collision and the receive assembler (chapter 9). -/

namespace Sys2Proof.Machine

/-! ### Classes (R179) and waits (R174) -/

/-- 0 URGENT, 1 NORMAL, 2 LOW. -/
def classOf : Body → Nat
  | .parcel _ | .wipeClaim | .wipeActive | .wipeDone _ | .leave _ => 0
  | .flow _ | .uvt _ | .discharge _ | .join _ | .command _ _ => 1
  | .status _ | .report _ => 2

def Frame.cls (f : Frame) : Nat := classOf f.body

/-- The class offset in bit times. -/
def classOffset (c : Nat) : Nat := 72 * c

/-- W for the head frame, in bit times: class offset, slot, penalty (R174). -/
def waitFor (f : Frame) (slot penalty : Nat) : Nat := classOffset f.cls + slot + penalty

/-- STATUS, FLOW and UVT: the types of which at most one waits (R178, R180). -/
def renewable : Body → Bool
  | .status _ | .flow _ | .uvt _ => true
  | _ => false

def Frame.isParcel (f : Frame) : Bool :=
  match f.body with
  | .parcel _ => true
  | _ => false

/-- A waiting frame of the type of `b`, where `b` is a STATUS, a FLOW or a UVT. -/
def sameRenewable (b : Body) (g : Frame) : Bool := renewable b && decide (g.body.typeCode = b.typeCode)

/-! ### Places in the queue (R178) -/

/-- The transmit queue holds at most 12 waiting frames (R178). -/
def transmitCap : Nat := 12

/-- Joins by class and age: after every waiting frame of its own class. -/
def enqueue (f : Frame) : List Frame → List Frame
  | [] => [f]
  | g :: rest => if g.cls ≤ f.cls then g :: enqueue f rest else f :: g :: rest

/-- Returns to the head of its class: before every waiting frame of its own class (R177). -/
def requeue (f : Frame) : List Frame → List Frame
  | [] => [f]
  | g :: rest => if g.cls < f.cls then g :: requeue f rest else f :: g :: rest

/-- Takes the place of the waiting frame of its own type (R180). -/
def renew (f : Frame) : List Frame → List Frame
  | [] => []
  | g :: rest => if sameRenewable f.body g then f :: rest else g :: renew f rest

/-- The oldest frame of the least urgent class, where that is not URGENT (R181). -/
def displaceable (q : List Frame) : Option Frame :=
  match q.getLast? with
  | some g => if g.cls = 0 then none else q.find? fun h => h.cls == g.cls
  | none => none

/-- The queue without the frame of a ticket. -/
def dropTicket (t : Nat) (q : List Frame) : List Frame := q.filter fun g => g.ticket != t

/-- The waiting PARCEL after a newer one is merged into it (R182), its range beyond 32768 numbers too (DESIGN CHOICE,
log 48). -/
def mergeParcel (a b : ParcelBody) : ParcelBody :=
  { a with lastSeq := b.lastSeq
           dose := if b.dose.toNat < a.dose.toNat then b.dose else a.dose
           flags := a.flags ||| b.flags ||| flagMerged }

/-- The newest waiting PARCEL (R182). -/
def newestParcel (q : List Frame) : Option Frame := (q.filter Frame.isParcel).getLast?

/-- The queue with a PARCEL merged into the newest waiting one, where that is adjacent (R182). -/
def mergeInto (b : ParcelBody) (q : List Frame) : Option (List Frame) :=
  match newestParcel q with
  | some g =>
    match g.body with
    | .parcel a =>
      if a.lastSeq + 1 = b.firstSeq then
        some (q.map fun h =>
          if h.isParcel && h.ticket == g.ticket then { h with body := .parcel (mergeParcel a b) } else h)
      else none
    | _ => none
  | none => none

/-! ### Posting (R180–R183) -/

/-- The bus interface after an operation, with the frames given up in it. -/
structure Posted where
  bus     : Bus
  givenUp : List Frame
  deriving DecidableEq, Repr

/-- A frame refused (R183). -/
def Bus.refuse (b : Bus) (f : Frame) : Posted := ⟨{ b with dropped := bump16 b.dropped }, [f]⟩

/-- A full queue: displacement, merge or refusal (R181, R182, R183). -/
def Bus.postFull (b : Bus) (f : Frame) : Posted :=
  if f.cls = 0 then
    match displaceable b.queue with
    | some g => ⟨{ b with queue := enqueue f (dropTicket g.ticket b.queue), dropped := bump16 b.dropped }, [g]⟩
    | none =>
      match f.body with
      | .parcel p =>
        match mergeInto p b.queue with
        | some q => ⟨{ b with queue := q }, []⟩
        | none => b.refuse f
      | _ => b.refuse f
  else b.refuse f

/-- A frame is posted (R180, R181). -/
def Bus.post (b : Bus) (f : Frame) : Posted :=
  if b.queue.any (sameRenewable f.body) then ⟨{ b with queue := renew f b.queue }, []⟩
  else if b.queue.length < transmitCap then ⟨{ b with queue := enqueue f b.queue }, []⟩
  else b.postFull f

/-- The bus's own part of giving a frame up: parcels lost and refused discharges (R183). -/
def Bus.countGivenUp (b : Bus) (f : Frame) : Bus :=
  match f.body with
  | .parcel _ => { b with lost := bump16 b.lost }
  | .discharge _ => { b with refusedDischarges := bump16 b.refusedDischarges }
  | _ => b

/-! ### Withdrawing (R184) -/

/-- Every waiting PARCEL leaves the queue and is counted lost; one in flight is marked (R29, R184). -/
def Bus.withdrawParcels (b : Bus) : Bus :=
  { b with
    lost := raise16 b.lost (b.queue.filter Frame.isParcel).length
    queue := b.queue.filter fun f => !f.isParcel
    inFlight := b.inFlight.map fun x => if x.frame.isParcel then { x with withdrawn := true } else x }

/-- The claim of a ticket is taken back, or marked where it is in flight (R184). -/
def Bus.withdrawClaim (b : Bus) (t : Nat) : Bus :=
  { b with
    queue := dropTicket t b.queue
    inFlight := b.inFlight.map fun x => if x.frame.ticket = t then { x with withdrawn := true } else x }

/-! ### Transmission (R174, R176, R177) -/

/-- The bytes of a frame on the line. -/
def Frame.bytes (f : Frame) : List Byte := frameBytes f.src f.body

/-- The characters of a frame as sent (R170). -/
def Frame.chars (f : Frame) : List (BitVec 11) := lineChars f.bytes

/-- The head leaves the queue and becomes the frame in flight (R176). -/
def Bus.begin (b : Bus) : Bus :=
  match b.queue with
  | f :: rest => { b with queue := rest, inFlight := some ⟨f, false⟩, access := none }
  | [] => b

/-! ### The characters read back (R176) -/

/-- Of the characters read back the last one, and no earlier one, differs in its 11 bits from the one sent. -/
def differsLast : List (BitVec 11) → List (BitVec 11) → Bool
  | s :: _, [r] => decide (r ≠ s)
  | s :: sent, r :: read => decide (r = s) && differsLast sent read
  | _, _ => false

/-- A character read back, as the assembler takes it: back to back with the one before (R170). -/
def readBackChar (c : BitVec 11) : RxChar :=
  { byte := c.extractLsb' 1 8, mark := c.getLsbD 9, stop := c.getLsbD 10, quiet := 0 }

/-- A frame returns to the queue after a collision (R177). -/
def Bus.takeBack (b : Bus) (f : Frame) : Posted :=
  if b.queue.any (sameRenewable f.body) then ⟨b, []⟩
  else if b.queue.length < transmitCap then ⟨{ b with queue := requeue f b.queue }, []⟩
  else
    match (requeue f b.queue).getLast? with
    | some g =>
      ⟨{ b with queue := (requeue f b.queue).dropLast, dropped := bump16 b.dropped }, [g]⟩
    | none => ⟨b, []⟩

/-- The frame in flight meets a collision, `asm` being the assembler after it (R177, R184). -/
def Bus.collide (b : Bus) (x : InFlight) (asm : Assembler) : Posted :=
  let b := { b with inFlight := none, collisions := bump16 b.collisions, asm := asm }
  let f : Frame := { x.frame with coll := x.frame.coll + 1 }
  if x.withdrawn then ⟨if f.isParcel then { b with lost := bump16 b.lost } else b, []⟩
  else if f.coll < 16 then b.takeBack f
  else ⟨{ b with dropped := bump16 b.dropped, busFault := true }, [f]⟩

/-- Every character read back as sent: the assembler holds the bank's own frame whole (R171, R176; log 22). -/
def Bus.complete (b : Bus) (x : InFlight) : Bus :=
  { b with inFlight := none, served := true, busFault := false, asm := ⟨.inFrame, x.frame.bytes, true⟩ }

/-! ### Receiving (R171) -/

/-- Quiet before a character: at 14 bit times a frame in progress is complete and, unless it is the bank's own, is
judged, and the assembler goes to IDLE; the flag tells a receive error (R171, R173). -/
def Assembler.settle (a : Assembler) (quiet : Nat) : Assembler × Bool :=
  if 14 ≤ quiet then
    (⟨.idle, [], false⟩, decide (a.phase = .inFrame) && !a.own && (judgeFrame a.chars).isNone)
  else (a, false)

/-- One character, by the table of R171, read while the bank transmits (`sending`) or from another station; the flag
tells a receive error, of which the bank's own frame counts none (R173). A character with mark 1 whose stop bit reads 0
meets two rows of the table, which names no first one: that it is taken as the framing error in every state is the
model's choice (DESIGN CHOICE, log 47). -/
def Assembler.take (a : Assembler) (sending : Bool) (c : RxChar) : Assembler × Bool :=
  let begun : Assembler := ⟨.inFrame, [c.byte], sending⟩
  let skip : Assembler := ⟨.skip, [], false⟩
  match a.phase with
  | .idle => if c.stop && c.mark then (begun, false) else (skip, !sending)
  | .inFrame =>
    if !c.stop then (skip, !a.own)
    else if c.mark then (begun, !a.own)
    else if 6 < c.quiet then (skip, !a.own)
    else if 53 ≤ a.chars.length then (skip, !a.own)
    else ({ a with chars := a.chars ++ [c.byte] }, false)
  | .skip => if c.stop && c.mark then (begun, false) else (skip, false)

/-- A receive error is counted. -/
def Bus.countError (b : Bus) (error : Bool) : Bus :=
  if error then { b with rxErrors := bump16 b.rxErrors } else b

/-- The bank's own characters, read back, enter the assembler together; that one whose start bit reads 1 begins no
character is read from R170 (R171, R176; log 22). -/
def Assembler.takeReadBack (a : Assembler) (read : List (BitVec 11)) : Assembler :=
  (read.filter fun c => !c.getLsbD 0).foldl (fun a c => (a.take true (readBackChar c)).1) a

/-- A character of another station with the quiet before it; its start bit ends an access (R174). -/
def Bus.takeChar (b : Bus) (c : RxChar) : Bus :=
  let x := b.asm.settle c.quiet
  let y := x.1.take false c
  ({ b with asm := y.1, access := none }.countError x.2).countError y.2

/-- A run of characters. -/
def Bus.takeRun (b : Bus) (run : List RxChar) : Bus := run.foldl Bus.takeChar b

/-- The line falls quiet for 14 bit times (R171). -/
def Bus.takeQuiet (b : Bus) : Bus :=
  let x := b.asm.settle 14
  { b with asm := x.1 }.countError x.2

/-- An accepted frame has been read: no access is open and the assembler is IDLE (R171, R174). -/
def Bus.frameTaken (b : Bus) : Bus := { b with access := none, asm := ⟨.idle, [], false⟩ }

/-! ### What goes out (R170, R186) -/

/-- The bits the bank drives while a frame is in flight; the line is released at all other times (R170). -/
def Bus.driven (b : Bus) : List Bool :=
  match b.inFlight with
  | some x => lineBits x.frame.bytes
  | none => []

end Sys2Proof.Machine
end

