-- ==== Sys2Proof/Machine/Fluence.lean ====
section
/-! DEFINITION. What the blocks compute from their state whenever it is read: the flow and the transmittance
held, G, the values of the inputs, F_eff, F_max, F_lit_full, F_committed, F_min and P (R73, R78, R81, R82, R87,
R144–R151; log 9). -/

namespace Sys2Proof.Machine

/-! ### Flow, transmittance and G -/

/-- Q in 0.001 m³/s, as every other block reads it (R73). -/
def flowQ (s : State) : Nat :=
  match s.pln.flow with
  | .normal q => q
  | .reverse => 0
  | .stale => s.ldr.cfg.qDesign

/-- The UVT held, in 0.1 % (R78). -/
def uvtValue (s : State) : Nat :=
  match s.pln.uvt with
  | .normal v => v
  | .stale => s.ldr.cfg.uvtWorst

/-- G in 0.001 from the table, by the first row of R81 that applies; 0 where no table is held. -/
def gTable : List (Nat × Nat) → Nat → Nat
  | [], _ => 0
  | [p], _ => p.2
  | p :: q :: rest, u =>
    if u ≤ p.1 then p.2
    else if u < q.1 then roundHalfUp (p.2 * (q.1 - u) + q.2 * (u - p.1)) (q.1 - p.1)
    else gTable (q :: rest) u

/-- The factor the planner hands the fluence estimator (R81). -/
def gFactor (s : State) : Nat := gTable s.ldr.cfg.table (uvtValue s)

/-! ### Inputs: AI0–AI5 are 0–5, AI6 is 6, AI7 is 7 -/

def inputAt (s : State) (i : Nat) : Input := (s.scn.inputs[i]?).getD Input.fresh

/-- The inputs a scan converts, in order (R137). -/
def convertedInputs (s : State) : List Nat :=
  List.range (min s.ldr.cfg.nMod 6) ++ (if s.ldr.straps.flowSrc then [6] else []) ++
    (if s.ldr.straps.uvtSrc then [7] else [])

/-- The wiper stands in STROKE_OUT or STROKE_BACK. -/
def inStroke (s : State) : Bool := s.wip.state.stroking

/-- The value of a module sensor in 0.01 mW/cm² (R145); `none` while its window is empty. -/
def sensorValue (span : Nat) (i : Input) : Option Nat :=
  if i.window = [] then none
  else some (min (roundHalfUp ((sumOf i.window - 20 * i.window.length) * span) (980 * i.window.length)) 65535)

/-- The value of the flow input in 0.001 m³/s (R147). -/
def flowInputValue (qSpan : Nat) (i : Input) : Option Nat :=
  if i.window = [] then none
  else some (min (min ((sumOf i.window - 200 * i.window.length) * qSpan / (800 * i.window.length)) qSpan) 65535)

/-- The value of the UVT input in 0.1 % (R147). -/
def uvtInputValue (i : Input) : Option Nat :=
  if i.window = [] then none
  else some (min (roundHalfUp ((sumOf i.window - 200 * i.window.length) * 1000) (800 * i.window.length)) 1000)

/-! ### Lamp sums -/

/-- Fitted, and in neither FAILED nor LOCKED (R87, R151). -/
def Lamp.available (l : Lamp) : Bool := l.fitted && decide (l.state ≠ .failed) && decide (l.state ≠ .locked)

/-- In LIT, WARMING or STRIKING (R151). -/
def Lamp.committed (l : Lamp) : Bool :=
  decide (l.state = .lit) || decide (l.state = .warming) || decide (l.state = .striking)

def Lamp.isLit (l : Lamp) : Bool := decide (l.state = .lit)

/-- Burning at the sensor: LIT or WARMING (R149). -/
def Lamp.burning (l : Lamp) : Bool := decide (l.state = .lit) || decide (l.state = .warming)

/-- Being lit: STRIKING or WARMING. -/
def Lamp.igniting (l : Lamp) : Bool := decide (l.state = .striking) || decide (l.state = .warming)

/-- The sum of the output estimates of the lamps that satisfy `p`. -/
def eSum (ls : List Lamp) (p : Lamp → Bool) : Nat := sumOf ((ls.filter p).map (·.e))

/-- The sum of commanded level × e over the LIT lamps, in tenths of an estimate. -/
def litLevelSum (ls : List Lamp) : Nat := sumOf ((ls.filter Lamp.isLit).map fun l => l.slot.level * l.e)

/-- The sum of the commanded levels of the LIT lamps, in tenths. -/
def litLevels (ls : List Lamp) : Nat := sumOf ((ls.filter Lamp.isLit).map fun l => l.slot.level)

/-- G × a sum of estimates / N_mod, rounded down to 0.01 mW/cm² and limited (R151). -/
def fluenceOf (s : State) (sum : Nat) : Nat := min (gFactor s * sum / (1000 * s.ldr.cfg.nMod)) 65535

/-- F_max (R151). -/
def fMax (s : State) : Nat := fluenceOf s (eSum s.seq.lamps Lamp.available)

/-- F_lit_full (R151). -/
def fLitFull (s : State) : Nat := fluenceOf s (eSum s.seq.lamps Lamp.isLit)

/-- F_committed (R151). -/
def fCommitted (s : State) : Nat := fluenceOf s (eSum s.seq.lamps Lamp.committed)

/-- F_min: min_lit lamps at 50 %, the lowest estimates, rounded up, never above F_max (R87). -/
def fMin (s : State) : Nat :=
  let es := ((s.seq.lamps.filter Lamp.available).map (·.e)).insertionSort (· ≤ ·)
  min (ceilDiv (gFactor s * sumOf (es.take s.ldr.cfg.minLit)) (2000 * s.ldr.cfg.nMod)) (fMax s)

/-- P in 0.1 (mW/cm²)·m³, rounded down, saturating (R82). -/
def capacityP (s : State) : Nat := min (fMax s * s.ldr.cfg.z / 1000) 65535

/-! ### Contributions and F_eff -/

/-- A module is estimated: its sensor in FAULT and a lamp of it LIT (R144). -/
def moduleEstimated (s : State) (m : Nat) : Bool :=
  (inputAt s (m - 1)).fault && (lampsOf s m).any Lamp.isLit

/-- The modules 1 to N_mod. -/
def modules (s : State) : List Nat := (List.range s.ldr.cfg.nMod).map (· + 1)

/-- At least one module is estimated (R144). -/
def anyEstimated (s : State) : Bool := (modules s).any (moduleEstimated s)

/-- The contribution c_m, exact, in units of 0.01 mW/cm² / 20000, by the first row of R149 that holds. -/
def contribution (s : State) (m : Nat) : Nat :=
  let ls := lampsOf s m
  let i := inputAt s (m - 1)
  if !ls.any Lamp.burning then 0
  else if i.fault then (if ls.any Lamp.isLit then gFactor s * litLevelSum ls else 0)
  else match sensorValue s.ldr.cfg.sensorSpan i with
    | none => 0
    | some v => v * gFactor s * 20

/-- F_eff (R150): the mean contribution, × 0.80 during a stroke, rounded down and limited; 0.00 from a reset until the
first scan that R154 names. That it follows a commanded level within the event that changes it, which the list of
R151 does not name, is the model's choice (DESIGN CHOICE, log 46). -/
def fEff (s : State) : Nat :=
  let sum := sumOf ((modules s).map (contribution s))
  if !s.scn.fEffBegun then 0
  else if inStroke s then min (sum * 80 / (100 * (20000 * s.ldr.cfg.nMod))) 65535
  else min (sum / (20000 * s.ldr.cfg.nMod)) 65535

end Sys2Proof.Machine
end

