-- ==== Sys2Proof/Machine/Parcels.lean ====
section
/-! DEFINITION. The parcel tracker's own operations: joining and merging, the watermark, the pending break, the
continuity check, counting, creating, crediting and the exit step, and the start of creation (chapters 1 and 2). -/

namespace Sys2Proof.Machine

/-- The parcel queue holds at most 16 records (R3). -/
def queueCap : Nat := 16

/-- The newest record after a record, already brought into line, is merged into it (R25). That its range may so grow
beyond R1's 32768 numbers is the model's choice (DESIGN CHOICE, log 48). -/
def mergeRecord (back r : ParcelRec) : ParcelRec :=
  { back with lastSeq := r.lastSeq, dose := min back.dose r.dose, flags := back.flags ||| r.flags ||| flagMerged }

/-- Puts a record that is in line with the back at the back, or merges it into the newest of 16 (R4, R25). -/
def appendRecord (q : List ParcelRec) (r : ParcelRec) : List ParcelRec :=
  if q.length < queueCap then q ++ [r]
  else match q.getLast? with
    | some back => q.dropLast ++ [mergeRecord back r]
    | none => [r]

/-- A record brought into line with a back record whose range ends at `last`; `none` where R4 discards it. R1 gives a
range at most 32768 numbers and R4 bounds none it lets a record absorb: that the range then grows beyond 32768, its
length taken mod 65536 as R1 computes it, is the model's choice (DESIGN CHOICE, log 48). At a distance of exactly
−32768 the case is that of an earlier first_seq (DEDUCED, log 10). -/
def alignRecord (last : Seq) (r : ParcelRec) : Option ParcelRec :=
  if r.firstSeq = last + 1 then some r
  else if seqLater r.firstSeq (last + 1) then
    some { r with firstSeq := last + 1, flags := r.flags ||| flagResync }
  else if seqLater r.lastSeq last then some { r with firstSeq := last + 1, flags := r.flags ||| flagOverlap }
  else none

/-- The marks a record takes on joining (R4). -/
def Tracker.marked (t : Tracker) (z : Nat) (r : ParcelRec) : ParcelRec :=
  { r with entryMark := t.counter, exitMark := t.counter + BitVec.ofNat 32 z }

/-- A record joins the back of the queue (R4, R25); next_expected follows it, and a discarded record is counted
as a duplicate. -/
def Tracker.join (t : Tracker) (z : Nat) (r : ParcelRec) : Tracker :=
  match t.queue.getLast? with
  | none => { t with queue := [t.marked z r], nextExpected := some (r.lastSeq + 1) }
  | some back =>
    match alignRecord back.lastSeq (t.marked z r) with
    | some r' => { t with queue := appendRecord t.queue r', nextExpected := some (r'.lastSeq + 1) }
    | none => { t with duplicates := bump16 t.duplicates }

/-- The zero-dose record for `first … last` made at position `own` (R37). -/
def placeholder (own : Nat) (first last : Seq) : ParcelRec :=
  { firstSeq := first, lastSeq := last, entryMark := 0, exitMark := 0, dose := 0, origin := BitVec.ofNat 8 own,
    flags := flagPlaceholder }

/-- A placeholder joins and is counted (R37, R40). -/
def Tracker.joinPlaceholder (t : Tracker) (z own : Nat) (first last : Seq) : Tracker :=
  let t := t.join z (placeholder own first last)
  { t with placeholders := bump16 t.placeholders }

/-- A watermark candidate (R35). -/
def Tracker.offerWatermark (t : Tracker) (c : Seq) : Tracker :=
  match t.watermark with
  | none => { t with watermark := some c }
  | some w => if seqLater c w then { t with watermark := some c } else t

/-- The continuity check of an accepted arrival, by the first row of R36 that applies. -/
def Tracker.accept (t : Tracker) (z own : Nat) (r : ParcelRec) : Tracker :=
  match t.nextExpected with
  | none => t.join z r
  | some ne =>
    let d := seqDist ne r.firstSeq
    if d = 0 then t.join z r
    else if 0 < d ∧ t.brk.map (·.seq) = some r.firstSeq then { t with brk := none }.join z r
    else if 0 < d ∧ d ≤ 64 then (t.joinPlaceholder z own ne (r.firstSeq - 1)).join z r
    else if 64 < d then
      { t with resyncs := bump16 t.resyncs }.join z { r with flags := r.flags ||| flagResync }
    else if seqLater ne r.lastSeq then { t with duplicates := bump16 t.duplicates }
    else
      { t with overlaps := bump16 t.overlaps }.join z
        { r with firstSeq := ne, flags := r.flags ||| flagOverlap }

/-- An arrival on which no count of R40 changes: one that uses up a pending break, or one met with next_expected
absent (R36, R40, R42). -/
def Tracker.countsNothing (t : Tracker) (r : ParcelRec) : Bool :=
  match t.nextExpected with
  | none => true
  | some ne => decide (0 < seqDist ne r.firstSeq) && decide (t.brk.map (·.seq) = some r.firstSeq)

/-- An adopted arrival: counted, and treated exactly as one accepted by name (R32, R40). That R36's words 'no count
of R40 changes' hold for the adoption count where next_expected is absent is read from the rules (DEDUCED, log 41). -/
def Tracker.adopt (t : Tracker) (z own : Nat) (r : ParcelRec) : Tracker :=
  (if t.countsNothing r then t else { t with adoptions := bump16 t.adoptions }).accept z own r

/-! ### The four steps of an accrual expiry (R10) -/

/-- The counting step in DOSING: Q × 0.2 s into residue and counter (R11). -/
def Tracker.count (t : Tracker) (q : Nat) : Tracker :=
  { t with residue := (t.residue + q) % 50, counter := t.counter + BitVec.ofNat 32 ((t.residue + q) / 50) }

/-- The parcels completed since the creation mark: k of R14. -/
def Tracker.completed (t : Tracker) (vP : Nat) : Nat := (t.counter - t.creationMark).toNat / vP

/-- The record for the `k` numbers from `ne` (R14). -/
def createdRecord (own : Nat) (ne : Seq) (k : Nat) (resync : Bool) : ParcelRec :=
  { firstSeq := ne, lastSeq := ne + BitVec.ofNat 16 k - 1, entryMark := 0, exitMark := 0, dose := 0,
    origin := BitVec.ofNat 8 own, flags := flagIf resync flagResync }

/-- The creation step (R14, R15); the first record after a takeover carries RESYNC where R45 or R46 sets it, and
the resync count rises with it (log 14). -/
def Tracker.create (t : Tracker) (z own vP : Nat) : Tracker :=
  match t.creating, t.nextExpected with
  | true, some ne =>
    if t.completed vP = 0 then t
    else
      let t' := t.join z (createdRecord own ne (t.completed vP) t.firstResync)
      { t' with
        creationMark := t.creationMark + BitVec.ofNat 32 (t.completed vP * vP)
        firstResync := false
        resyncs := if t.firstResync then bump16 t.resyncs else t.resyncs }
  | _, _ => t

/-- One record on the credit step: dose and flags unless the counter has passed its exit mark (R17, R18). -/
def creditRecord (counter : Mark) (fluence : Nat) (conditions : Byte) (r : ParcelRec) : ParcelRec :=
  if markPassed counter r.exitMark then r
  else { r with dose := min (r.dose + 2 * fluence) 999999, flags := r.flags ||| conditions }

/-- The credit step (R17, R18). -/
def Tracker.credit (t : Tracker) (fluence : Nat) (conditions : Byte) : Tracker :=
  { t with queue := t.queue.map (creditRecord t.counter fluence conditions) }

/-- The records that leave on the exit step, front first (R21). -/
def Tracker.leaving (t : Tracker) : List ParcelRec :=
  t.queue.takeWhile fun r => markReached t.counter r.exitMark

/-- The queue after the exit step (R21). -/
def Tracker.exit (t : Tracker) : Tracker :=
  { t with queue := t.queue.dropWhile fun r => markReached t.counter r.exitMark }

/-- The verdict on a record: MET or UNDER (R23). -/
def verdictMet (dT : Nat) (r : ParcelRec) : Bool := decide (dT ≤ r.dose)

/-- The tail's counts with one record judged (R24). -/
def Tracker.judged (t : Tracker) (dT : Nat) (r : ParcelRec) : Tracker :=
  let n := BitVec.ofNat 32 (rangeLen r.firstSeq r.lastSeq)
  { t with
    discharged := t.discharged + n
    underdosed := if verdictMet dT r then t.underdosed else t.underdosed + n
    estimated := if r.flags.getLsbD 0 then t.estimated + n else t.estimated }

/-- The remaining volume of a record (R21). -/
def remainingVolume (t : Tracker) (r : ParcelRec) : Nat := (r.exitMark - t.counter).toNat

/-! ### Creation begins and stops -/

/-- How a bank became head (R43). -/
inductive HeadWay where
  | byJoining (startSeq : Seq)
  | onReturn
  | byLoss
  deriving DecidableEq, Repr

/-- The watermark + 256, or 256 while it is absent (R44, R46). -/
def Tracker.guardedStart (t : Tracker) : Seq :=
  match t.watermark with
  | some w => w + 256
  | none => 256

/-- next_expected set to a creation start, unless that is earlier than the one held (R13). -/
def Tracker.expectFrom (t : Tracker) (start : Seq) : Tracker :=
  match t.nextExpected with
  | none => { t with nextExpected := some start }
  | some ne => if seqLater ne start then t else { t with nextExpected := some start }

/-- The creation start of a takeover by loss, with its placeholder or its RESYNC (R45). -/
def Tracker.takeOverByLoss (t : Tracker) (z own : Nat) : Tracker :=
  match t.nextExpected, t.watermark with
  | some ne, some w =>
    let d := seqDist ne w
    if 0 < d ∧ d ≤ 64 then (t.joinPlaceholder z own ne (w - 1)).expectFrom w
    else if 64 < d then { t with firstResync := true }.expectFrom w
    else t
  | some _, none => t
  | none, some w => t.expectFrom w
  | none, none => t.expectFrom 256

/-- Creation begins (R13), by the way of R44, R45 or R46. -/
def Tracker.begin (t : Tracker) (z own : Nat) (way : HeadWay) : Tracker :=
  let t := { t with creationMark := t.counter, creating := true, firstResync := false }
  match way with
  | .byJoining start => t.expectFrom start
  | .onReturn => { t with firstResync := true }.expectFrom t.guardedStart
  | .byLoss => t.takeOverByLoss z own

/-- Creation stops (R16). -/
def Tracker.stop (t : Tracker) : Tracker := { t with creating := false, firstResync := false }

/-- The tracker on entry to ISOLATED (R6). -/
def Tracker.isolate (t : Tracker) : Tracker := { t.stop with queue := [], nextExpected := none }

end Sys2Proof.Machine
end

