-- ==== Sys2Proof/Machine/Roster.lean ====
section
/-! DEFINITION. The roster's own operations: order, learning, ageing, conflicts, the reference digest, the
participating peers and the neighbours (R50–R63). -/

namespace Sys2Proof.Machine

/-- The roster holds at most 40 entries (R51). -/
def rosterCap : Nat := 40

def RosterEntry.key (e : RosterEntry) : EntryKey := ⟨e.chan, e.pos, e.serial⟩

/-- Roster order: by slot; within a slot no serial first, then by rising serial (R51). -/
def RosterEntry.order (e : RosterEntry) : Nat :=
  slotOf e.chan e.pos * 0x200000000 + (match e.serial with | none => 0 | some x => x.toNat + 1)

/-- An entry takes its place in roster order. -/
def insertEntry (e : RosterEntry) : List RosterEntry → List RosterEntry
  | [] => [e]
  | g :: rest => if e.order < g.order then e :: g :: rest else g :: insertEntry e rest

/-- A new entry: every optional field absent (R50). -/
def freshEntry (chan pos : Nat) (serial : Option Serial) : RosterEntry :=
  { isSelf := false, chan := chan, pos := pos, serial := serial, state := .heard, mode := none, digest := none,
    p := none, flags := 0, wiping := none, lastHeard := 0, sinceLost := none }

/-- The self entry (R50). -/
def selfEntry (chan pos : Nat) (serial : Serial) : RosterEntry :=
  { freshEntry chan pos (some serial) with isSelf := true, state := .active }

/-- A foreign entry at an address. -/
def RosterEntry.foreignAt (a : Src) (e : RosterEntry) : Bool :=
  !e.isSelf && decide (e.chan = a.chan.toNat) && decide (e.pos = a.pos.toNat)

def RosterEntry.isLost (e : RosterEntry) : Bool := decide (e.state = .lost)

/-- A foreign entry with a key. -/
def RosterEntry.hasKey (k : EntryKey) (e : RosterEntry) : Bool := !e.isSelf && decide (e.key = k)

def Roster.change (r : Roster) (k : EntryKey) (f : RosterEntry → RosterEntry) : Roster :=
  { r with entries := r.entries.map fun e => if e.hasKey k then f e else e }

/-- An entry is removed. -/
def Roster.remove (r : Roster) (k : EntryKey) : Roster :=
  { r with entries := r.entries.filter fun e => !e.hasKey k }

/-- The first entry with the largest since-LOST age, among those LOST. -/
def longestLost : List RosterEntry → Option RosterEntry
  | [] => none
  | e :: rest =>
    match longestLost rest with
    | none => if e.isLost && !e.isSelf then some e else none
    | some g => if e.isLost && !e.isSelf && decide (g.sinceLost.getD 0 ≤ e.sinceLost.getD 0) then some e else some g

/-- The first entry with the smallest since-LOST age. R53 gives no tie rule: that the first in roster order is taken
is the model's choice (DESIGN CHOICE, log 35). -/
def latestLost : List RosterEntry → Option RosterEntry
  | [] => none
  | e :: rest =>
    match latestLost rest with
    | none => some e
    | some g => if e.sinceLost.getD 0 ≤ g.sinceLost.getD 0 then some e else some g

/-- A new entry is taken in, in the place of the longest LOST where the roster is full, or not at all (R54). -/
def Roster.add (r : Roster) (e : RosterEntry) : Roster :=
  if r.entries.length < rosterCap then { r with entries := insertEntry e r.entries }
  else match longestLost r.entries with
    | some g => { r with entries := insertEntry e (r.remove g.key).entries }
    | none => { r with unlearned := bump16 r.unlearned }

/-- An entry refreshed (R52). -/
def RosterEntry.refreshed (e : RosterEntry) : RosterEntry := { e with lastHeard := 0, sinceLost := none }

/-- An entry gone LOST (R57, R58). -/
def RosterEntry.goneLost (e : RosterEntry) : RosterEntry :=
  { e with state := .lost, sinceLost := some 0, wiping := none }

/-- A frame without a serial (R53); a source outside the address space is not learned (R52). That one from the bank's
own address makes an entry where the self entry alone is held there is the model's choice: the table sets the self
entry aside, the last paragraph of R53 does not (DESIGN CHOICE, log 43). -/
def Roster.learnPlain (r : Roster) (a : Src) : Roster :=
  if !(isBankAddress a || isPlantAddress a) then r
  else
    let held := r.entries.filter (RosterEntry.foreignAt a)
    match held, held.filter fun e => !e.isLost with
    | [], _ => r.add (freshEntry a.chan.toNat a.pos.toNat none)
    | _, [e] => r.change e.key RosterEntry.refreshed
    | _, _ :: _ :: _ => r
    | _, [] =>
      match latestLost held with
      | some e => r.change e.key fun e => { e.refreshed with state := .heard }
      | none => r

/-- A JOIN or STATUS with identity: the entry is found, completed or made, and takes the frame's fields
(R52, R55). -/
def Roster.learnIdentity (r : Roster) (a : Src) (serial : Serial) (fields : RosterEntry → RosterEntry) : Roster :=
  let k : EntryKey := ⟨a.chan.toNat, a.pos.toNat, some serial⟩
  if r.entries.any (RosterEntry.hasKey k) then r.change k fun e => fields e.refreshed
  else
    match r.entries.find? (RosterEntry.hasKey ⟨a.chan.toNat, a.pos.toNat, none⟩) with
    | some e =>
      { r with entries := insertEntry (fields { e.refreshed with serial := some serial }) (r.remove e.key).entries }
    | none => r.add (fields (freshEntry a.chan.toNat a.pos.toNat (some serial)))

/-- The fields of a JOIN (R55). -/
def joinFields (b : JoinBody) (e : RosterEntry) : RosterEntry :=
  { e with state := .active, mode := some .dosing, digest := some b.digest, p := none, flags := 0, wiping := none }

/-- The wiping indication after a STATUS (R56). -/
def wipingAfterStatus (flags : BitVec 16) (w : Option Nat) : Option Nat :=
  match w with
  | none => if wipingFlag flags then some 0 else none
  | some age => if wipingFlag flags then some age else if 2000 ≤ age then none else some age

/-- The digest a STATUS carries: in FAILSAFE its bytes are laid out as zero and not read (R186, R187; log 44). -/
def statusDigest (b : StatusBody) : Digest := if b.mode = 5 then 0 else b.digest

/-- The fields of a STATUS (R55, R56). -/
def statusFields (b : StatusBody) (e : RosterEntry) : RosterEntry :=
  { e with state := .active, mode := some (modeOfCode b.mode), digest := some (statusDigest b), p := some b.p.toNat,
           flags := b.flags, wiping := wipingAfterStatus b.flags e.wiping }

/-- The wiping indication of the one entry a wipe frame's source holds outside LOST; with two or more it belongs
to neither (log 11). -/
def Roster.setWiping (r : Roster) (a : Src) (w : Option Nat) : Roster :=
  match r.entries.filter fun e => e.foreignAt a && !e.isLost with
  | [e] => r.change e.key fun e => { e with wiping := w }
  | _ => r

/-- A LEAVE from another address (R58). -/
def Roster.leaveFrom (r : Roster) (a : Src) : Roster :=
  { r with entries := r.entries.map fun e => if e.foreignAt a then e.goneLost else e }

/-- A LEAVE from the bank's own address (R58). -/
def Roster.leaveFromTwin (r : Roster) (a : Src) (reason : Byte) : Roster :=
  if reason = leaveRestart then r.leaveFrom a
  else { r with entries := r.entries.map fun e => if e.foreignAt a && !e.isLost then e.refreshed else e }

/-! ### Judgements (R59–R63) -/

/-- What the judgements read of the bank itself. -/
structure OwnView where
  chan   : Nat
  pos    : Nat
  mode   : BankMode
  digest : Option Digest

/-- In ACTIVE or CONFLICT. -/
def RosterEntry.stands (e : RosterEntry) : Bool := decide (e.state = .active) || decide (e.state = .conflict)

/-- How many entries of an address stand in ACTIVE or CONFLICT. -/
def standing (es : List RosterEntry) (chan pos : Nat) : Nat :=
  es.countP fun e => e.stands && decide (e.chan = chan) && decide (e.pos = pos)

/-- The conflict states (R59). -/
def judgeConflicts (es : List RosterEntry) : List RosterEntry :=
  es.map fun e =>
    if e.stands then { e with state := if 2 ≤ standing es e.chan e.pos then .conflict else .active } else e

/-- The mode and the digest of an entry; those of the self entry are the bank's own (log 9). -/
def RosterEntry.modeIn (o : OwnView) (e : RosterEntry) : Option BankMode := if e.isSelf then some o.mode else e.mode

def RosterEntry.digestIn (o : OwnView) (e : RosterEntry) : Option Digest := if e.isSelf then o.digest else e.digest

def reportsDosing (m : Option BankMode) : Bool := (m.map BankMode.doses).getD false

/-- Eligible to give the reference digest (R61). -/
def RosterEntry.eligible (o : OwnView) (e : RosterEntry) : Bool :=
  decide (e.chan = o.chan) && decide (e.state = .active) && !configFailFlag e.flags && reportsDosing (e.modeIn o)

/-- The reference digest: that of the lowest-positioned eligible bank (R61). -/
def referenceDigest (o : OwnView) (es : List RosterEntry) : Option Digest :=
  match ((es.filter (RosterEntry.eligible o)).map (·.pos)).min? with
  | none => none
  | some low => ((es.filter (RosterEntry.eligible o)).find? fun e => e.pos == low).bind (RosterEntry.digestIn o)

/-- A participating peer (R62). -/
def RosterEntry.participates (o : OwnView) (ref : Option Digest) (e : RosterEntry) : Bool :=
  !e.isSelf && decide (e.chan = o.chan) && decide (e.state = .active) && e.digest.isSome && decide (e.digest = ref) &&
    reportsDosing e.mode

/-- The positions of the participating peers. -/
def peerPositions (o : OwnView) (ref : Option Digest) (es : List RosterEntry) : List Nat :=
  (es.filter (RosterEntry.participates o ref)).map (·.pos)

/-- The judgements re-made: conflict states, reference digest, neighbours (R59). -/
def Roster.judge (o : OwnView) (r : Roster) : Roster :=
  let es := judgeConflicts r.entries
  let ref := referenceDigest o es
  { r with entries := es, refDigest := ref
           up := ((peerPositions o ref es).filter (· < o.pos)).max?
           down := ((peerPositions o ref es).filter (o.pos < ·)).min? }

/-- The role the neighbours give (R63). -/
def roleOf (up down : Option Nat) : Role :=
  match up, down with
  | none, some _ => .head
  | some _, none => .tail
  | none, none => .sole
  | some _, some _ => .mid

/-- The position conflict reason: the self entry stands in CONFLICT (R60). -/
def positionReasonStands (es : List RosterEntry) : Bool := es.any fun e => e.isSelf && decide (e.state = .conflict)

/-- The digest reason (R61). -/
def digestReasonStands (o : OwnView) (ref : Option Digest) : Bool :=
  match ref, o.digest with
  | some a, some c => decide (a ≠ c)
  | _, _ => false

/-- The current head (R41, R63). -/
def currentHead (o : OwnView) (r : Roster) : Option Nat :=
  (peerPositions o r.refDigest r.entries ++ (if o.mode.doses then [o.pos] else [])).min?

/-- Another bank of the own channel shows as wiping (R159). -/
def Roster.otherWiping (chan : Nat) (r : Roster) : Bool :=
  r.entries.any fun e => !e.isSelf && decide (e.chan = chan) && !e.isLost && e.wiping.isSome

end Sys2Proof.Machine
end

