-- ==== Sys2Proof/Machine/Ops.lean ====
section
/-! DEFINITION. The operations the meanings share: running outside reset, taking a reset, posting a frame and
giving one up, starting the timers of DOSING and HOLD, and restarting a scan. -/

namespace Sys2Proof.Machine

/-! ### Reset (R64, R194) -/

/-- Run minutes and total strikes are kept through a warm reset; every other value is that after reset (R94). -/
def Lamp.afterReset (l : Lamp) : Lamp :=
  { Lamp.fresh l.index with runMinutes := l.runMinutes, strikes := l.strikes }

/-- Nothing has happened that holds the part in reset. -/
def noHold : ResetHold :=
  { held := false, resetnLow := false, restarting := false, belowRetention := false, belowReset := false,
    resetn := false, restart := false }

/-- The part goes into reset: every mode, frame, claim and stroke ends, every block takes its values after reset
(R64). The cause, the straps and the wear are settled at release; the supply monitor goes on judging the supply. -/
def takeReset (s : State) (h : ResetHold) : State :=
  { State.reset with
    pending := s.pending
    serial := s.serial
    hold := { h with held := true }
    ctl := { State.reset.ctl with resetCause := s.ctl.resetCause }
    ldr := { State.reset.ldr with straps := s.ldr.straps, supply := s.ldr.supply }
    seq := { State.reset.seq with lamps := s.seq.lamps.map Lamp.afterReset } }

/-- The reset of a RESTART is taken (R199); it stands until the event that ends the last cause (log 32). -/
def takeRestart (s : State) : State := takeReset s { noHold with restart := true, restarting := true }

/-- Whether the supply stands below a level, in millivolts, once it reads `mv`: the level is passed going down at its
value and going up at its value plus 50 mV (R194, R195). That at those values themselves it is not yet passed is read
from R195's 'falls below' and 'rises above' (DEDUCED, log 8). -/
def standsBelow (level : Nat) (stood : Bool) (mv : Nat) : Bool :=
  if stood then decide (mv ≤ level + 50) else decide (mv < level)

/-- The supply monitor judges a supply of `mv` millivolts against its warning level of 3.00 V, its reset level of 2.80 V
and its retention level of 1.50 V (R194, R195). -/
def SupplyMonitor.judge (m : SupplyMonitor) (mv : Nat) : SupplyMonitor :=
  { low := standsBelow 3000 m.low mv, belowReset := standsBelow 2800 m.belowReset mv
    belowRetention := standsBelow 1500 m.belowRetention mv }

/-- What the supply monitor finds during a reset is noted for its cause (R194). -/
def ResetHold.noteSupply (h : ResetHold) (m : SupplyMonitor) : ResetHold :=
  { h with belowReset := h.belowReset || m.belowReset
           belowRetention := h.belowRetention || m.belowRetention }

/-- The supply reads `mv` millivolts: the monitor judges it; a supply below the reset level takes the part into reset,
and in reset what is found is noted (R194, R195). That every voltage is judged against all three levels, whichever row
carries it, is the model's choice (DESIGN CHOICE, log 8). -/
def takeSupply (s : State) (mv : Nat) : State :=
  let s := s.setLdr { s.ldr with supply := s.ldr.supply.judge mv }
  if s.hold.held then s.setHold (s.hold.noteSupply s.ldr.supply)
  else if s.ldr.supply.belowReset then takeReset s (noHold.noteSupply s.ldr.supply)
  else s

/-- A cause of reset stands: the supply below the reset level, RESETN low, or a RESTART reset being taken (R194). -/
def causeStands (s : State) : Bool := s.ldr.supply.belowReset || s.hold.resetnLow || s.hold.restarting

/-- The restart is due: both its frames have been completed or given up (R199). -/
def restartDue (s : State) : Bool :=
  match s.cmd.restart with
  | some r => r.report.isNone && r.leave.isNone
  | none => false

/-- The end of an event in which a frame may have been completed or given up. -/
def closeRestart (s : State) : State := if restartDue s then takeRestart s else s

/-- While the part is held in reset an event finds nothing that takes it (R194; log 32). -/
def outsideReset (s : State) (f : State → State) : State := if s.hold.held then s else f s

/-- An event outside reset that may complete a restart. -/
def event (s : State) (f : State → State) : State := outsideReset s fun s => closeRestart (f s)

/-- A level or a change that counts only once it has stood for `least` and has stood for `stood`: what stands shorter
changes nothing (R105, R155, R194; log 8). -/
def onceStood (least stood : Nat) (s : State) (f : State → State) : State := if stood < least then s else f s

/-! ### Frames (R178–R183) -/

/-- A claim given up returns its wiper to WANT (R160, R183). -/
def Wiper.claimGone (w : Wiper) (t : Nat) : Wiper :=
  if w.state = .claiming ∧ w.claim = some t then { w with state := .want, claim := none } else w

/-- A REPORT given up ends the reply it belongs to (R183, R197). -/
def replyGone (r : Option Reply) (t : Nat) : Option Reply :=
  match r with
  | some (.running table next owed k) => if k = t then none else some (.running table next owed k)
  | other => other

/-- A frame of the restart is completed or given up (R199). -/
def Restart.resolve (r : Restart) (t : Nat) : Restart :=
  { r with report := if r.report = some t then none else r.report
           leave := if r.leave = some t then none else r.leave }

def Handler.frameGone (h : Handler) (t : Nat) : Handler :=
  { h with reply := replyGone h.reply t, restart := h.restart.map (Restart.resolve · t) }

/-- A frame is given up, with the consequence its type gives (R183). -/
def giveUp (s : State) (f : Frame) : State :=
  ((s.setBus (s.bus.countGivenUp f)).setWip (s.wip.claimGone f.ticket)).setCmd (s.cmd.frameGone f.ticket)

def giveUpAll (s : State) (fs : List Frame) : State := fs.foldl giveUp s

/-- The frame a block posts now: the bank's own header, no collision, the next ticket (R178, R186). -/
def ownFrame (s : State) (b : Body) : Frame :=
  { src := ownSrc s, body := b, coll := 0, ticket := s.bus.nextTicket }

/-- A block posts a frame (R180–R183). -/
def post (s : State) (b : Body) : State :=
  let p := { s.bus with nextTicket := s.bus.nextTicket + 1 }.post (ownFrame s b)
  giveUpAll (s.setBus p.bus) p.givenUp

/-- Several frames, in order. -/
def postAll (s : State) (bs : List Body) : State := bs.foldl post s

/-! ### Timers that begin with DOSING or HOLD (R77, R80) -/

/-- A timer that starts once, at a bank with the strap. -/
def startOnce (strap : Bool) (t : Option Nat) : Option Nat :=
  match t with
  | some v => some v
  | none => if strap then some 0 else none

/-- The FLOW and the UVT timer at the first entry into DOSING or HOLD. -/
def startSourceTimers (s : State) : State :=
  s.setPln { s.pln with
    flowTimer := startOnce s.ldr.straps.flowSrc s.pln.flowTimer
    uvtTimer := startOnce s.ldr.straps.uvtSrc s.pln.uvtTimer }

/-! ### The scan (R139) -/

/-- A scan in progress is aborted and begun again. -/
def restartScan (s : State) : State := s.setScn { s.scn with scan := s.scn.scan.map (· + 1) }

/-! ### Reading the roster (R59–R63) -/

def ownView (s : State) : OwnView :=
  { chan := s.ldr.straps.channel, pos := s.ldr.straps.position, mode := s.ctl.mode, digest := s.ldr.digest }

/-- The conflict states, the reference digest, the neighbours and the two reasons, re-made (R59–R63). -/
def judgeRoster (s : State) : State :=
  let r := s.ros.judge (ownView s)
  (s.setRos r).setCtl
    { s.ctl with positionReason := positionReasonStands r.entries
                 digestReason := digestReasonStands (ownView s) r.refDigest }

/-- A reason stands (R64). -/
def reasonStands (s : State) : Bool := s.ctl.positionReason || s.ctl.digestReason

end Sys2Proof.Machine
end

