-- ==== Sys2Proof/Machine/Lamps.lean ====
section
/-! DEFINITION. The lamp sequencer and the ballast link: lamp transitions, slots, the choice of lamps, the
judgements of R108, visits, the urgent list, replies, misses and readback (chapters 5 and 6). -/

namespace Sys2Proof.Machine

/-! ### A lamp enters a state (R95, R118) -/

/-- The slot half a state asks for, at common level `level`; FAILSAFE asks STRIKE of every lamp that can burn. -/
def slotFor (failsafe : Bool) (level : Nat) : LampState → SlotHalf
  | .off => if failsafe then ⟨.strike, 10⟩ else ⟨.off, 0⟩
  | .striking => ⟨.strike, 10⟩
  | .warming => if failsafe then ⟨.strike, 10⟩ else ⟨.on, 10⟩
  | .lit => if failsafe then ⟨.strike, 10⟩ else ⟨.on, level⟩
  | .cooling | .failed | .locked => ⟨.off, 0⟩

/-- Entry to a state other than STRIKING and FAILED: slot, no cause, state timer 0 (R93, R95). -/
def Lamp.enter (failsafe : Bool) (level : Nat) (st : LampState) (l : Lamp) : Lamp :=
  { l with state := st, slot := slotFor failsafe level st, cause := none, timer := 0, attempt := 0 }

/-- Entry to FAILED (R102). -/
def Lamp.fail (cause : FailCause) (l : Lamp) : Lamp :=
  { l with state := .failed, slot := ⟨.off, 0⟩, cause := some cause, timer := 0, attempt := 0 }

/-- An attempt counts as a strike (R96). -/
def Lamp.countStrike (l : Lamp) : Lamp :=
  { l with strikes := bump16 l.strikes, strikesDay := min (l.strikesDay + 1) 255 }

/-- Entry to STRIKING with attempt 1 (R96). -/
def Lamp.strike (l : Lamp) : Lamp :=
  { l.countStrike with state := .striking, slot := ⟨.strike, 10⟩, cause := none, timer := 0, attempt := 1 }

/-- The next attempt of a strike (R96). -/
def Lamp.nextAttempt (l : Lamp) : Lamp :=
  { l.countStrike with attempt := l.attempt + 1, timer := 3000 * l.attempt }

/-- Cleared: OFF at e_nom (R107). -/
def Lamp.cleared (eNom : Nat) (l : Lamp) : Lamp := { l.enter false 10 .off with e := eNom }

/-- The lamp stands in FAILED or LOCKED. -/
def Lamp.outOfService (l : Lamp) : Bool := decide (l.state = .failed) || decide (l.state = .locked)

def inFailsafe (s : State) : Bool := decide (s.ctl.mode = .failsafe)

def setLamps (s : State) (ls : List Lamp) : State := s.setSeq { s.seq with lamps := ls }

/-- Lamp `i` changed. -/
def mapLamp (s : State) (i : Nat) (f : Lamp → Lamp) : State :=
  setLamps s (s.seq.lamps.map fun l => if l.index = i then f l else l)

/-- Lamps that satisfy `p` changed. -/
def mapLamps (s : State) (p : Lamp → Bool) (f : Lamp → Lamp) : State :=
  setLamps s (s.seq.lamps.map fun l => if p l then f l else l)

def lampAt (s : State) (i : Nat) : Option Lamp := s.seq.lamps.find? fun l => l.index == i

/-- A fitted lamp `i` in state `st`. -/
def lampIn (s : State) (i : Nat) (st : LampState) : Bool :=
  match lampAt s i with
  | some l => l.fitted && decide (l.state = st)
  | none => false

def enterLamp (s : State) (i : Nat) (st : LampState) : State :=
  mapLamp s i (Lamp.enter (inFailsafe s) s.seq.level st)

/-! ### Urgent visits (R129) -/

/-- Readback has completed. -/
def linkRuns (s : State) : Bool := decide (s.link.phase = .running)

/-- A request places a configured ballast at the end of the list, once (R129; log 18). -/
def Link.request (l : Link) (b : Nat) : Link :=
  if decide (b ≤ l.count) && !l.urgent.contains b then { l with urgent := l.urgent ++ [b] } else l

def requestUrgent (s : State) (b : Nat) : State := s.setLink (s.link.request b)

/-- Lamp `i` enters FAILED and its ballast is to be visited (R102). -/
def failLamp (s : State) (i : Nat) (cause : FailCause) : State :=
  requestUrgent (mapLamp s i (Lamp.fail cause)) (ballastOf i)

/-- The lamps of a ballast that a fault of the ballast fails: fitted, in neither FAILED nor LOCKED (R103, R104). -/
def failsWithBallast (b : Nat) (l : Lamp) : Bool :=
  decide (ballastOf l.index = b) && l.fitted && !l.outOfService

/-- A ballast fault fails its lamps (R103, R104). -/
def failBallast (s : State) (b : Nat) (cause : FailCause) : State :=
  if s.seq.lamps.any (failsWithBallast b) then
    requestUrgent (mapLamps s (failsWithBallast b) (Lamp.fail cause)) b
  else s

/-! ### Choosing lamps (R109–R114) -/

/-- Eligible to strike: fitted and in OFF (R109). -/
def Lamp.eligible (l : Lamp) : Bool := l.fitted && decide (l.state = .off)

def ballastWarm (s : State) (l : Lamp) : Bool := decide (ballastClass s (ballastOf l.index) = .warm)

/-- The lamp to strike (R111). -/
def strikeChoice (s : State) : Option Lamp :=
  let inBudget := preferring (fun l => decide (l.strikesDay < 8)) (s.seq.lamps.filter Lamp.eligible)
  let fewest := inBudget.filter fun l => inBudget.all fun g => decide (l.runMinutes ≤ g.runMinutes)
  (preferring (fun l => !ballastWarm s l) fewest).head?

/-- The lamp to put out (R114). -/
def extinguishChoice (s : State) : Option Lamp :=
  let lit := s.seq.lamps.filter Lamp.isLit
  let most := lit.filter fun l => lit.all fun g => decide (g.runMinutes ≤ l.runMinutes)
  (preferring (ballastWarm s) most).getLast?

/-- The strike rule (R109). -/
def strikeRule (s : State) : Bool :=
  !(s.seq.lamps.any fun l => decide (l.state = .striking)) && s.seq.spacing.isNone &&
    s.seq.lamps.any Lamp.eligible &&
    (decide (85 * fCommitted s < 100 * s.pln.fReq) ||
      decide (s.seq.lamps.countP Lamp.committed < s.ldr.cfg.minLit))

/-- The strike of the chosen lamp, with the spacing timer restarted (R96, R110). -/
def strikeLamp (s : State) (l : Lamp) : State :=
  let s := mapLamp s l.index Lamp.strike
  s.setSeq { s.seq with spacing := some 0 }

def judgeStrike (s : State) : State :=
  if strikeRule s then
    match strikeChoice s with
    | some l => strikeLamp s l
    | none => s
  else s

/-- The extinguish condition (R113). -/
def extinguishHolds (s : State) : Bool :=
  decide (100 * s.pln.fReq < 45 * fLitFull s) && decide (s.ldr.cfg.minLit < s.seq.lamps.countP Lamp.isLit)

/-- The hold-off timer after a judgement of the condition (R113). -/
def judgeHoldoff (s : State) : State :=
  s.setSeq { s.seq with holdoff := if extinguishHolds s then some (s.seq.holdoff.getD 0) else none }

/-- The common level as a code, 5–10 (R115). -/
def levelFor (s : State) : Nat :=
  if fLitFull s = 0 then 10 else max 5 (min 10 (ceilDiv (10 * s.pln.fReq) (fLitFull s)))

/-- L judged and written into the slot of every LIT lamp (R115). -/
def judgeLevel (s : State) : State :=
  s.setSeq { s.seq with
    level := levelFor s
    lamps := s.seq.lamps.map fun l => if l.isLit then { l with slot := ⟨.on, levelFor s⟩ } else l }

/-- The modes in which the sequencer takes decisions (R108). -/
def BankMode.judgesLamps : BankMode → Bool
  | .listen | .dosing | .hold | .isolated => true
  | _ => false

/-- The three judgements of R108, from the completion of readback. -/
def judgeLamps (s : State) : State :=
  if linkRuns s && s.ctl.mode.judgesLamps then judgeLevel (judgeHoldoff (judgeStrike s)) else s

/-! ### The setpoint outside DOSING and HOLD (R89) -/

/-- F_req where it follows F_min or F_max; neither is a computation of R86, so `lastReq` stays (log 20). -/
def refreshSetpoint (s : State) : State :=
  match s.ctl.mode with
  | .loading | .listen => s.setPln { s.pln with fReq := fMin s }
  | .isolated | .failsafe => s.setPln { s.pln with fReq := fMax s }
  | .dosing | .hold => s

/-! ### Visits (R123, R126, R128) -/

/-- The slot half of lamp `i` (R126). -/
def slotHalf (s : State) (i : Nat) : SlotHalf := ((lampAt s i).map (·.slot)).getD ⟨.read, 0⟩

/-- The visit of ballast `b`, with its slot as it stands. -/
def visitOf (s : State) (b : Nat) : Visit :=
  { ballast := b, a := slotHalf s (2 * b - 1), b := slotHalf s (2 * b) }

def beginVisit (s : State) (b : Nat) : State := s.setLink { s.link with visit := some (visitOf s b) }

/-- A cycle begins (R128). -/
def Link.beginCycle (l : Link) : Link :=
  { l with cursor := 1, cycleTimer := some 0, cycleRunning := true, cycleDue := false }

/-- The visit at the cursor, which moves on. -/
def visitCursor (s : State) : State :=
  let b := s.link.cursor
  let s := beginVisit s b
  s.setLink { s.link with cursor := b + 1 }

/-- The next visit, where the link is free (R128, R129). R128 says of a cycle that falls due during a visit of the
previous cycle both that it begins when that visit ends and that it begins when the previous cycle completes: that it
waits for the previous cycle to complete, whichever visit of that cycle is in flight, is the model's choice (DESIGN
CHOICE, log 49). -/
def pump (s : State) : State :=
  if s.link.phase = .running ∧ s.link.visit = none then
    let s := if !s.link.cycleRunning && s.link.cycleDue then s.setLink s.link.beginCycle else s
    match s.link.urgent with
    | b :: rest => beginVisit (s.setLink { s.link with urgent := rest }) b
    | [] =>
      if s.link.cycleRunning then
        if s.link.cursor ≤ s.link.count then visitCursor s
        else if s.link.cycleDue then visitCursor (s.setLink s.link.beginCycle)
        else s.setLink { s.link with cycleRunning := false }
      else s
  else s

/-- The end of an event that reached the sequencer: setpoint, judgements, next visit (R89, R108, R128). -/
def lampEvent (s : State) : State := pump (judgeLamps (refreshSetpoint s))

/-! ### Replies (R101, R103, R118, R130) -/

/-- What a status does to a fitted lamp outside FAILSAFE (R101). -/
def takeStatus (level : Nat) (l : Lamp) (st : LampStatus) : Lamp :=
  match l.state, st with
  | .striking, .lit => l.enter false level .warming
  | .striking, .openCircuit => l.fail .lampOpen
  | .striking, .shortCircuit => l.fail .lampShort
  | .warming, .off => l.enter false level .cooling
  | .warming, .striking => l.enter false level .cooling
  | .warming, .openCircuit => l.fail .lampOpen
  | .warming, .shortCircuit => l.fail .lampShort
  | .lit, .off => l.enter false level .cooling
  | .lit, .striking => l.enter false level .cooling
  | .lit, .openCircuit => l.fail .lampOpen
  | .lit, .shortCircuit => l.fail .lampShort
  | _, _ => l

/-- What a status does to a lamp in FAILSAFE (R118); a lamp reported as it stands keeps its timer (log 30). -/
def takeStatusFailsafe (l : Lamp) (st : LampStatus) : Lamp :=
  match l.state, st with
  | .off, .lit => l.enter true 10 .lit
  | .off, .openCircuit => l.fail .lampOpen
  | .off, .shortCircuit => l.fail .lampShort
  | .lit, .off => l.enter true 10 .off
  | .lit, .striking => l.enter true 10 .off
  | .lit, .openCircuit => l.fail .lampOpen
  | .lit, .shortCircuit => l.fail .lampShort
  | _, _ => l

/-- The status of lamp `i` is taken; a lamp that fails asks for an urgent visit (R101, R102). -/
def statusEvent (s : State) (i : Nat) (st : LampStatus) : State :=
  match lampAt s i with
  | some l =>
    if l.fitted then
      let l' := if inFailsafe s then takeStatusFailsafe l st else takeStatus s.seq.level l st
      let s := mapLamp s i fun _ => l'
      if l'.state = .failed ∧ l.state ≠ .failed then requestUrgent s (ballastOf i) else s
    else s
  | none => s

/-- The lamp event of ballast `b`: class, lamp A, lamp B (R130). -/
def replyEvent (s : State) (b : Nat) (r : BallastReply) : State :=
  let s := if r.cls = .hot then failBallast s b .ballastHot else s
  statusEvent (statusEvent s (2 * b - 1) r.a.status) (2 * b) r.b.status

def Link.mapBallast (l : Link) (b : Nat) (f : BallastRec → BallastRec) : Link :=
  { l with ballasts := l.ballasts.map fun x => if x.addr = b then f x else x }

/-- The record after a good reply (R130). -/
def BallastRec.answered (cls : TempClass) (x : BallastRec) : BallastRec :=
  { x with lost := false, misses := 0, cls := cls }

/-- The record after a miss (R131). -/
def BallastRec.missed (x : BallastRec) : BallastRec :=
  if x.lost then x else { x with misses := x.misses + 1, lost := decide (2 ≤ x.misses) }

/-- The visit in flight ends. -/
def endVisit (s : State) : State := s.setLink { s.link with visit := none }

/-! ### Readback (R117, R118, R133, R134) -/

def reportOf (r : BallastReply) (i : Nat) : LampReport := if i % 2 = 1 then r.a else r.b

/-- Where a fitted lamp goes, by the first row of R117 that holds. -/
def readbackState (lockoutOpen : Bool) (f : Option BallastReply) (i : Nat) : LampState × Option FailCause :=
  if lockoutOpen then (.locked, none)
  else match f with
    | none => (.failed, some .ballastLost)
    | some r =>
      if r.cls = .hot then (.failed, some .ballastHot)
      else match (reportOf r i).status with
        | .openCircuit => (.failed, some .lampOpen)
        | .shortCircuit => (.failed, some .lampShort)
        | .lit => (.lit, none)
        | .off => (.off, none)
        | .striking => (.off, none)

/-- The finding for the ballast of lamp `i`. -/
def findingFor (fs : List (Option BallastReply)) (i : Nat) : Option BallastReply := (fs.getD (ballastOf i - 1) none)

def lockoutOpenAt (s : State) (m : Nat) : Bool := s.seq.lockouts.getLsbD (m - 1)

def lampFinding (s : State) (fs : List (Option BallastReply)) (l : Lamp) : LampState × Option FailCause :=
  if l.fitted then readbackState (lockoutOpenAt s (moduleOf l.index)) (findingFor fs l.index) l.index
  else (.off, none)

/-- L at readback: the highest level reported among the lamps that go to LIT, 100 % where there is none (R117);
100 % in FAILSAFE (R118). -/
def readbackLevel (s : State) (fs : List (Option BallastReply)) : Nat :=
  let levels := (s.seq.lamps.filter fun l => (lampFinding s fs l).1 == .lit).map fun l =>
    ((findingFor fs l.index).map fun r => (reportOf r l.index).level).getD 0
  match levels.max?, inFailsafe s with
  | some v, false => max 5 (min 10 v)
  | _, _ => 10

/-- One lamp record built from the findings (R117, R118). -/
def builtLamp (s : State) (fs : List (Option BallastReply)) (level : Nat) (l : Lamp) : Lamp :=
  let x := lampFinding s fs l
  { l with state := x.1
           slot := if l.fitted then slotFor (inFailsafe s) level x.1 else ⟨.off, 0⟩
           cause := x.2, timer := 0, attempt := 0 }

/-- Readback completes: the table is built, every slot written, the first cycle begins (R117, R134). That the
judgements of R108 are made in this same event, before the first visit, is the model's choice (DESIGN CHOICE, log 40). -/
def completeReadback (s : State) (fs : List (Option BallastReply)) : State :=
  let level := readbackLevel s fs
  let s := s.setSeq { s.seq with level := level, lamps := s.seq.lamps.map (builtLamp s fs level) }
  lampEvent (s.setLink { s.link with phase := .running }.beginCycle)

/-- Readback after one more finding: the next ballast is visited, or readback completes (R133, R134). -/
def advanceReadback (s : State) (fs : List (Option BallastReply)) : State :=
  if fs.length < s.link.count then beginVisit (s.setLink { s.link with phase := .readback fs }) (fs.length + 1)
  else completeReadback s fs

/-- Readback begins when LOADING ends (R133). -/
def startReadback (s : State) (count : Nat) : State :=
  beginVisit (s.setLink { s.link with phase := .readback [], count := count }) 1

end Sys2Proof.Machine
end

