-- ==== Sys2Proof/Machine/Planner.lean ====
section
/-! DEFINITION. The dose planner: offers of flow and transmittance, the hold condition, the plan of shares and the
setpoint (chapter 4). -/

namespace Sys2Proof.Machine

/-! ### Offers (R75, R78) -/

/-- The adopted source after an offer from `p`, and whether the offer is adopted and the DUP indication raised. -/
structure Adoption where
  adopted : Bool
  raises  : Bool

/-- An offer judged against the adopted source (R75; by slot R78). -/
def judgeOffer (src : Option Source) (p : Nat) : Adoption :=
  match src with
  | none => ⟨true, false⟩
  | some a => ⟨decide (p ≤ a.id), decide (p ≠ a.id)⟩

/-- The DUP indication after an offer: raised, or its 3.0 s begun again, by an offer from elsewhere (R75). -/
def dupAfter (a : Adoption) (t : Option Nat) : Option Nat := if a.raises then some 0 else t

def flowStateAfter (st : OfferState) (value : Nat) : FlowState :=
  match st with
  | .normal => .normal value
  | .reverse => .reverse
  | .fault => .stale

/-- A flow offer from position `p` (R73, R75). -/
def offerFlow (s : State) (p : Nat) (st : OfferState) (value : Nat) : State :=
  let a := judgeOffer s.pln.flowSource p
  s.setPln { s.pln with
    flow := if a.adopted then flowStateAfter st value else s.pln.flow
    flowSource := if a.adopted then some ⟨p, 0⟩ else s.pln.flowSource
    flowDup := dupAfter a s.pln.flowDup }

def uvtStateAfter (st : OfferState) (value : Nat) : UvtState :=
  match st with
  | .normal => .normal value
  | .reverse => .stale
  | .fault => .stale

/-- A UVT offer from slot `p` (R78). -/
def offerUvt (s : State) (p : Nat) (st : OfferState) (value : Nat) : State :=
  let a := judgeOffer s.pln.uvtSource p
  s.setPln { s.pln with
    uvt := if a.adopted then uvtStateAfter st value else s.pln.uvt
    uvtSource := if a.adopted then some ⟨p, 0⟩ else s.pln.uvtSource
    uvtDup := dupAfter a s.pln.uvtDup }

/-! ### The hold condition (R90, R91) -/

/-- The hold timer and the hold condition judged against Q and Q_min. -/
def Planner.judgeHold (p : Planner) (q qMin : Nat) : Planner :=
  if p.holdCond then
    if 12 * qMin ≤ 10 * q then { p with holdCond := false, holdTimer := none } else p
  else
    match p.holdTimer with
    | none => if q < qMin then { p with holdTimer := some 0 } else p
    | some _ => if qMin ≤ q then { p with holdTimer := none } else p

/-- The judgement whenever Q may have changed. -/
def judgeHold (s : State) : State := s.setPln (s.pln.judgeHold (flowQ s) s.ldr.cfg.qMin)

/-! ### The plan (R83–R86) -/

/-- The planning set: position and P of the bank itself and of every participating peer that reported one. -/
def planningSet (s : State) : List (Nat × Nat) :=
  (s.ldr.straps.position, capacityP s) ::
    (s.ros.entries.filter (RosterEntry.participates (ownView s) s.ros.refDigest)).filterMap fun e =>
      e.p.map fun p => (e.pos, p)

/-- ΣP. -/
def totalP (s : State) : Nat := sumOf ((planningSet s).map (·.2))

/-- D_t × (1 + m), in 0.00001 mJ/cm². -/
def plannedDose (s : State) : Nat := s.ldr.cfg.dT * (100 + s.ldr.cfg.margin)

/-- ΣP is at least D_t × (1 + m) × Q, compared exactly (R83). -/
def planServes (s : State) (q : Nat) : Bool := decide (plannedDose s * q ≤ totalP s * 10000000)

/-- s_j for a capacity product (R84). -/
def shareOf (s : State) (p : Nat) : Nat := roundHalfUp (plannedDose s * p) (100 * totalP s)

/-- The plan of shares with S_k (R84). -/
def planOfShares (s : State) : Plan :=
  let shares := (planningSet s).map fun x => (x.1, shareOf s x.2)
  { shares := shares, cumulative := sumOf ((shares.filter fun x => x.1 ≤ s.ldr.straps.position).map (·.2)) }

/-- The plan at the close of an expiry that used `q` (R83, R85, R86). -/
def computePlan (s : State) (q : Nat) : State :=
  if s.ctl.mode.doses && decide (1 ≤ q) then
    if planServes s q then s.setPln { s.pln with plan := some (planOfShares s), shortfall := false }
    else s.setPln { s.pln with plan := none, shortfall := true }
  else s

/-! ### The setpoint (R88, R89) -/

/-- The bank's own share. -/
def ownShare (s : State) : Nat := shareOf s (capacityP s)

/-- The base rate, rounded up. -/
def baseRate (s : State) (q : Nat) : Nat := ceilDiv (ownShare s * q) (100 * s.ldr.cfg.z)

/-- The rate of a record, rounded up; 0 where it gives none. -/
def recordRate (s : State) (q cumulative : Nat) (r : ParcelRec) : Nat :=
  if r.dose < cumulative ∧ s.ldr.cfg.z ≤ 100 * remainingVolume s.trk r then
    ceilDiv ((cumulative - r.dose) * q) (100 * remainingVolume s.trk r)
  else 0

/-- The largest of base rate and record rates, limited to F_min … F_max (R88). -/
def sharedSetpoint (s : State) (q : Nat) : Nat :=
  let cumulative := (planOfShares s).cumulative
  let top := (s.trk.queue.map (recordRate s q cumulative)).foldl max (baseRate s q)
  max (fMin s) (min (fMax s) top)

/-- The hold setpoint (R89). -/
def holdSetpoint (s : State) : Nat := max (fMin s) (ceilDiv (s.ldr.cfg.holdFrac * fMax s) 100)

/-- F_req as the last computation left it, or F_min where there has been none since reset (R86, R89). -/
def heldSetpoint (s : State) : State := s.setPln { s.pln with fReq := s.pln.lastReq.getD (fMin s) }

/-- F_req as the computation of an expiry with a plan or a shortfall leaves it (R86, R88, R89). -/
def computed (s : State) (v : Nat) : State := s.setPln { s.pln with fReq := v, lastReq := some v }

/-- The setpoint at the close of an expiry that used `q` (R86, R88, R89). That a computation is the close of an expiry
with Q of 0.001 or more, in HOLD too, and no other setting of F_req is one, is read from the rules (DEDUCED,
log 20). -/
def computeSetpoint (s : State) (q : Nat) : State :=
  match s.ctl.mode with
  | .dosing =>
    if q = 0 then heldSetpoint s
    else computed s (if s.pln.shortfall then fMax s else sharedSetpoint s q)
  | .hold =>
    if q = 0 then if s.pln.shortfall then heldSetpoint s else s.setPln { s.pln with fReq := holdSetpoint s }
    else computed s (if s.pln.shortfall then fMax s else holdSetpoint s)
  | _ => s

end Sys2Proof.Machine
end

