-- ==== Sys2Proof/Machine/Wiper.lean ====
section
/-! DEFINITION. The wiper controller: homing, requests, admission, the claim, the stroke and its ends
(chapter 8). -/

namespace Sys2Proof.Machine

/-- The output WFWD: driven in STROKE_OUT, released in every other state and in reset (R155). -/
def wfwd (s : State) : Bool := !s.hold.held && decide (s.wip.state = .strokeOut)

/-- The output WREV: driven in STROKE_BACK, and in HOMING unless already home; released in every other state and in
reset (R155). -/
def wrev (s : State) : Bool :=
  !s.hold.held && (decide (s.wip.state = .strokeBack) || (decide (s.wip.state = .homing) && !s.wip.whome))

def Wiper.countFault (w : Wiper) : Wiper := { w with faults := bump16 w.faults }

/-- Entry to FAULT with no stroke: the timers of a drive stop, the fault is counted, and a request owed is owed no
longer (R156, R158, R166). -/
def Wiper.faulted (w : Wiper) : Wiper :=
  { w.countFault with state := .fault, stroke := none, release := none, claim := none, window := none, owed := false }

/-! ### Admission and claim (R159, R160) -/

/-- Every admission condition holds (R159). -/
def admitted (s : State) : Bool :=
  s.ctl.mode.doses && !s.pln.shortfall && decide (10 * s.pln.fReq ≤ 7 * fMax s) && !s.ldr.supply.low &&
    !s.ros.otherWiping s.ldr.straps.channel && s.wip.wait.isNone

/-- The claim is posted and the wiper enters CLAIMING; a refusal puts it back into WANT (R160). -/
def postClaim (s : State) : State :=
  post (s.setWip { s.wip with state := .claiming, claim := some s.bus.nextTicket, window := none }) .wipeClaim

/-- Admission judged, in WANT alone (R159). -/
def judgeAdmission (s : State) : State :=
  if s.wip.state = .want && admitted s then postClaim s else s

/-- Entry to WANT, with the judgement on entry (R158, R159). -/
def wantWipe (s : State) : State := judgeAdmission (s.setWip { s.wip with state := .want })

/-- A request from the interval timer or the scanner (R158). -/
def requestWipe (s : State) : State :=
  match s.wip.state with
  | .parked => wantWipe s
  | .homing => s.setWip { s.wip with owed := true }
  | _ => s

/-- A claim is taken back from the bus, or its window stopped (R161, R166, R167, R184). -/
def takeBackClaim (s : State) : State :=
  let s' := match s.wip.claim with
    | some t => s.setBus (s.bus.withdrawClaim t)
    | none => s
  s'.setWip { s.wip with claim := none, window := none }

/-- CLAIMING ends on entry to ISOLATED; not counted (R67, R167). -/
def releaseClaim (s : State) : State :=
  if s.wip.state = .claiming then
    let s := takeBackClaim s
    s.setWip { s.wip with state := .want }
  else s

/-! ### Waiting (R161, R162) -/

/-- Waiting on a position. -/
def waitOn (s : State) (p : Nat) : State := s.setWip { s.wip with wait := some ⟨p, 120000⟩ }

/-- A lower claim or a WIPE_ACTIVE at position `p` is heard (R161). -/
def yieldTo (s : State) (p : Nat) : State :=
  match s.wip.state with
  | .want => waitOn s p
  | .claiming =>
    let s := takeBackClaim s
    waitOn (s.setWip { s.wip with state := .want, withdrawals := bump16 s.wip.withdrawals }) p
  | _ => s

/-- The wait record empties; in WANT admission is judged at once (R162). -/
def emptyWait (s : State) : State := judgeAdmission (s.setWip { s.wip with wait := none })

/-- The wait record empties where it holds position `p` (R162). -/
def emptyWaitOn (s : State) (p : Nat) : State :=
  match s.wip.wait with
  | some w => if w.pos = p then emptyWait s else s
  | none => s

/-! ### The stroke (R163–R166) -/

/-- WIPE_DONE outcomes (R187). -/
def wipeOutcomeDone : Byte := 0
def wipeOutcomeFault : Byte := 1

/-- A stroke ends in FAULT (R166). -/
def strokeFault (s : State) : State :=
  restartScan (post (s.setWip s.wip.faulted) (.wipeDone wipeOutcomeFault))

/-- Every fouling reference is armed (R152). -/
def armReferences (s : State) : State :=
  s.setScn { s.scn with refs := s.scn.refs.map fun r => { r with armed := true, postCount := 0 } }

/-- A stroke completes with outcome DONE (R165). -/
def strokeDone (s : State) : State :=
  let s := s.setWip { s.wip with state := .parked, stroke := none, release := none }
  let s := post s (.wipeDone wipeOutcomeDone)
  let s := s.setWip { s.wip with interval := some 0, strokes := bump16 s.wip.strokes }
  armReferences (restartScan s)

/-- The turn at the far end (R164). -/
def turnBack (s : State) : State :=
  s.setWip { s.wip with state := .strokeBack, stroke := some 0, release := none }

/-- WHOME and WEND stand active together (R156, R164–R166). -/
def limitsTogether (s : State) : State :=
  match s.wip.state with
  | .homing | .parked | .want => s.setWip s.wip.faulted
  | .claiming =>
    let ran := s.wip.window.isSome
    let s := takeBackClaim s
    let s := s.setWip s.wip.faulted
    if ran then post s (.wipeDone wipeOutcomeFault) else s
  | .strokeOut | .strokeBack => strokeFault s
  | .absent | .fault => s

/-- The claim window ends: WIPE_ACTIVE and STROKE_OUT (R163); a WEND already active is reached at once (R164). -/
def startStroke (s : State) : State :=
  let s := s.setWip { s.wip with
    state := .strokeOut, window := none, claim := none, stroke := some 0
    release := if s.wip.whome then some 0 else none }
  let s := restartScan (post s .wipeActive)
  if s.wip.whome && s.wip.wend then strokeFault s else if s.wip.wend then turnBack s else s

/-- HOMING ends at home: PARKED, and WANT where a request is owed (R156). -/
def homed (s : State) : State :=
  let owed := s.wip.owed
  let s := s.setWip { s.wip with state := .parked, stroke := none, owed := false }
  if owed then wantWipe s else s

/-- HOMING on entry, by the filtered limits (R156). -/
def home (s : State) : State :=
  if s.wip.whome && s.wip.wend then s.setWip s.wip.faulted
  else if s.wip.whome then homed s
  else s.setWip { s.wip with state := .homing, stroke := some 0 }

/-- The own claim has been transmitted: the window starts (R160). -/
def claimSent (s : State) (t : Nat) : State :=
  if s.wip.state = .claiming ∧ s.wip.claim = some t then
    s.setWip { s.wip with claim := none, window := some 0 }
  else s

end Sys2Proof.Machine
end

