-- ==== Sys2Proof/Machine/Station.lean ====
section
/-! DEFINITION. The station controller: the role and the modes, entered and left, and the settlement after anything
the roster's judgements depend on has changed (R59, R63–R69). -/

namespace Sys2Proof.Machine

def setMode (s : State) (m : BankMode) : State := s.setCtl { s.ctl with mode := m }

/-- The role after the neighbours or the mode changed, with the start or the stop of creation (R13, R16, R63). -/
def applyRole (s : State) (way : HeadWay) : State :=
  let role := if s.ctl.mode.doses then roleOf s.ros.up s.ros.down else .noRole
  let trk :=
    if role.numbers && !s.ros.role.numbers then s.trk.begin s.ldr.cfg.z s.ldr.straps.position way
    else if !role.numbers && s.ros.role.numbers then s.trk.stop
    else s.trk
  (s.setTrk trk).setRos { s.ros with role := role }

/-- DOSING, or HOLD where the hold condition stands (R65, R68). -/
def dosingMode (s : State) : BankMode := if s.pln.holdCond then .hold else .dosing

/-- The reason a LEAVE gives on entry to ISOLATED (R72). -/
def isolationReason (s : State) : Byte := if s.ctl.positionReason then leavePosition else leaveDigest

/-- The parcel queue is emptied and its records counted lost (R6, R67 step 1). -/
def emptyParcels (s : State) : State :=
  (s.setBus { s.bus with lost := raise16 s.bus.lost s.trk.queue.length }).setTrk s.trk.isolate

/-- Entry to ISOLATED (R67): the queue, the waiting PARCELs, the LEAVE, the role, the count; then the claim, the
plan and F_req. -/
def enterIsolated (s : State) : State :=
  let s := emptyParcels s
  let s := s.setBus s.bus.withdrawParcels
  let s := post s (.leave (isolationReason s))
  let s := setMode s .isolated
  let s := s.setRos { s.ros with role := .noRole, isolation := bump16 s.ros.isolation }
  let s := releaseClaim s
  let s := s.setPln { s.pln with plan := none, shortfall := false }
  lampEvent (judgeRoster s)

/-- The bank takes part in the dose account from now on (R65, R68, R77, R80). -/
def enterDosing (s : State) (way : HeadWay) : State :=
  applyRole (judgeRoster (startSourceTimers (setMode s (dosingMode s)))) way

/-- The roster's judgements re-made, and what changed acted on (R59, R64). -/
def settle (s : State) : State :=
  let s := judgeRoster s
  match s.ctl.mode with
  | .dosing | .hold => if reasonStands s then enterIsolated s else applyRole s .byLoss
  | .isolated => if reasonStands s then s else enterDosing s .onReturn
  | .loading | .listen | .failsafe => s

/-- The bank mode follows the hold condition in DOSING and HOLD (R66). -/
def followHold (s : State) : State :=
  match s.ctl.mode with
  | .dosing => if s.pln.holdCond then settle (setMode s .hold) else s
  | .hold => if s.pln.holdCond then s else settle (setMode s .dosing)
  | _ => s

/-- Q may have changed: the hold condition, then the mode (R90, R91, R66). -/
def flowChanged (s : State) : State := followHold (judgeHold s)

/-- The roster creates the self entry when the bank leaves LOADING (R51). -/
def addSelf (s : State) : State :=
  s.setRos { s.ros with
    entries := insertEntry (selfEntry s.ldr.straps.channel s.ldr.straps.position s.serial) s.ros.entries }

/-- The accrual timer starts when the bank leaves LOADING (R10). -/
def startAccrual (s : State) : State := s.setTrk { s.trk with accrual := some 0 }

/-- The lamp records and the link when LOADING ends (R94, R127). -/
def fitLamps (s : State) (mask : BitVec 24) (eNom : Nat) : State :=
  setLamps s (s.seq.lamps.map fun l => { l with fitted := mask.getLsbD (l.index - 1), e := eNom })

/-- Entry to FAILSAFE: LEAVE with reason CONFIG, the STATUS timer, every lamp and ballast (R69, R118, R135). -/
def enterFailsafe (s : State) (cause : LoadFailure) : State :=
  let s := s.setLdr { s.ldr with failure := some cause }
  let s := s.setCtl { s.ctl with mode := .failsafe, statusTimer := some 0 }
  let s := startReadback (fitLamps (startAccrual (addSelf s)) (BitVec.allOnes 24) 0) 12
  settle (post s (.leave leaveConfig))

/-- Entry to LISTEN with the image loaded (R65): constants, self entry, lamps, readback, scan, wipe interval. -/
def enterListen (s : State) (cfg : ImageCfg) (digest : Digest) : State :=
  let s := s.setLdr { s.ldr with cfg := cfg, digest := some digest }
  let s := s.setCtl { s.ctl with mode := .listen, listenTimer := some 0 }
  let s := startReadback (fitLamps (startAccrual (addSelf s)) cfg.fitted cfg.eNom) cfg.ballasts
  let s := s.setScn { s.scn with timer := some 0, scan := some 0 }
  let s := s.setWip { s.wip with interval := if s.wip.state = .absent then none else some 0 }
  lampEvent (settle (judgeHold s))

/-- start_seq of the JOIN (R44). -/
def startSeq (s : State) : Seq := s.trk.guardedStart

/-- Capability byte of the JOIN (R70, R187). -/
def capability (s : State) : Byte :=
  BitVec.ofNat 8 (s.ldr.cfg.nMod % 8 + (if s.ldr.straps.wipeFit then 8 else 0) +
    (if s.ldr.straps.flowSrc then 16 else 0) + (if s.ldr.straps.uvtSrc then 32 else 0))

/-- The JOIN (R70). -/
def joinBody (s : State) : JoinBody :=
  { serial := s.serial, cause := s.ctl.resetCause.code, digest := s.ldr.digest.getD 0, startSeq := startSeq s,
    capability := capability s }

/-- The 2.0 s of LISTEN have run out (R65): JOIN and DOSING, or LEAVE and ISOLATED; the STATUS timer starts. -/
def listenOver (s : State) : State :=
  let s := s.setCtl { s.ctl with listenTimer := none, statusTimer := some 0 }
  if reasonStands s then enterIsolated s
  else
    let start := startSeq s
    lampEvent (enterDosing (post s (.join (joinBody s))) (.byJoining start))

/-! ### STATUS, FLOW and UVT as posted (R71, R77, R80) -/

/-- The flags of a STATUS (R71, R187). -/
def statusFlags (s : State) : BitVec 16 :=
  if s.ctl.mode = .failsafe then
    statusBit 12 true ||| statusBit 13 (s.ldr.failure = some .imageAbsent) |||
      statusBit 14 (s.ldr.failure = some .imageCrc) ||| statusBit 15 (s.ldr.failure = some .imageRange)
  else
    statusBit 0 (inStroke s) ||| statusBit 1 s.pln.shortfall ||| statusBit 2 s.ros.role.numbers |||
      statusBit 3 s.ldr.supply.low ||| statusBit 4 s.bus.busFault ||| statusBit 5 (s.pln.flow = .stale) |||
      statusBit 6 (s.pln.uvt = .stale) ||| statusBit 7 s.pln.flowDup.isSome ||| statusBit 8 s.pln.uvtDup.isSome |||
      statusBit 9 (anyEstimated s) ||| statusBit 10 s.ctl.positionReason ||| statusBit 11 s.ctl.digestReason

/-- The lit and failed counts (R122). -/
def lampsInState (s : State) (st : LampState) : Nat := s.seq.lamps.countP fun l => decide (l.state = st)

/-- The STATUS; in FAILSAFE every field but serial, mode and flags is zero (R71). -/
def statusBody (s : State) : StatusBody :=
  if s.ctl.mode = .failsafe then
    { serial := s.serial, mode := BitVec.ofNat 8 s.ctl.mode.code, role := 0, flags := statusFlags s, digest := 0,
      p := 0, fReq := 0, fEff := 0, lit := 0, failed := 0, nextSeq := 0, present := 0 }
  else
    { serial := s.serial, mode := BitVec.ofNat 8 s.ctl.mode.code, role := s.ros.role.code, flags := statusFlags s
      digest := s.ldr.digest.getD 0, p := BitVec.ofNat 16 (capacityP s), fReq := BitVec.ofNat 16 s.pln.fReq
      fEff := BitVec.ofNat 16 (fEff s), lit := BitVec.ofNat 8 (lampsInState s .lit)
      failed := BitVec.ofNat 8 (lampsInState s .failed), nextSeq := s.trk.nextExpected.getD 0
      present := if s.trk.nextExpected.isSome then 1 else 0 }

/-- A FLOW or UVT frame with the own reading as last handed; 0 and FAULT while there is none (R77, R80). -/
def readingBody (o : Option Offer) : ReadingBody :=
  match o with
  | some x =>
    match x.state with
    | .fault => ⟨0, OfferState.fault.code⟩
    | .normal => ⟨BitVec.ofNat 16 x.value, OfferState.normal.code⟩
    | .reverse => ⟨BitVec.ofNat 16 x.value, OfferState.reverse.code⟩
  | none => ⟨0, OfferState.fault.code⟩

end Sys2Proof.Machine
end

