-- ==== Sys2Proof/Machine/Scan.lean ====
section
/-! DEFINITION. The sensor scanner: samples, windows, faults, the learning of output estimates, the fouling
references and judgements, and the offers of a completed scan (chapter 7, R120). -/

namespace Sys2Proof.Machine

/-! ### Samples (R138, R141, R142) -/

/-- The valid raw range of input `i`. -/
def rawValid (i raw : Nat) : Bool := decide ((if i < 6 then 20 else 180) ≤ raw) && decide (raw ≤ 1003)

/-- A valid sample joins the window of up to four (R141). -/
def enterSample (w : List Nat) (raw : Nat) : List Nat := if w.length < 4 then w ++ [raw] else w.tail ++ [raw]

/-- One judged sample moves window, runs and fault state by the table of R142. -/
def Input.sample (valid : Bool) (raw : Nat) (x : Input) : Input :=
  if x.fault then
    if valid then
      if 19 ≤ x.validRun then
        { x with window := enterSample x.window raw, fault := false, outRun := 0, validRun := 0 }
      else { x with window := enterSample x.window raw, validRun := x.validRun + 1, outRun := 0 }
    else { x with validRun := 0 }
  else if valid then
    { x with window := enterSample x.window raw, validRun := min (x.validRun + 1) 20, outRun := 0 }
  else if x.outRun < 3 then { x with outRun := x.outRun + 1, validRun := 0 }
  else { window := [], fault := true, outRun := 0, validRun := 0 }

/-- Blanking sets the samples of the module sensors aside during a stroke (R146). -/
def blanked (s : State) (i : Nat) : Bool := decide (i < 6) && inStroke s

/-- The sample of input `i` counts in this scan: it is converted and not set aside. -/
def sampleTaken (s : State) (i : Nat) : Bool := (convertedInputs s).contains i && !blanked s i

def rawAt (raw : List (BitVec 10)) (i : Nat) : Nat := (raw.getD i 0).toNat

/-- The inputs after step 1 of a completion (R140). -/
def sampledInputs (s : State) (raw : List (BitVec 10)) : List Input :=
  s.scn.inputs.mapIdx fun i x =>
    if sampleTaken s i then x.sample (rawValid i (rawAt raw i)) (rawAt raw i) else x

/-- Inputs that entered FAULT at this completion. -/
def newFaults (before after : List Input) : Nat :=
  (before.zip after).countP fun p => !p.1.fault && p.2.fault

def stepSamples (s : State) (raw : List (BitVec 10)) : State :=
  let xs := sampledInputs s raw
  s.setScn { s.scn with
    inputs := xs, sensorFaults := raise16 s.scn.sensorFaults (newFaults s.scn.inputs xs) }

/-! ### Learning the output estimates (R120) -/

/-- The conditions of R120 for module `m`. -/
def learns (s : State) (m : Nat) : Bool :=
  let ls := lampsOf s m
  !(inputAt s (m - 1)).fault && !inStroke s && ls.any Lamp.isLit &&
    ls.all (fun l => !l.isLit || decide (60000 ≤ l.timer)) && !ls.any Lamp.igniting

/-- One estimate moved by a sixteenth of its distance to v = value × 10 / levels (R120). -/
def learnedE (value levels e : Nat) : Nat :=
  clamp16 ((e : Int) + roundAway (10 * (value : Int) - (e : Int) * (levels : Int)) (16 * levels))

/-- The learning of module `m`; a clear sensor without a value teaches nothing. -/
def learnModule (s : State) (m : Nat) : State :=
  match learns s m, sensorValue s.ldr.cfg.sensorSpan (inputAt s (m - 1)) with
  | true, some v =>
    mapLamps s (fun l => decide (moduleOf l.index = m) && l.isLit)
      fun l => { l with e := learnedE v (litLevels (lampsOf s m)) l.e }
  | _, _ => s

def stepLearn (s : State) : State := (modules s).foldl learnModule s

/-! ### Publishing F_eff (R140, R154) -/

/-- Some module has a lamp burning and a value in its window (R154; log 38). -/
def lightSeen (s : State) : Bool :=
  (modules s).any fun m => (lampsOf s m).any Lamp.burning && decide ((inputAt s (m - 1)).window ≠ [])

/-- Step 3 of a completion: F_eff is published from the first scan of R154 on; it is computed where it is read. -/
def stepPublish (s : State) : State := s.setScn { s.scn with fEffBegun := s.scn.fEffBegun || lightSeen s }

/-! ### Fouling (R152, R153) -/

/-- A sensor value (0.01 mW/cm²) over a sum of level × estimate (tenths): the ratios of R152 and R153. A sum of 0
gives a value the manual does not state (log 15). -/
def ratioTo (value sum : Nat) : Ratio :=
  if sum = 0 then Config.ratioOverZero value else ⟨10 * value, sum - 1⟩

/-- `present` is below `percent` of `ref`, compared exactly. -/
def belowShare (present ref : Ratio) (percent : Nat) : Bool :=
  decide (present.num * 100 * (ref.denPred + 1) < percent * ref.num * (present.denPred + 1))

/-- The sum of commanded level × e_ref over the LIT lamps of a module. -/
def refLevelSum (ls : List Lamp) (eRef : List Nat) : Nat :=
  sumOf ((ls.zip eRef).map fun p => if p.1.isLit then p.1.slot.level * p.2 else 0)

/-- The post-stroke count of an armed module after this completion (R152). -/
def countPost (entered faultedNow : Bool) (r : FoulRef) : FoulRef :=
  if r.armed then
    { r with postCount := if faultedNow then 0 else if entered then min (r.postCount + 1) 4 else r.postCount }
  else r

/-- The reference is taken where its conditions hold (R152). That a completion within a later stroke may take it, from
the window as it stood before, is the model's choice (DESIGN CHOICE, log 39). -/
def takeReference (ls : List Lamp) (i : Input) (value : Option Nat) (r : FoulRef) : FoulRef :=
  match value with
  | some v =>
    if r.armed && decide (r.postCount = 4) && !i.fault && ls.any Lamp.isLit && !ls.any Lamp.igniting then
      { r with ratio := some (ratioTo v (litLevelSum ls)), eRef := ls.map (·.e), armed := false, belowRun := 0 }
    else r
  | none => r

/-- The fouling judgement: the reference after it, and whether a request is handed on (R153). -/
def judgeFouling (threshold : Nat) (ls : List Lamp) (judged : Bool) (value : Option Nat) (r : FoulRef) :
    FoulRef × Bool :=
  match r.ratio, value with
  | some ref, some v =>
    if judged && ls.any Lamp.isLit then
      if belowShare (ratioTo v (refLevelSum ls r.eRef)) ref threshold then
        if r.belowRun < 49 then ({ r with belowRun := r.belowRun + 1 }, false)
        else ({ r with belowRun := 0 }, true)
      else ({ r with belowRun := 0 }, false)
    else (r, false)
  | _, _ => (r, false)

/-- Step 4 for the reference of module `m` (`before` is its input ahead of step 1). -/
def foulStep (s : State) (before : List Input) (raw : List (BitVec 10)) (m : Nat) (r : FoulRef) : FoulRef × Bool :=
  let i := inputAt s (m - 1)
  let was := (before[m - 1]?).getD Input.fresh
  let valid := sampleTaken s (m - 1) && rawValid (m - 1) (rawAt raw (m - 1))
  let value := sensorValue s.ldr.cfg.sensorSpan i
  let r := takeReference (lampsOf s m) i value (countPost valid (!was.fault && i.fault) r)
  judgeFouling s.ldr.cfg.foulThr (lampsOf s m) (valid && !i.fault) value r

/-- The references of modules 1 to N_mod stepped, and the number of requests (R152, R153). -/
def foulSteps (s : State) (before : List Input) (raw : List (BitVec 10)) : List (FoulRef × Bool) :=
  s.scn.refs.mapIdx fun k r =>
    if k < s.ldr.cfg.nMod then foulStep s before raw (k + 1) r else (r, false)

/-- Step 4 of a completion: references, judgements, and the requests handed to the wiper. -/
def stepFouling (s : State) (before : List Input) (raw : List (BitVec 10)) : State :=
  let xs := foulSteps s before raw
  let n := xs.countP (·.2)
  let s := s.setScn { s.scn with refs := xs.map (·.1), foulRequests := raise16 s.scn.foulRequests n }
  if n = 0 then s else requestWipe s

/-! ### Offers (R148) -/

/-- The flow offer of a completed scan. -/
def flowOffer (s : State) (fdir : Bool) : Option Offer :=
  let i := inputAt s 6
  if !s.ldr.straps.flowSrc then none
  else if i.fault then some ⟨.fault, 0⟩
  else (flowInputValue s.ldr.cfg.qSpan i).map fun v => ⟨if fdir then .reverse else .normal, v⟩

/-- The UVT offer of a completed scan. -/
def uvtOffer (s : State) : Option Offer :=
  let i := inputAt s 7
  if !s.ldr.straps.uvtSrc then none
  else if i.fault then some ⟨.fault, 0⟩
  else (uvtInputValue i).map fun v => ⟨.normal, v⟩

/-- The flow offer handed to the planner, from the bank's own position (R74). -/
def handFlow (s : State) (o : Option Offer) : State :=
  match o with
  | some x =>
    flowChanged (offerFlow (s.setScn { s.scn with ownFlow := some x }) s.ldr.straps.position x.state x.value)
  | none => s

/-- The UVT offer handed to the planner, from the bank's own slot (R78). -/
def handUvt (s : State) (o : Option Offer) : State :=
  match o with
  | some x => offerUvt (s.setScn { s.scn with ownUvt := some x }) (ownSlot s) x.state x.value
  | none => s

/-- The scan in progress ends; one that fell due meanwhile begins at once (R137). -/
def endScan (s : State) : State :=
  if s.scn.scanDue then s.setScn { s.scn with scan := some 0, timer := some 0, scanDue := false }
  else s.setScn { s.scn with scan := none }

/-- The five steps of a completion, in order (R140). -/
def completeScan (s : State) (raw : List (BitVec 10)) (fdir : Bool) : State :=
  let before := s.scn.inputs
  let s := stepSamples s raw
  let s := stepLearn s
  let s := stepPublish s
  let s := stepFouling s before raw
  let s := handFlow s (flowOffer s fdir)
  let s := handUvt s (uvtOffer s)
  lampEvent (endScan s)

/-- A scan falls due (R137). -/
def scanFallsDue (s : State) : State :=
  match s.scn.scan with
  | none => s.setScn { s.scn with scan := some 0, timer := some 0 }
  | some _ => s.setScn { s.scn with scanDue := true }

/-! ### CLEAR_SENSOR (R143) -/

/-- The input is converted at this bank and stands in FAULT. -/
def sensorClearable (s : State) (i : Nat) : Bool := (convertedInputs s).contains i && (inputAt s i).fault

/-- Fault state clear, runs 0, window kept. -/
def clearInput (s : State) (i : Nat) : State :=
  s.setScn { s.scn with
    inputs := s.scn.inputs.mapIdx fun k x =>
      if k = i then { x with fault := false, outRun := 0, validRun := 0 } else x }

end Sys2Proof.Machine
end

