-- ==== Sys2Proof/Machine/Handler.lean ====
section
/-! DEFINITION. The command handler: the records of the four tables, REPORT frames, replies, the screen and the
path every COMMAND takes (R188, R189, R196–R199). -/

namespace Sys2Proof.Machine

/-! ### Records (R188, R189) -/

def byteOf (n : Nat) : Byte := BitVec.ofNat 8 n

def two (n : Nat) : List Byte := bytes16 (BitVec.ofNat 16 n)

def flagBit (c : Bool) (n : Nat) : Nat := if c then n else 0

/-- A lamp record, 9 bytes. -/
def lampRecord (l : Lamp) : List Byte :=
  [byteOf (flagBit l.fitted 128 + 16 * l.state.code + (l.cause.map FailCause.code).getD 0), byteOf l.slot.level] ++
    two l.e ++ bytes24 (BitVec.ofNat 24 l.runMinutes) ++ two l.strikes

/-- Bits 23–21 of a queue record: origin − 1; for an origin outside 1–8 a free value (log 16). -/
def originField (o : Byte) : BitVec 3 :=
  if 1 ≤ o.toNat ∧ o.toNat ≤ 8 then BitVec.ofNat 3 (o.toNat - 1) else Config.originBits o

/-- A queue record, 10 bytes. -/
def queueRecord (t : Tracker) (r : ParcelRec) : List Byte :=
  let v := remainingVolume t r
  bytes16 r.firstSeq ++ bytes16 r.lastSeq ++
    bytes24 (originField r.origin ++ BitVec.ofNat 1 (v / 65536) ++ BitVec.ofNat 20 r.dose) ++ [r.flags] ++ two v

/-- A roster record, 8 bytes. -/
def rosterRecord (o : OwnView) (e : RosterEntry) : List Byte :=
  [byteOf (16 * e.chan + e.pos)] ++ bytes32 (e.serial.getD 0) ++
    [byteOf (64 * e.state.code + 8 * ((e.modeIn o).map BankMode.code).getD 0 + flagBit e.wiping.isSome 4 +
      flagBit (e.digestIn o).isSome 2 + flagBit (configFailFlag e.flags) 1)] ++
    bytes16 ((e.digestIn o).getD 0)

def upper32 (x : BitVec 32) : Nat := x.toNat / 65536

def lower32 (x : BitVec 32) : Nat := x.toNat % 65536

/-- The 28 entries of the COUNTERS table in the order of R189. -/
def counters (s : State) : List Nat :=
  [s.bus.rxErrors, s.bus.collisions, s.bus.dropped, s.bus.lost, s.bus.refusedDischarges, s.trk.placeholders,
    s.trk.resyncs, s.trk.duplicates, s.trk.overlaps, s.trk.adoptions, s.ros.unlearned, s.ros.isolation,
    s.link.misses, s.scn.sensorFaults] ++
  [s.scn.foulRequests, s.wip.strokes, s.wip.faults, s.wip.withdrawals, upper32 s.trk.discharged,
    lower32 s.trk.discharged, upper32 s.trk.underdosed, lower32 s.trk.underdosed, upper32 s.trk.estimated,
    lower32 s.trk.estimated, s.bus.formatErrors, s.cmd.ignored, (s.ldr.failure.map LoadFailure.code).getD 0,
    s.ctl.resetCause.code.toNat]

/-- The records of a table by its code: 0 LAMPS, 1 QUEUE, 2 ROSTER, 3 COUNTERS. -/
def tableRecords (s : State) (table : Nat) : List (List Byte) :=
  if table = 0 then s.seq.lamps.map lampRecord
  else if table = 1 then s.trk.queue.map (queueRecord s.trk)
  else if table = 2 then s.ros.entries.map (rosterRecord (ownView s))
  else (counters s).map two

/-- The table's present size (R197). -/
def tableSize (s : State) (table : Nat) : Nat :=
  if table = 0 then s.seq.lamps.length
  else if table = 1 then s.trk.queue.length
  else if table = 2 then s.ros.entries.length
  else 28

/-- Records per frame (section 10.3). -/
def perFrame (table : Nat) : Nat :=
  if table = 0 then 4 else if table = 1 then 4 else if table = 2 then 5 else 20

/-! ### REPORT frames -/

def codeQuery : Byte := 7
def codeRestart : Byte := 6

/-- The answer to any command but QUERY (R188). -/
def answerBody (code outcome : Byte) : ReportBody :=
  { code := code, outcome := outcome, table := 0, start := 0, count := 0, records := [] }

/-- A REPORT DATA frame with `count` records from `start` (R188). -/
def dataBody (s : State) (table start count : Nat) : ReportBody :=
  { code := codeQuery, outcome := outcomeData, table := byteOf table, start := byteOf start, count := byteOf count,
    records := (((tableRecords s table).drop start).take count).flatten }

def setReply (s : State) (r : Option Reply) : State := s.setCmd { s.cmd with reply := r }

/-- One REPORT DATA frame is posted and the reply waits for it, `owed` records being owed after it (R197). -/
def postData (s : State) (table start count owed : Nat) : State :=
  let b := dataBody s table start count
  post (setReply s (some (.running table (start + count) owed s.bus.nextTicket))) (.report b)

/-- The records a reply covers: from start up to the lower of start + count − 1 and size − 1 (R197). -/
def replyLength (s : State) (table start count : Nat) : Nat := min count (tableSize s table - start)

/-- A reply begins (R197). -/
def beginReply (s : State) (table start count : Nat) : State :=
  let n := replyLength s table start count
  postData s table start (min n (perFrame table)) (n - perFrame table)

/-- The frame of a running reply has completed: the next frame, or the end (R197). -/
def nextReply (s : State) (table next owed : Nat) : State :=
  if owed = 0 ∨ tableSize s table ≤ next then setReply s none
  else
    let n := min (min owed (perFrame table)) (tableSize s table - next)
    postData s table next n (owed - n)

/-- The bus interface reports the completion of the frame of a ticket (R197, R199). -/
def handlerTold (s : State) (t : Nat) : State :=
  let s := s.setCmd { s.cmd with restart := s.cmd.restart.map (Restart.resolve · t) }
  match s.cmd.reply with
  | some (.running table next owed k) => if k = t then nextReply s table next owed else s
  | _ => s

/-- LISTEN ends: a held answer is posted, a held QUERY begins (R196, R197). A held QUERY is measured against the
table's size at the end of LISTEN, not at its taking: the model's choice (DESIGN CHOICE, log 37). -/
def releaseHeld (s : State) : State :=
  match s.cmd.reply with
  | some (.heldAnswer code outcome) => post (setReply s none) (.report (answerBody code outcome))
  | some (.heldQuery table start count) => beginReply (setReply s none) table start count
  | _ => s

/-! ### Taking a COMMAND (R196, R199) -/

/-- The screen of R196. -/
def screened (s : State) (a : Src) (b : CommandBody) : Bool :=
  isPlantAddress a && decide (b.chan.toNat = s.ldr.straps.channel) && decide (b.pos.toNat = s.ldr.straps.position)

def countIgnored (s : State) : State := s.setCmd { s.cmd with ignored := bump16 s.cmd.ignored }

/-- A frame without a serial is learned and the judgements re-made (R53, R59). -/
def learnSource (s : State) (a : Src) : State := settle (s.setRos (s.ros.learnPlain a))

/-- Accepted frames are handed on after LOADING; in LOADING the frame is read and handed to no block (R173). -/
def frameEvent (s : State) (f : State → State) : State :=
  event s fun s =>
    let s := s.setBus s.bus.frameTaken
    if s.ctl.mode = .loading then s else f s

/-- The path of every COMMAND: learned by the roster, screened, ignored while a restart is pending, and otherwise
applied with any reply in progress ended (R196, R199). -/
def commandEvent (s : State) (a : Src) (b : CommandBody) (f : State → State) : State :=
  frameEvent s fun s =>
    let s := learnSource s a
    if screened s a b && s.cmd.restart.isNone then f (setReply s none) else countIgnored s

def outcomeOf (done : Bool) : Byte := if done then outcomeDone else outcomeRefused

/-- The answer: held in LISTEN, posted elsewhere (R196). -/
def answer (s : State) (code outcome : Byte) : State :=
  if s.ctl.mode = .listen then setReply s (some (.heldAnswer code outcome))
  else post s (.report (answerBody code outcome))

/-- A command given to its owner, `done` telling whether the owner does it; FAILSAFE refuses it (R196). -/
def applyCommand (s : State) (code : Byte) (done : Bool) (f : State → State) : State :=
  if done && !inFailsafe s then answer (f s) code outcomeDone else answer s code outcomeRefused

/-! ### What the owners do -/

/-- The lamp is cleared by CLEAR_LAMP: fitted, FAILED, its ballast not LOST (R107). -/
def lampClearable (s : State) (l : Lamp) : Bool :=
  l.fitted && decide (l.state = .failed) && !ballastLost s (ballastOf l.index)

/-- CLEAR_LAMP with index 0–24 is DONE where this holds (R107). -/
def clearLampDone (s : State) (i : Nat) : Bool :=
  if i = 0 then true
  else match lampAt s i with
    | some l => lampClearable s l
    | none => false

/-- The lamps CLEAR_LAMP with index `i` names, cleared (R107). -/
def clearLamps (s : State) (i : Nat) : State :=
  lampEvent (mapLamps s (fun l => (decide (i = 0) || decide (l.index = i)) && lampClearable s l)
    (Lamp.cleared s.ldr.cfg.eNom))

/-- CLEAR_BALLAST is DONE: readback complete, a configured ballast, LOST (R132). -/
def clearBallastDone (s : State) (b : Nat) : Bool :=
  linkRuns s && decide (1 ≤ b) && decide (b ≤ s.link.count) && ballastLost s b

def clearBallast (s : State) (b : Nat) : State :=
  s.setLink (s.link.mapBallast b fun x => { x with lost := false, misses := 0 })

/-- RESTART outside LISTEN: REPORT DONE, LEAVE, and the restart pending on both (R199). -/
def postRestart (s : State) : State :=
  let n := s.bus.nextTicket
  let s := s.setCmd { s.cmd with restart := some ⟨0, some n, some (n + 1)⟩ }
  post (post s (.report (answerBody codeRestart outcomeDone))) (.leave leaveRestart)

end Sys2Proof.Machine
end

