-- ==== Sys2Proof/Machine/ExecBus.lean ====
section
/-! DEFINITION. The meanings of the events on the line: broken and rejected frames, stray characters, the quiet
gap, transmission, collision and the served flag (R171–R177). -/

namespace Sys2Proof.Machine

/-- Characters of other stations are read while no frame is in flight; in flight every character read is one read
back, which TRANSMIT_COMPLETE and COLLISION carry (R176; log 4). -/
def readLine (s : State) (f : Bus → Bus) : State :=
  outsideReset s fun s => if s.bus.inFlight.isNone then s.setBus (f s.bus) else s

/-- The characters of a frame that is broken in assembly (R171). -/
def execRxFrameBroken (run : List RxChar) (s : State) : Host.Outcome State Fault Refusal :=
  .next (readLine s fun b => b.takeRun run)

/-- The characters of a frame that completes and fails a check (R171, R172). -/
def execRxFrameRejected (run : List RxChar) (s : State) : Host.Outcome State Fault Refusal :=
  .next (readLine s fun b => (b.takeRun run).takeQuiet)

/-- A character with mark 0 or a framing error while the assembler is IDLE (R171). -/
def execIdleMarkZeroCharacter (c : RxChar) (s : State) : Host.Outcome State Fault Refusal :=
  .next (readLine s fun b => b.takeChar c)

/-- The served penalty in bit times (R174). -/
def servedPenalty (b : Bus) : Nat := if b.served then 36 else 0

/-- The line has been quiet for 14 bit times: access is judged from here (R174). -/
def execQuietGapEnd (s : State) : Host.Outcome State Fault Refusal :=
  .next (outsideReset s fun s =>
    let b := s.bus.takeQuiet
    s.setBus (if b.inFlight.isNone then { b with access := some (servedPenalty b) } else b))

/-- The head frame's W has been reached on the open access (R174). -/
def accessReached (s : State) (elapsed : Nat) : Bool :=
  match s.bus.queue, s.bus.access with
  | f :: _, some penalty => s.bus.inFlight.isNone && decide (waitFor f (ownSlot s) penalty ≤ elapsed)
  | _, _ => false

/-- The head frame begins to be sent, `elapsed` bit times after the quiet gap (R174, R176). -/
def execTransmitStart (elapsed : Nat) (s : State) : Host.Outcome State Fault Refusal :=
  .next (outsideReset s fun s => if accessReached s elapsed then s.setBus s.bus.begin else s)

/-- Every character of the frame in flight has been read back as sent; its poster is told (R160, R176, R197, R199).
Characters that do not say so change nothing (log 4). -/
def execTransmitComplete (s : State) (read : List (BitVec 11) := []) : Host.Outcome State Fault Refusal :=
  .next (event s fun s =>
    match s.bus.inFlight with
    | some x =>
      if read = x.frame.chars then
        handlerTold (claimSent (s.setBus (s.bus.complete x)) x.frame.ticket) x.frame.ticket
      else s
    | none => s)

/-- The last of the characters read back differs from the one sent: a collision (R176, R177). Characters that do not
say so change nothing (log 4). -/
def execCollision (s : State) (read : List (BitVec 11) := []) : Host.Outcome State Fault Refusal :=
  .next (event s fun s =>
    match s.bus.inFlight with
    | some x =>
      if differsLast x.frame.chars read then
        let p := s.bus.collide x (s.bus.asm.takeReadBack read)
        giveUpAll (s.setBus p.bus) p.givenUp
      else s
    | none => s)

/-- The line has been quiet for 216 bit times (R175). -/
def execServedFlagClear (s : State) : Host.Outcome State Fault Refusal :=
  .next (outsideReset s fun s =>
    if s.bus.inFlight.isNone then s.setBus { s.bus with served := false } else s)

end Sys2Proof.Machine
end

