-- ==== Sys2Proof/Machine/ExecCommands.lean ====
section
/-! DEFINITION. The meanings of the COMMAND frames from plant stations (R107, R132, R143, R168, R196–R199). -/

namespace Sys2Proof.Machine

/-- CLEAR_LAMP (R107). -/
def execClearLamp (a : Src) (b : CommandBody) (s : State) : Host.Outcome State Fault Refusal :=
  .next (commandEvent s a b fun s =>
    applyCommand s 1 (clearLampDone s b.arg1.toNat) fun s => clearLamps s b.arg1.toNat)

/-- CLEAR_BALLAST (R132). -/
def execClearBallast (a : Src) (b : CommandBody) (s : State) : Host.Outcome State Fault Refusal :=
  .next (commandEvent s a b fun s =>
    applyCommand s 2 (clearBallastDone s b.arg1.toNat) fun s => clearBallast s b.arg1.toNat)

/-- CLEAR_SENSOR (R143). -/
def execClearSensor (a : Src) (b : CommandBody) (s : State) : Host.Outcome State Fault Refusal :=
  .next (commandEvent s a b fun s =>
    applyCommand s 3 (sensorClearable s b.arg1.toNat) fun s => clearInput s b.arg1.toNat)

/-- CLEAR_WIPER (R168). -/
def execClearWiper (a : Src) (b : CommandBody) (s : State) : Host.Outcome State Fault Refusal :=
  .next (commandEvent s a b fun s =>
    applyCommand s 4 (decide (s.wip.state = .fault)) home)

/-- WIPE_NOW (R168). -/
def execWipeNow (a : Src) (b : CommandBody) (s : State) : Host.Outcome State Fault Refusal :=
  .next (commandEvent s a b fun s => applyCommand s 5 (decide (s.wip.state = .parked)) wantWipe)

/-- RESTART: at once in LISTEN, pending elsewhere (R199). -/
def execRestart (a : Src) (b : CommandBody) (s : State) : Host.Outcome State Fault Refusal :=
  .next (commandEvent s a b fun s => if s.ctl.mode = .listen then takeRestart s else postRestart s)

/-- The table and the start a QUERY names (R187). -/
def queryTable (b : CommandBody) : Nat := b.arg1.toNat / 64

def queryStart (b : CommandBody) : Nat := b.arg1.toNat % 64

/-- QUERY: held in LISTEN, begun elsewhere (R196, R197). -/
def execQuery (a : Src) (b : CommandBody) (s : State) : Host.Outcome State Fault Refusal :=
  .next (commandEvent s a b fun s =>
    if s.ctl.mode = .listen then setReply s (some (.heldQuery (queryTable b) (queryStart b) b.arg2.toNat))
    else beginReply s (queryTable b) (queryStart b) b.arg2.toNat)

/-- A code outside 1–7 (R196). -/
def execCommandOtherCode (a : Src) (code : Byte) (b : CommandBody) (s : State) : Host.Outcome State Fault Refusal :=
  .next (commandEvent s a b fun s => answer s code outcomeRefused)

end Sys2Proof.Machine
end

