-- ==== Sys2Proof/Machine/ExecTimers.lean ====
section
/-! DEFINITION. The meanings of the expiries of the station, the tracker, the planner, the roster and the handler.
An expiry is taken while its timer runs (log 4). -/

namespace Sys2Proof.Machine

/-- The 2.0 s of LISTEN run out (R65); a held answer follows (R196). -/
def execListenEnd (s : State) : Host.Outcome State Fault Refusal :=
  .next (event s fun s => if s.ctl.mode = .listen then releaseHeld (listenOver s) else s)

/-! ### The accrual expiry (R10) -/

/-- The flags of the conditions standing when an expiry is taken (R18). -/
def accrualFlags (s : State) : Byte :=
  flagIf (anyEstimated s) flagEstimated ||| flagIf (s.ctl.mode = .hold) flagHoldSeen |||
    flagIf s.pln.shortfall flagShortfallSeen ||| flagIf (inStroke s) flagWipeSeen

/-- The tracker after the first three steps: count, create, credit (R11–R18). -/
def accrued (s : State) : Tracker :=
  let t := if s.ctl.mode = .dosing then s.trk.count (flowQ s) else s.trk
  let t := if s.ros.role.numbers then t.create s.ldr.cfg.z s.ldr.straps.position s.ldr.cfg.vP else t
  t.credit (fEff s) (accrualFlags s)

/-- The PARCEL for a record that leaves (R22, R28). -/
def parcelOf (recipient : Nat) (r : ParcelRec) : ParcelBody :=
  { recipient := byteOf recipient, firstSeq := r.firstSeq, lastSeq := r.lastSeq, dose := BitVec.ofNat 24 r.dose,
    flags := r.flags, origin := r.origin }

/-- The DISCHARGE for a judged record (R23). -/
def dischargeOf (dT : Nat) (r : ParcelRec) : DischargeBody :=
  { firstSeq := r.firstSeq, lastSeq := r.lastSeq, dose := BitVec.ofNat 24 r.dose, flags := r.flags,
    origin := r.origin, verdict := if verdictMet dT r then 1 else 0 }

/-- One record leaves by the role: handed off, or judged, counted and discharged (R21–R24). -/
def sendRecord (role : Role) (s : State) (r : ParcelRec) : State :=
  match role with
  | .head | .mid => post s (.parcel (parcelOf (s.ros.down.getD 0) r))
  | .tail | .sole => post (s.setTrk (s.trk.judged s.ldr.cfg.dT r)) (.discharge (dischargeOf s.ldr.cfg.dT r))
  | .noRole => s

/-- The close of an expiry that used `q`: plan, setpoint, admission (R10, R83, R88, R159). -/
def closeExpiry (s : State) (q : Nat) : State :=
  judgeAdmission (lampEvent (computeSetpoint (computePlan s q) q))

/-- The four steps in DOSING or HOLD (R10); in the other modes the queue is empty and nothing moves (R12). -/
def accrue (s : State) : State :=
  if s.ctl.mode.doses then
    let t := accrued s
    t.leaving.foldl (sendRecord s.ros.role) (s.setTrk t.exit)
  else s

/-- The accrual timer expires (R10). -/
def execAccrualTimerExpiry (s : State) : Host.Outcome State Fault Refusal :=
  .next (event s fun s =>
    if s.trk.accrual.isSome then
      let q := flowQ s
      closeExpiry (accrue (s.setTrk { s.trk with accrual := some 0 })) q
    else s)

/-! ### Periodic frames -/

/-- A STATUS is posted (R71). -/
def execStatusTimerExpiry (s : State) : Host.Outcome State Fault Refusal :=
  .next (event s fun s =>
    if s.ctl.statusTimer.isSome then
      post (s.setCtl { s.ctl with statusTimer := some 0 }) (.status (statusBody s))
    else s)

/-- A FLOW is posted in DOSING or HOLD (R77). -/
def execFlowTimerExpiry (s : State) : Host.Outcome State Fault Refusal :=
  .next (event s fun s =>
    if s.pln.flowTimer.isSome then
      let s := s.setPln { s.pln with flowTimer := some 0 }
      if s.ctl.mode.doses then post s (.flow (readingBody s.scn.ownFlow)) else s
    else s)

/-- A UVT is posted in DOSING or HOLD (R80). -/
def execUvtTimerExpiry (s : State) : Host.Outcome State Fault Refusal :=
  .next (event s fun s =>
    if s.pln.uvtTimer.isSome then
      let s := s.setPln { s.pln with uvtTimer := some 0 }
      if s.ctl.mode.doses then post s (.uvt (readingBody s.scn.ownUvt)) else s
    else s)

/-! ### The planner's sources and the hold timer -/

/-- The adopted flow source lapses (R76). -/
def execFlowSourceLapse (s : State) : Host.Outcome State Fault Refusal :=
  .next (event s fun s =>
    if s.pln.flowSource.isSome then flowChanged (s.setPln { s.pln with flow := .stale, flowSource := none }) else s)

/-- FLOW_SOURCE_DUP clears (R75). -/
def execFlowSourceDupClear (s : State) : Host.Outcome State Fault Refusal :=
  .next (outsideReset s fun s => s.setPln { s.pln with flowDup := none })

/-- The adopted UVT source lapses (R79, R81). -/
def execUvtSourceLapse (s : State) : Host.Outcome State Fault Refusal :=
  .next (outsideReset s fun s =>
    if s.pln.uvtSource.isSome then lampEvent (s.setPln { s.pln with uvt := .stale, uvtSource := none }) else s)

/-- UVT_SOURCE_DUP clears (R78). -/
def execUvtSourceDupClear (s : State) : Host.Outcome State Fault Refusal :=
  .next (outsideReset s fun s => s.setPln { s.pln with uvtDup := none })

/-- The hold condition is raised (R90). -/
def execHoldTimerExpiry (s : State) : Host.Outcome State Fault Refusal :=
  .next (event s fun s =>
    if s.pln.holdTimer.isSome then followHold (s.setPln { s.pln with holdCond := true, holdTimer := none }) else s)

/-! ### The roster's ages -/

/-- A foreign entry with this key that is not LOST. -/
def heardEntry (s : State) (k : EntryKey) : Bool := s.ros.entries.any fun e => e.hasKey k && !e.isLost

/-- The wiper frees itself where a bank of the own channel at position `pos` went LOST (R162). -/
def freeWait (s : State) (chan pos : Nat) : State :=
  if chan = s.ldr.straps.channel then emptyWaitOn s pos else s

/-- An entry goes LOST (R57). Where the position waited on holds two entries, the wait ends with the first of them to
go LOST: the model's choice (DESIGN CHOICE, log 36). -/
def execRosterEntryLost (k : EntryKey) (s : State) : Host.Outcome State Fault Refusal :=
  .next (event s fun s =>
    if heardEntry s k then
      freeWait (settle (s.setRos (s.ros.change k RosterEntry.goneLost))) k.chan k.pos
    else s)

/-- A LOST entry is removed (R57). -/
def execRosterEntryRemove (k : EntryKey) (s : State) : Host.Outcome State Fault Refusal :=
  .next (event s fun s =>
    if s.ros.entries.any (fun e => e.hasKey k && e.isLost) then settle (s.setRos (s.ros.remove k)) else s)

/-- The pending break's life runs out (R42). -/
def execPendingBreakExpiry (s : State) : Host.Outcome State Fault Refusal :=
  .next (outsideReset s fun s => s.setTrk { s.trk with brk := none })

/-- 1.0 s after a RESTART was taken (R199). -/
def execRestartTimeout (s : State) : Host.Outcome State Fault Refusal :=
  .next (outsideReset s fun s => if s.cmd.restart.isSome then takeRestart s else s)

end Sys2Proof.Machine
end

