-- ==== Sys2Proof/Machine/ExecFrames.lean ====
section
/-! DEFINITION. The meanings of the frames received from other stations (R30–R42, R52–R58, R75, R78, R161, R162,
R173, R186). -/

namespace Sys2Proof.Machine

/-- The roster learns a JOIN or a STATUS (R52). -/
def learnNamed (s : State) (a : Src) (serial : Serial) (fields : RosterEntry → RosterEntry) : Roster :=
  if isBankAddress a && decide (serial ≠ 0) then
    if decide (serial = s.serial) && isOwnAddress s a then s.ros else s.ros.learnIdentity a serial fields
  else s.ros.learnPlain a

/-- The conditions under which a JOIN records a pending break; `head` is the current head before it (R41). -/
def recordsBreak (s : State) (head : Option Nat) (a : Src) (b : JoinBody) : Bool :=
  fromOwnChannelBank s a && decide (s.ldr.digest = some b.digest) &&
    (match head with
      | none => true
      | some h => decide (a.pos.toNat < h))

def noteBreak (s : State) (head : Option Nat) (a : Src) (b : JoinBody) : State :=
  if recordsBreak s head a b then s.setTrk { s.trk with brk := some ⟨b.startSeq, 30000⟩ } else s

/-- A JOIN (R55, R41). -/
def execJoinReceived (a : Src) (b : JoinBody) (s : State) : Host.Outcome State Fault Refusal :=
  .next (frameEvent s fun s =>
    let head := currentHead (ownView s) s.ros
    noteBreak (settle (s.setRos (learnNamed s a b.serial (joinFields b)))) head a b)

def ownChannel (s : State) (a : Src) : Bool := decide (a.chan.toNat = s.ldr.straps.channel)

/-- The watermark candidate of a STATUS (R35). -/
def statusWatermark (s : State) (a : Src) (b : StatusBody) : State :=
  if ownChannel s a && decide (b.present ≠ 0) then s.setTrk (s.trk.offerWatermark b.nextSeq) else s

/-- A STATUS (R55, R35). -/
def execStatusReceived (a : Src) (b : StatusBody) (s : State) : Host.Outcome State Fault Refusal :=
  .next (frameEvent s fun s =>
    statusWatermark (settle (s.setRos (learnNamed s a b.serial (statusFields b)))) a b)

/-- A FLOW (R75). -/
def execFlowReceived (a : Src) (b : ReadingBody) (s : State) : Host.Outcome State Fault Refusal :=
  .next (frameEvent s fun s =>
    let s := learnSource s a
    if fromOwnChannelBank s a then flowChanged (offerFlow s a.pos.toNat (flowStateOf b.state) b.value.toNat)
    else s)

/-- A UVT (R78). -/
def execUvtReceived (a : Src) (b : ReadingBody) (s : State) : Host.Outcome State Fault Refusal :=
  .next (frameEvent s fun s =>
    let s := learnSource s a
    if isBankAddress a then
      lampEvent (offerUvt s (slotOf a.chan.toNat a.pos.toNat) (uvtStateOf b.value.toNat b.state) b.value.toNat)
    else s)

/-! ### PARCEL (R30–R36) -/

/-- The screen of R30: own channel, and a range that is not backward. -/
def parcelScreened (s : State) (a : Src) (b : ParcelBody) : Bool := ownChannel s a && !seqLater b.firstSeq b.lastSeq

/-- The record of an arrival; a dose above the range is taken as 999.999 (R30). -/
def arrivalOf (b : ParcelBody) : ParcelRec :=
  { firstSeq := b.firstSeq, lastSeq := b.lastSeq, entryMark := 0, exitMark := 0, dose := min b.dose.toNat 999999,
    origin := b.origin, flags := b.flags }

/-- Accepted by name (R31). -/
def namedHere (s : State) (a : Src) (b : ParcelBody) : Bool :=
  decide (b.recipient.toNat = s.ldr.straps.position) && decide (a.pos.toNat < s.ldr.straps.position)

/-- Accepted by adoption (R32). -/
def adoptable (s : State) (a : Src) (b : ParcelBody) : Bool :=
  let peers := peerPositions (ownView s) s.ros.refDigest s.ros.entries
  decide (a.pos.toNat < b.recipient.toNat) && decide (b.recipient.toNat < s.ldr.straps.position) &&
    !peers.contains b.recipient.toNat &&
    peers.all fun p => !(decide (a.pos.toNat < p) && decide (p < s.ldr.straps.position))

/-- The tracker after a screened PARCEL: the watermark, then acceptance in DOSING or HOLD (R30, R31, R32, R35). -/
def takeParcel (s : State) (a : Src) (b : ParcelBody) : Tracker :=
  let t := s.trk.offerWatermark (b.lastSeq + 1)
  if s.ctl.mode.doses then
    if namedHere s a b then t.accept s.ldr.cfg.z s.ldr.straps.position (arrivalOf b)
    else if adoptable s a b then t.adopt s.ldr.cfg.z s.ldr.straps.position (arrivalOf b)
    else t
  else t

/-- A PARCEL (R30). -/
def execParcelReceived (a : Src) (b : ParcelBody) (s : State) : Host.Outcome State Fault Refusal :=
  .next (frameEvent s fun s =>
    let s := learnSource s a
    if parcelScreened s a b then s.setTrk (takeParcel s a b) else s)

/-- A DISCHARGE: the roster alone (R173). -/
def execDischargeReceived (a : Src) (_b : DischargeBody) (s : State) : Host.Outcome State Fault Refusal :=
  .next (frameEvent s fun s => learnSource s a)

/-- A REPORT: its body is not read (R186). -/
def execReportReceived (a : Src) (s : State) : Host.Outcome State Fault Refusal :=
  .next (frameEvent s fun s => learnSource s a)

/-- A foreign entry at the address that is not LOST. -/
def heardAt (s : State) (a : Src) : Bool := s.ros.entries.any fun e => e.foreignAt a && !e.isLost

/-- A LEAVE (R58); the wiper waits no longer for a bank that goes LOST by it (R162). -/
def execLeaveReceived (a : Src) (reason : Byte) (s : State) : Host.Outcome State Fault Refusal :=
  .next (frameEvent s fun s =>
    if isOwnAddress s a then settle (s.setRos (s.ros.leaveFromTwin a reason))
    else
      let heard := heardAt s a
      let s := settle (s.setRos (s.ros.leaveFrom a))
      if heard then freeWait s a.chan.toNat a.pos.toNat else s)

/-- A WIPE_CLAIM (R161). That one from the bank's own position has no effect on the wiper is the model's choice: the
table has no column for it (DESIGN CHOICE, log 42). -/
def execWipeClaimReceived (a : Src) (s : State) : Host.Outcome State Fault Refusal :=
  .next (frameEvent s fun s =>
    let s := learnSource s a
    if fromOwnChannelBank s a && decide (a.pos.toNat < s.ldr.straps.position) then yieldTo s a.pos.toNat else s)

/-- A WIPE_ACTIVE (R56, R161). -/
def execWipeActiveReceived (a : Src) (s : State) : Host.Outcome State Fault Refusal :=
  .next (frameEvent s fun s =>
    let s := settle (s.setRos ((s.ros.learnPlain a).setWiping a (some 0)))
    if fromOwnChannelBank s a && decide (a.pos.toNat ≠ s.ldr.straps.position) then yieldTo s a.pos.toNat else s)

/-- A WIPE_DONE, any outcome (R56, R162). -/
def execWipeDoneReceived (a : Src) (_outcome : Byte) (s : State) : Host.Outcome State Fault Refusal :=
  .next (frameEvent s fun s =>
    let s := settle (s.setRos ((s.ros.learnPlain a).setWiping a none))
    if fromOwnChannelBank s a then emptyWaitOn s a.pos.toNat else s)

/-- A fixed-length frame of the wrong length: counted from reset release onwards, learned after LOADING
(R173, R186; log 27). -/
def execFormatErrorFrame (a : Src) (s : State) : Host.Outcome State Fault Refusal :=
  .next (event s fun s =>
    let s := s.setBus { s.bus.frameTaken with formatErrors := bump16 s.bus.formatErrors }
    if s.ctl.mode = .loading then s else learnSource s a)

end Sys2Proof.Machine
end

