-- ==== Sys2Proof/Machine/ExecLamps.lean ====
section
/-! DEFINITION. The meanings of the ballast link's and the lamp sequencer's events (chapters 5 and 6). -/

namespace Sys2Proof.Machine

/-- A poll cycle falls due (R128). -/
def execPollCycleDue (s : State) : Host.Outcome State Fault Refusal :=
  .next (outsideReset s fun s =>
    if linkRuns s then pump (s.setLink { s.link with cycleDue := true }) else s)

/-- The visit of `v` ends with a good reply (R130, R133). -/
def goodReply (s : State) (v : Visit) (r : BallastReply) : State :=
  let s := endVisit s
  let s := s.setLink (s.link.mapBallast v.ballast (BallastRec.answered r.cls))
  match s.link.phase with
  | .stopped => s
  | .readback fs => advanceReadback s (fs ++ [some r])
  | .running => lampEvent (replyEvent s v.ballast r)

/-- The judgement of the reply of the visit in flight (R125); `none` with no visit in flight. -/
def visitJudged (s : State) (reply : BitVec 24) : Option (Visit × ReplyJudgement) :=
  s.link.visit.map fun v => (v, judgeReply v.ballast reply)

/-- A visit ends with a reply judged good (R125, R130); bits judged a miss are another row's event (log 4). -/
def execBallastGoodReply (reply : BitVec 24) (s : State) : Host.Outcome State Fault Refusal :=
  .next (outsideReset s fun s =>
    match visitJudged s reply with
    | some (v, .good r) => goodReply s v r
    | _ => s)

/-- The visit of `v` ends with a miss (R131, R133). -/
def missedReply (s : State) (v : Visit) : State :=
  let was := ballastLost s v.ballast
  let s := endVisit s
  let s := s.setLink { s.link.mapBallast v.ballast BallastRec.missed with misses := bump16 s.link.misses }
  match s.link.phase with
  | .stopped => s
  | .readback fs => if ballastLost s v.ballast then advanceReadback s (fs ++ [none]) else beginVisit s v.ballast
  | .running =>
    lampEvent (if ballastLost s v.ballast && !was then failBallast s v.ballast .ballastLost else s)

/-- A visit ends with a reply judged a miss: none, a bad checksum or malformed (R125, R131); bits judged good are
another row's event (log 4). -/
def execBallastMiss (reply : BitVec 24) (s : State) : Host.Outcome State Fault Refusal :=
  .next (outsideReset s fun s =>
    match visitJudged s reply with
    | some (v, .miss _) => missedReply s v
    | _ => s)

/-- 3 s, 6 s or 9 s of a strike (R96). -/
def strikeBoundary (s : State) (i : Nat) : State :=
  match lampAt s i with
  | some l => if l.attempt < 3 then mapLamp s i Lamp.nextAttempt else failLamp s i .noStrike
  | none => s

/-- An attempt of the lamp in STRIKING ends (R96). -/
def execStrikeAttemptExpiry (i : Nat) (s : State) : Host.Outcome State Fault Refusal :=
  .next (outsideReset s fun s => if lampIn s i .striking then lampEvent (strikeBoundary s i) else s)

/-- The warm-up ends (R98). -/
def execWarmupEnd (i : Nat) (s : State) : Host.Outcome State Fault Refusal :=
  .next (outsideReset s fun s => if lampIn s i .warming then lampEvent (enterLamp s i .lit) else s)

/-- 60 s of cooling end (R99, R118). -/
def execCoolingEnd (i : Nat) (s : State) : Host.Outcome State Fault Refusal :=
  .next (outsideReset s fun s => if lampIn s i .cooling then lampEvent (enterLamp s i .off) else s)

/-- The strike-spacing timer expires (R110). -/
def execStrikeSpacingExpiry (s : State) : Host.Outcome State Fault Refusal :=
  .next (outsideReset s fun s =>
    if s.seq.spacing.isSome then lampEvent (s.setSeq { s.seq with spacing := none }) else s)

/-- The chosen lamp is put out and the hold-off timer restarts (R113, R114). -/
def putOut (s : State) : State :=
  match extinguishChoice s with
  | some l =>
    let s := enterLamp s l.index .cooling
    s.setSeq { s.seq with holdoff := some 0 }
  | none => s

/-- The hold-off timer reaches 600 s (R113). -/
def execExtinguishHoldoffExpiry (s : State) : Host.Outcome State Fault Refusal :=
  .next (outsideReset s fun s => if s.seq.holdoff.isSome then lampEvent (putOut s) else s)

/-- 24 h (R112). -/
def execDayTimerExpiry (s : State) : Host.Outcome State Fault Refusal :=
  .next (outsideReset s fun s =>
    s.setSeq { s.seq with day := 0, lamps := s.seq.lamps.map fun l => { l with strikesDay := 0 } })

/-- A minute counted on a lamp's run time (R119). -/
def Lamp.countMinute (l : Lamp) : Lamp :=
  { l with runMinutes := min (l.runMinutes + 1) 16777215, residue := l.residue - 60000 }

/-- The lamp's residue grows, or has reached 60 s. -/
def Lamp.runs (l : Lamp) : Bool := l.burning || decide (60000 ≤ l.residue)

/-- A lamp's run residue reaches 60 s (R119). -/
def execRunMinute (i : Nat) (s : State) : Host.Outcome State Fault Refusal :=
  .next (outsideReset s fun s =>
    mapLamps s (fun l => decide (l.index = i) && l.runs) Lamp.countMinute)

/-- The module's lamps enter LOCKED and its ballasts are to be visited (R106). -/
def lockModule (s : State) (m : Nat) : State :=
  let s := mapLamps s (fun l => decide (moduleOf l.index = m) && l.fitted)
    (Lamp.enter (inFailsafe s) s.seq.level .locked)
  requestUrgent (requestUrgent s (2 * m - 1)) (2 * m)

/-- How long a lockout input must have stood at its new level, in milliseconds (R105). -/
def lockoutDebounce : Nat := 50

/-- LKOm has stood open for `ms` milliseconds: from 50 ms on the lockout opens: debounced state, scan, and, once readback
has completed, the lamps (R105, R106, R139). -/
def execLockoutOpen (m : Nat) (s : State) (ms : Nat := 50) : Host.Outcome State Fault Refusal :=
  .next (onceStood lockoutDebounce ms s fun s => outsideReset s fun s =>
    if m = 0 ∨ 6 < m ∨ lockoutOpenAt s m then s
    else
      let s := s.setSeq { s.seq with lockouts := s.seq.lockouts ||| BitVec.twoPow 6 (m - 1) }
      let s := restartScan s
      if linkRuns s then lampEvent (lockModule s m) else s)

/-- A lamp of the module leaves LOCKED: FAILED where its ballast is LOST, COOLING otherwise (R106). -/
def unlockLamp (s : State) (i : Nat) : State :=
  if lampIn s i .locked then
    if ballastLost s (ballastOf i) then failLamp s i .ballastLost else enterLamp s i .cooling
  else s

/-- LKOm has stood closed for `ms` milliseconds: from 50 ms on the lockout closes (R105, R106, R139). -/
def execLockoutClose (m : Nat) (s : State) (ms : Nat := 50) : Host.Outcome State Fault Refusal :=
  .next (onceStood lockoutDebounce ms s fun s => outsideReset s fun s =>
    if 1 ≤ m ∧ m ≤ 6 ∧ lockoutOpenAt s m then
      let s := s.setSeq { s.seq with lockouts := s.seq.lockouts &&& ~~~(BitVec.twoPow 6 (m - 1)) }
      let s := restartScan s
      if linkRuns s then
        lampEvent ([4 * m - 3, 4 * m - 2, 4 * m - 1, 4 * m].foldl unlockLamp s)
      else s
    else s)

end Sys2Proof.Machine
end

