-- ==== Sys2Proof/Machine/Image.lean ====
section
/-! DEFINITION. The configuration image: its fields (R190), its checks (R193) and the digest; and what the loader
sends to read it (R192). -/

namespace Sys2Proof.Machine

def imgByte (img : List Byte) (i : Nat) : Nat := (img.getD i 0).toNat

def img16 (img : List Byte) (i : Nat) : Nat := imgByte img i * 256 + imgByte img (i + 1)

def img24 (img : List Byte) (i : Nat) : Nat := img16 img i * 256 + imgByte img (i + 2)

/-- The eight points of the UVT table, offsets 21–52. -/
def imgTable (img : List Byte) : List (Nat × Nat) :=
  (List.range 8).map fun k => (img16 img (21 + 4 * k), img16 img (23 + 4 * k))

/-- The zone volume: exposure length times area, rounded down to 0.01 m³ (R193). -/
def zoneVolume (exposure area : Nat) : Nat := exposure * area / 100

/-- The values at the offsets of R190. -/
def parseImage (img : List Byte) : ImageCfg :=
  { dT := img24 img 4, margin := imgByte img 7, vP := img16 img 8, area := img16 img 10, qMin := img16 img 12,
    qDesign := img16 img 14, qSpan := img16 img 16, uvtWorst := img16 img 18, holdFrac := imgByte img 20,
    table := imgTable img, sensorSpan := img16 img 53, exposure := img16 img 55, nMod := imgByte img 57,
    fitted := BitVec.ofNat 24 (img24 img 58), ballasts := imgByte img 61, eNom := img16 img 62,
    warmup := img16 img 64, minLit := imgByte img 66, wipeMin := img16 img 67, foulThr := imgByte img 69,
    z := zoneVolume (img16 img 55) (img16 img 10) }

/-- Form and CRC: image code, format, length and the CRC over offsets 0–69 (R190, R193). An image of another
length than 72 bytes fails here (log 31). -/
def imageFormed (img : List Byte) : Bool :=
  decide (img.length = 72) && decide (img16 img 0 = 0xD620) && decide (imgByte img 2 = 1) &&
    decide (imgByte img 3 = 72) && decide ((crc16 (img.take 70)).toNat = img16 img 70)

/-- The indices of the lamps the masks mark as fitted. -/
def fittedIndices (mask : BitVec 24) : List Nat :=
  ((List.range 24).map (· + 1)).filter fun i => mask.getLsbD (i - 1)

def strictlyRising : List Nat → Bool
  | a :: c :: rest => decide (a < c) && strictlyRising (c :: rest)
  | _ => true

/-- The ranges of R193. -/
def rangesHold (c : ImageCfg) : Bool :=
  decide (5000 ≤ c.dT ∧ c.dT ≤ 400000) && decide (c.margin ≤ 50) && decide (100 ≤ c.vP ∧ c.vP ≤ 5000) &&
    decide (c.area ≠ 0 ∧ c.exposure ≠ 0) && decide (1 ≤ c.z ∧ c.z ≤ 14 * c.vP) &&
    decide (12 * c.qMin ≤ 10 * c.qSpan) && decide (c.qDesign ≤ c.qSpan) && decide (1 ≤ c.qSpan) &&
    decide (c.uvtWorst ≤ 1000) && decide (c.holdFrac ≤ 100) && strictlyRising (c.table.map (·.1)) &&
    c.table.all (fun p => decide (p.1 ≤ 1000) && decide (p.2 ≤ 4095)) && decide (c.sensorSpan ≠ 0) &&
    decide (1 ≤ c.nMod ∧ c.nMod ≤ 6) &&
    (fittedIndices c.fitted).all
      (fun i => decide (ballastOf i ≤ c.ballasts) && decide (moduleOf i ≤ c.nMod)) &&
    decide (1 ≤ c.ballasts ∧ c.ballasts ≤ 12) && decide (c.eNom ≠ 0) &&
    decide (60 ≤ c.warmup ∧ c.warmup ≤ 300) &&
    decide (1 ≤ c.minLit ∧ c.minLit ≤ (fittedIndices c.fitted).length) &&
    decide (15 ≤ c.wipeMin ∧ c.wipeMin ≤ 480) && decide (50 ≤ c.foulThr ∧ c.foulThr ≤ 95)

/-- The first stage of R193 that fails decides the cause; `none` is success. -/
def imageFailure (img : List Byte) : Option LoadFailure :=
  if imageFormed img then
    if rangesHold (parseImage img) then none else some .imageRange
  else some .imageCrc

/-- The digest: the CRC over the channel section, offsets 4–54 (R190). -/
def imageDigest (img : List Byte) : Digest := crc16 ((img.drop 4).take 51)

/-! ### The loader's two lines (R192) -/

/-- What the loader does on CFG_SCL and CFG_SDA: a start condition, first or repeated; the device address with the
read or the write bit; a byte sent; a byte received and acknowledged or not; a stop condition; both lines released. -/
inductive LoaderSignal where
  | start
  | address (device : BitVec 7) (read : Bool)
  | byte (b : Byte)
  | receive (acknowledge : Bool)
  | stop
  | release
  deriving DecidableEq, Repr

/-- One attempt: offset 0 written to device 0x50, then 72 bytes in one sequential read, every one acknowledged but the
last (R192). -/
def readAttempt : List LoaderSignal :=
  [.start, .address 0x50 false, .byte 0, .start, .address 0x50 true] ++ List.replicate 71 (.receive true) ++
    [.receive false, .stop]

/-- An attempt abandoned after a bus error (R192). -/
def abandonAttempt : List LoaderSignal := [.release, .stop]

/-- What the loader sends from its last event to its next: in LOADING an attempt, after a bus error behind the end of
the one before; after the third error that end alone; otherwise nothing, with both lines released (R192; log 45). -/
def loaderSends (s : State) : List LoaderSignal :=
  if s.hold.held then []
  else match s.ctl.mode with
    | .loading => (if s.ldr.attempts = 0 then [] else abandonAttempt) ++ readAttempt
    | .failsafe => if s.ldr.failure = some .imageAbsent then abandonAttempt else []
    | .listen | .dosing | .hold | .isolated => []

end Sys2Proof.Machine
end

