-- ==== Sys2Proof/Machine/ExecReset.lean ====
section
/-! DEFINITION. The meanings of the reset, supply and loader commands (R191–R195). -/

namespace Sys2Proof.Machine

/-- The supply falls below the reset level, or through the retention level, at `mv` millivolts (R194). -/
def execSupplyBelowReset (mv : Nat) (s : State) : Host.Outcome State Fault Refusal := .next (takeSupply s mv)

/-- RESETN has stood low for `us` microseconds: from 10 µs on the low level counts, a shorter pulse is ignored (R194). -/
def execResetnLow (s : State) (us : Nat := 10) : Host.Outcome State Fault Refusal :=
  .next (onceStood 10 us s fun s =>
    if s.hold.held then s.setHold { s.hold with resetn := true, resetnLow := true }
    else takeReset s { noHold with resetn := true, resetnLow := true })

/-- The cause, by the first row of R194 that applies. -/
def causeOf (h : ResetHold) : ResetCause :=
  if h.belowRetention then .powerOn else if h.belowReset then .supply else if h.resetn then .pin else .restart

/-- The latched straps (R191). -/
def latchStraps (p : ResetPins) : Straps :=
  { channel := p.ch.toNat, position := p.pos.toNat + 1, flowSrc := p.flowSrc, uvtSrc := p.uvtSrc,
    wipeFit := p.wipeFit }

/-- The wiper at reset release: the limits as they stand, nothing owed, then ABSENT or HOMING (R155, R156). -/
def releaseWiper (s : State) (p : ResetPins) : State :=
  let s := s.setWip { s.wip with whome := p.whome, wend := p.wend, state := .absent, owed := false }
  if p.wipeFit then home s else s

/-- Reset release (R191, R194, R105, R155). A cold reset clears the wear (R94; log 26). -/
def releaseReset (s : State) (p : ResetPins) : State :=
  let s := setLamps s (s.seq.lamps.map fun l => if s.hold.belowRetention then Lamp.fresh l.index else l)
  let s := s.setCtl { s.ctl with resetCause := causeOf s.hold }
  let s := s.setLdr { s.ldr with straps := latchStraps p }
  let s := s.setSeq { s.seq with lockouts := p.lockouts }
  (releaseWiper s p).setHold noHold

/-- The levels of the causes as they stand: the supply, and RESETN, whose low level ends when the input reads high. A
RESTART reset has been taken by then (R194; log 32). -/
def takeLevels (s : State) (p : ResetPins) : State :=
  let s := takeSupply s p.supply
  s.setHold { s.hold with resetnLow := s.hold.resetnLow && !p.resetn, restarting := false }

/-- A reset cause ends: while another stands the part stays held, and after the last of them it is released, and LOADING
begins (R192, R194). That the row carries the levels, and that it ends a RESTART reset, are the model's choices
(DESIGN CHOICE, log 32). -/
def execResetRelease (p : ResetPins) (s : State) : Host.Outcome State Fault Refusal :=
  .next (if s.hold.held then
      let s := takeLevels s p
      if causeStands s then s else releaseReset s p
    else s)

/-- The supply crosses the warning level, at `mv` millivolts (R195); one that goes on falling passes the reset level and
resets the part (R194, R195). -/
def execSupplyLowChange (mv : Nat) (s : State) : Host.Outcome State Fault Refusal := .next (takeSupply s mv)

/-- An attempt ends in a bus error; the third in a row fails the load (R192). What the loader then sends is
`loaderSends`. -/
def execCfgBusError (s : State) : Host.Outcome State Fault Refusal :=
  .next (event s fun s =>
    if s.ctl.mode = .loading then
      let s := s.setLdr { s.ldr with attempts := s.ldr.attempts + 1 }
      if 3 ≤ s.ldr.attempts then enterFailsafe s .imageAbsent else s
    else s)

/-- All 72 bytes have been read and are judged (R193). -/
def execImageReadComplete (image : List Byte) (s : State) : Host.Outcome State Fault Refusal :=
  .next (event s fun s =>
    if s.ctl.mode = .loading then
      match imageFailure image with
      | some cause => enterFailsafe s cause
      | none => enterListen s (parseImage image) (imageDigest image)
    else s)

end Sys2Proof.Machine
end

