-- ==== Sys2Proof/Machine/ExecScan.lean ====
section
/-! DEFINITION. The meanings of the scan commands (R137, R140). -/

namespace Sys2Proof.Machine

/-- A scan falls due (R137). -/
def execScanStart (s : State) : Host.Outcome State Fault Refusal :=
  .next (outsideReset s fun s => if s.scn.timer.isSome then scanFallsDue s else s)

/-- The scan in progress completes with its raw samples and the FDIR level held with AI6 (R140). -/
def execScanComplete (raw : List (BitVec 10)) (fdir : Bool) (s : State) : Host.Outcome State Fault Refusal :=
  .next (event s fun s => if s.scn.scan.isSome then completeScan s raw fdir else s)

end Sys2Proof.Machine
end

