-- ==== Sys2Proof/Machine/ExecWiper.lean ====
section
/-! DEFINITION. The meanings of the wiper's events (R156–R166). -/

namespace Sys2Proof.Machine

/-- The wipe interval has run (R157). -/
def execWipeIntervalExpiry (s : State) : Host.Outcome State Fault Refusal :=
  .next (event s fun s =>
    if s.wip.interval.isSome then requestWipe (s.setWip { s.wip with interval := some 0 }) else s)

/-- The 400 ms of the claim window have run (R163). -/
def execClaimWindowExpiry (s : State) : Host.Outcome State Fault Refusal :=
  .next (event s fun s =>
    if s.wip.state = .claiming && s.wip.window.isSome then startStroke s else s)

/-- The 120 s of the wait record have run (R162). -/
def execWaitRecordExpiry (s : State) : Host.Outcome State Fault Refusal :=
  .next (event s fun s => if s.wip.wait.isSome then emptyWait s else s)

/-- WEND has become active. -/
def wendReached (s : State) : State :=
  if s.wip.whome then limitsTogether s
  else if s.wip.state = .strokeOut then turnBack s
  else s

/-- How long a limit input must have stood at its new level, in milliseconds (R155). -/
def limitFilter : Nat := 10

/-- WEND has stood at a new level for `ms` milliseconds: from 10 ms on the filtered level changes (R155, R156, R164–R166;
log 7). -/
def execWendActive (active : Bool) (s : State) (ms : Nat := 10) : Host.Outcome State Fault Refusal :=
  .next (onceStood limitFilter ms s fun s => event s fun s =>
    if s.wip.wend = active then s
    else
      let s := s.setWip { s.wip with wend := active }
      if active then wendReached s else s)

/-- WHOME has become active. -/
def whomeReached (s : State) : State :=
  if s.wip.wend then limitsTogether s
  else match s.wip.state with
    | .homing => homed s
    | .strokeBack => strokeDone s
    | _ => s

/-- WHOME has stood active for `ms` milliseconds: from 10 ms on the filtered level is active (R155, R156, R165,
R166). -/
def execWhomeActive (s : State) (ms : Nat := 10) : Host.Outcome State Fault Refusal :=
  .next (onceStood limitFilter ms s fun s => event s fun s =>
    if s.wip.whome then s else whomeReached (s.setWip { s.wip with whome := true }))

/-- WHOME has stood inactive for `ms` milliseconds: from 10 ms on the filtered level is inactive (R155, R164). -/
def execWhomeInactive (s : State) (ms : Nat := 10) : Host.Outcome State Fault Refusal :=
  .next (onceStood limitFilter ms s fun s => outsideReset s fun s =>
    s.setWip { s.wip with
      whome := false
      release := if s.wip.state = .strokeOut then none else s.wip.release })

/-- The 40 s of the stroke timer have run (R156, R164, R165). -/
def execStrokeTimerExpiry (s : State) : Host.Outcome State Fault Refusal :=
  .next (event s fun s =>
    if s.wip.stroke.isSome then
      match s.wip.state with
      | .homing => s.setWip s.wip.faulted
      | .strokeOut | .strokeBack => strokeFault s
      | _ => s
    else s)

/-- The 2 s of the release timer have run (R164). -/
def execReleaseTimerExpiry (s : State) : Host.Outcome State Fault Refusal :=
  .next (event s fun s =>
    if s.wip.state = .strokeOut && s.wip.release.isSome then strokeFault s else s)

end Sys2Proof.Machine
end

