-- ==== Sys2Proof/Machine/Dispatch.lean ====
section
/-! DEFINITION. The meaning of every command: one arm per constructor, in the order of spec/opcode_table.json. -/

namespace Sys2Proof.Machine

def exec (i : Instr) (s : State) : Host.Outcome State Fault Refusal :=
  match i with
  | .supplyBelowReset mv => Sys2Proof.Machine.execSupplyBelowReset mv s
  | .resetnLow us => Sys2Proof.Machine.execResetnLow s us
  | .resetRelease pins => Sys2Proof.Machine.execResetRelease pins s
  | .supplyLowChange mv => Sys2Proof.Machine.execSupplyLowChange mv s
  | .cfgBusError => Sys2Proof.Machine.execCfgBusError s
  | .imageReadComplete image => Sys2Proof.Machine.execImageReadComplete image s
  | .listenEnd => Sys2Proof.Machine.execListenEnd s
  | .accrualTimerExpiry => Sys2Proof.Machine.execAccrualTimerExpiry s
  | .statusTimerExpiry => Sys2Proof.Machine.execStatusTimerExpiry s
  | .flowTimerExpiry => Sys2Proof.Machine.execFlowTimerExpiry s
  | .uvtTimerExpiry => Sys2Proof.Machine.execUvtTimerExpiry s
  | .flowSourceLapse => Sys2Proof.Machine.execFlowSourceLapse s
  | .flowSourceDupClear => Sys2Proof.Machine.execFlowSourceDupClear s
  | .uvtSourceLapse => Sys2Proof.Machine.execUvtSourceLapse s
  | .uvtSourceDupClear => Sys2Proof.Machine.execUvtSourceDupClear s
  | .holdTimerExpiry => Sys2Proof.Machine.execHoldTimerExpiry s
  | .rosterEntryLost key => Sys2Proof.Machine.execRosterEntryLost key s
  | .rosterEntryRemove key => Sys2Proof.Machine.execRosterEntryRemove key s
  | .pendingBreakExpiry => Sys2Proof.Machine.execPendingBreakExpiry s
  | .rxFrameBroken run => Sys2Proof.Machine.execRxFrameBroken run s
  | .rxFrameRejected run => Sys2Proof.Machine.execRxFrameRejected run s
  | .formatErrorFrame src => Sys2Proof.Machine.execFormatErrorFrame src s
  | .joinReceived src b => Sys2Proof.Machine.execJoinReceived src b s
  | .statusReceived src b => Sys2Proof.Machine.execStatusReceived src b s
  | .flowReceived src b => Sys2Proof.Machine.execFlowReceived src b s
  | .uvtReceived src b => Sys2Proof.Machine.execUvtReceived src b s
  | .parcelReceived src b => Sys2Proof.Machine.execParcelReceived src b s
  | .dischargeReceived src b => Sys2Proof.Machine.execDischargeReceived src b s
  | .reportReceived src => Sys2Proof.Machine.execReportReceived src s
  | .leaveReceived src reason => Sys2Proof.Machine.execLeaveReceived src reason s
  | .wipeClaimReceived src => Sys2Proof.Machine.execWipeClaimReceived src s
  | .wipeActiveReceived src => Sys2Proof.Machine.execWipeActiveReceived src s
  | .wipeDoneReceived src outcome => Sys2Proof.Machine.execWipeDoneReceived src outcome s
  | .clearLamp src b => Sys2Proof.Machine.execClearLamp src b s
  | .clearBallast src b => Sys2Proof.Machine.execClearBallast src b s
  | .clearSensor src b => Sys2Proof.Machine.execClearSensor src b s
  | .clearWiper src b => Sys2Proof.Machine.execClearWiper src b s
  | .wipeNow src b => Sys2Proof.Machine.execWipeNow src b s
  | .restart src b => Sys2Proof.Machine.execRestart src b s
  | .query src b => Sys2Proof.Machine.execQuery src b s
  | .commandOtherCode src code b => Sys2Proof.Machine.execCommandOtherCode src code b s
  | .restartTimeout => Sys2Proof.Machine.execRestartTimeout s
  | .quietGapEnd => Sys2Proof.Machine.execQuietGapEnd s
  | .transmitStart elapsed => Sys2Proof.Machine.execTransmitStart elapsed s
  | .transmitComplete read => Sys2Proof.Machine.execTransmitComplete s read
  | .collision read => Sys2Proof.Machine.execCollision s read
  | .servedFlagClear => Sys2Proof.Machine.execServedFlagClear s
  | .pollCycleDue => Sys2Proof.Machine.execPollCycleDue s
  | .ballastGoodReply reply => Sys2Proof.Machine.execBallastGoodReply reply s
  | .ballastMiss reply => Sys2Proof.Machine.execBallastMiss reply s
  | .strikeAttemptExpiry lamp => Sys2Proof.Machine.execStrikeAttemptExpiry lamp s
  | .warmupEnd lamp => Sys2Proof.Machine.execWarmupEnd lamp s
  | .coolingEnd lamp => Sys2Proof.Machine.execCoolingEnd lamp s
  | .strikeSpacingExpiry => Sys2Proof.Machine.execStrikeSpacingExpiry s
  | .extinguishHoldoffExpiry => Sys2Proof.Machine.execExtinguishHoldoffExpiry s
  | .dayTimerExpiry => Sys2Proof.Machine.execDayTimerExpiry s
  | .runMinute lamp => Sys2Proof.Machine.execRunMinute lamp s
  | .lockoutOpen module ms => Sys2Proof.Machine.execLockoutOpen module s ms
  | .lockoutClose module ms => Sys2Proof.Machine.execLockoutClose module s ms
  | .scanStart => Sys2Proof.Machine.execScanStart s
  | .scanComplete raw fdir => Sys2Proof.Machine.execScanComplete raw fdir s
  | .wipeIntervalExpiry => Sys2Proof.Machine.execWipeIntervalExpiry s
  | .claimWindowExpiry => Sys2Proof.Machine.execClaimWindowExpiry s
  | .waitRecordExpiry => Sys2Proof.Machine.execWaitRecordExpiry s
  | .wendActive active ms => Sys2Proof.Machine.execWendActive active s ms
  | .whomeActive ms => Sys2Proof.Machine.execWhomeActive s ms
  | .whomeInactive ms => Sys2Proof.Machine.execWhomeInactive s ms
  | .strokeTimerExpiry => Sys2Proof.Machine.execStrokeTimerExpiry s
  | .releaseTimerExpiry => Sys2Proof.Machine.execReleaseTimerExpiry s
  | .idleMarkZeroCharacter c => Sys2Proof.Machine.execIdleMarkZeroCharacter c s

end Sys2Proof.Machine
end

