-- ==== Sys2Proof/Machine/Tick.lean ====
section
/-! DEFINITION. One millisecond on an empty queue: every running timer and age advances, and the expiries that
fall due join the queue, in the order of the opcode table's rows (log 2, log 3). -/

namespace Sys2Proof.Machine

def dueIf (c : Bool) (i : Instr) : List Instr := if c then [i] else []

/-- An age other than that of a timer reaches its limit with this millisecond. -/
def agesTo (age limit : Nat) : Bool := decide (age + 1 = limit)

/-- The life that remains runs out with this millisecond. -/
def runsOut (t : Option Nat) : Bool := decide (t = some 1)

def shrink (n : Nat) : Nat := n - 1

/-! ### What falls due -/

def dueStation (s : State) : List Instr :=
  dueIf (fallsDue s.ctl.listenTimer 2000) .listenEnd ++
    dueIf (fallsDue s.trk.accrual 200) .accrualTimerExpiry ++
    dueIf (fallsDue s.ctl.statusTimer 1000) .statusTimerExpiry ++
    dueIf (fallsDue s.pln.flowTimer 1000) .flowTimerExpiry ++
    dueIf (fallsDue s.pln.uvtTimer 5000) .uvtTimerExpiry ++
    dueIf (fallsDue (s.pln.flowSource.map (·.age)) 3000) .flowSourceLapse ++
    dueIf (fallsDue s.pln.flowDup 3000) .flowSourceDupClear ++
    dueIf (fallsDue (s.pln.uvtSource.map (·.age)) 15000) .uvtSourceLapse ++
    dueIf (fallsDue s.pln.uvtDup 3000) .uvtSourceDupClear ++
    dueIf (fallsDue s.pln.holdTimer 30000) .holdTimerExpiry

def dueRoster (s : State) : List Instr :=
  (s.ros.entries.filter fun e => !e.isSelf && !e.isLost && agesTo e.lastHeard 3000).map
      (fun e => .rosterEntryLost e.key) ++
    (s.ros.entries.filter fun e => !e.isSelf && e.isLost && fallsDue e.sinceLost 300000).map
      (fun e => .rosterEntryRemove e.key) ++
    dueIf (runsOut (s.trk.brk.map (·.life))) .pendingBreakExpiry ++
    dueIf (fallsDue (s.cmd.restart.map (·.elapsed)) 1000) .restartTimeout ++
    dueIf (fallsDue s.link.cycleTimer 250) .pollCycleDue

/-- The lamps in `st` whose state timer reaches its limit with this millisecond; before readback completes none
runs (R94). -/
def lampsDue (s : State) (st : LampState) (limit : Lamp → Nat) : List Lamp :=
  if linkRuns s then s.seq.lamps.filter fun l => decide (l.state = st) && agesTo l.timer (limit l) else []

def dueLamps (s : State) : List Instr :=
  (lampsDue s .striking fun l => 3000 * l.attempt).map (fun l => .strikeAttemptExpiry l.index) ++
    (lampsDue s .warming fun _ => 1000 * s.ldr.cfg.warmup).map (fun l => .warmupEnd l.index) ++
    (lampsDue s .cooling fun _ => 60000).map (fun l => .coolingEnd l.index) ++
    dueIf (fallsDue s.seq.spacing 5000) .strikeSpacingExpiry ++
    dueIf (fallsDue s.seq.holdoff 600000) .extinguishHoldoffExpiry ++
    dueIf (agesTo s.seq.day 86400000) .dayTimerExpiry ++
    (s.seq.lamps.filter fun l => l.burning && agesTo l.residue 60000).map (fun l => .runMinute l.index)

def dueWiper (s : State) : List Instr :=
  dueIf (fallsDue s.scn.timer 100) .scanStart ++
    dueIf (fallsDue s.wip.interval (60000 * s.ldr.cfg.wipeMin)) .wipeIntervalExpiry ++
    dueIf (fallsDue s.wip.window 400) .claimWindowExpiry ++
    dueIf (runsOut (s.wip.wait.map (·.remaining))) .waitRecordExpiry ++
    dueIf (fallsDue s.wip.stroke 40000) .strokeTimerExpiry ++
    dueIf (fallsDue s.wip.release 2000) .releaseTimerExpiry

/-- Everything that falls due with this millisecond. -/
def dueCommands (s : State) : List Instr := dueStation s ++ dueRoster s ++ dueLamps s ++ dueWiper s

/-! ### What advances -/

def tickEntry (e : RosterEntry) : RosterEntry :=
  if e.isSelf then e
  else { e with lastHeard := e.lastHeard + 1, sinceLost := tickTimer e.sinceLost, wiping := tickTimer e.wiping }

/-- A lamp one millisecond on; its state timer runs from the completion of readback (R94, R117). -/
def tickLamp (running : Bool) (l : Lamp) : Lamp :=
  { l with timer := if running then l.timer + 1 else l.timer
           residue := if l.burning then l.residue + 1 else l.residue }

def tickSource (x : Source) : Source := { x with age := x.age + 1 }

def tickPlanner (p : Planner) : Planner :=
  { p with
    flowSource := p.flowSource.map tickSource, flowDup := tickTimer p.flowDup, flowTimer := tickTimer p.flowTimer
    uvtSource := p.uvtSource.map tickSource, uvtDup := tickTimer p.uvtDup, uvtTimer := tickTimer p.uvtTimer
    holdTimer := tickTimer p.holdTimer }

def tickSequencer (running : Bool) (q : Sequencer) : Sequencer :=
  { q with lamps := q.lamps.map (tickLamp running), spacing := tickTimer q.spacing, holdoff := tickTimer q.holdoff
           day := q.day + 1 }

def tickWiper (w : Wiper) : Wiper :=
  { w with stroke := tickTimer w.stroke, release := tickTimer w.release, interval := tickTimer w.interval
           window := tickTimer w.window
           wait := w.wait.map fun x => { x with remaining := shrink x.remaining } }

/-- Every running timer and age one millisecond on. -/
def advance (s : State) : State :=
  { s with
    ctl := { s.ctl with listenTimer := tickTimer s.ctl.listenTimer, statusTimer := tickTimer s.ctl.statusTimer }
    trk := { s.trk with accrual := tickTimer s.trk.accrual
                        brk := s.trk.brk.map fun x => { x with life := shrink x.life } }
    ros := { s.ros with entries := s.ros.entries.map tickEntry }
    pln := tickPlanner s.pln
    seq := tickSequencer (linkRuns s) s.seq
    link := { s.link with cycleTimer := tickTimer s.link.cycleTimer }
    scn := { s.scn with timer := tickTimer s.scn.timer }
    wip := tickWiper s.wip
    cmd := { s.cmd with restart := s.cmd.restart.map fun r => { r with elapsed := r.elapsed + 1 } } }

/-- One millisecond. While the part is held in reset nothing runs (R194). -/
def tick (s : State) : State :=
  if s.hold.held then s else (advance s).setPending (s.pending ++ dueCommands s)

end Sys2Proof.Machine
end

