-- ==== Sys2Proof/Safety.lean ====
section
/-! DEFINITION. The words the statements share: a part that runs, what an event may change, and the invariants every
step keeps. -/

namespace Sys2Proof.Machine

/-! ### A part that runs -/

/-- Outside reset, and no restart is pending (R194, R199). -/
def Runs (s : State) : Prop := s.hold.held = false ∧ s.cmd.restart = none

/-- Accepted frames are handed on: the part runs and LOADING is over (R173). -/
def TakesFrames (s : State) : Prop := Runs s ∧ s.ctl.mode ≠ .loading

/-- The state once a frame without a serial from `a` has been read and learned, and the judgements re-made
(R53, R59, R173). -/
def learned (s : State) (a : Src) : State := learnSource (s.setBus s.bus.frameTaken) a

/-- The state in which a COMMAND that passes the screen is applied: learned, and no reply in progress (R196). -/
def readied (s : State) (a : Src) : State := setReply (learned s a) none

/-- A COMMAND from a plant station to this bank (R196). -/
def AimedHere (s : State) (a : Src) (b : CommandBody) : Prop :=
  a.chan = 15 ∧ 1 ≤ a.pos.toNat ∧ a.pos.toNat ≤ 4 ∧ b.chan.toNat = s.ldr.straps.channel ∧
    b.pos.toNat = s.ldr.straps.position

/-! ### What an event may change -/

/-- The fields of State. -/
inductive Block where
  | pending | serial | hold | ctl | ldr | trk | ros | pln | seq | link | scn | wip | bus | cmd
  deriving DecidableEq, Repr

/-- `t` holds in one block what `s` holds. -/
def Block.same (s t : State) : Block → Prop
  | .pending => t.pending = s.pending
  | .serial => t.serial = s.serial
  | .hold => t.hold = s.hold
  | .ctl => t.ctl = s.ctl
  | .ldr => t.ldr = s.ldr
  | .trk => t.trk = s.trk
  | .ros => t.ros = s.ros
  | .pln => t.pln = s.pln
  | .seq => t.seq = s.seq
  | .link => t.link = s.link
  | .scn => t.scn = s.scn
  | .wip => t.wip = s.wip
  | .bus => t.bus = s.bus
  | .cmd => t.cmd = s.cmd

/-- Every block but those listed is unchanged. -/
def OnlyChanges (bs : List Block) (s t : State) : Prop := ∀ b, b ∉ bs → b.same s t

/-! ### Resets and entries, as the statements say them -/

/-- The tracker as R7 tabulates it after a reset. -/
def AccountCleared (s : State) : Prop :=
  s.trk.queue = [] ∧ s.trk.counter = 0 ∧ s.trk.residue = 0 ∧ s.trk.creationMark = 0 ∧
    s.trk.nextExpected = none ∧ s.trk.watermark = none ∧ s.trk.brk = none ∧ s.trk.discharged = 0 ∧
    s.trk.underdosed = 0 ∧ s.trk.estimated = 0

/-- A restart is pending and waits for no frame but that of ticket `n` (R199). -/
def LastOfRestart (s : State) (n : Nat) : Prop :=
  ∃ r, s.cmd.restart = some r ∧ (r.report = none ∨ r.report = some n) ∧ (r.leave = none ∨ r.leave = some n)

/-- The characters the part sends for the frame in flight (R170). -/
def sentChars (x : InFlight) : List (BitVec 11) := lineChars (frameBytes x.frame.src x.frame.body)

/-- Of the characters read back for the frame in flight the last one alone differs from the one sent (R176). -/
def ReadBackDiffers (x : InFlight) (read : List (BitVec 11)) : Prop :=
  ∃ k u r, (sentChars x)[k]? = some u ∧ r ≠ u ∧ read = (sentChars x).take k ++ [r]

/-- What the supply monitor holds once the supply reads `mv` millivolts: it stands below a level when the supply is below its
value, or when it stood below and the supply is not above the value plus 50 mV (R194, R195). -/
def supplyAt (m : SupplyMonitor) (mv : Nat) : SupplyMonitor :=
  let below (level : Nat) (stood : Bool) : Bool := decide (mv < level ∨ stood = true ∧ mv ≤ level + 50)
  { low := below 3000 m.low, belowReset := below 2800 m.belowReset, belowRetention := below 1500 m.belowRetention }

/-- `s` with the supply read: the monitor's finding, and what of it is noted during a reset (R194). -/
def supplyNoted (s : State) (mv : Nat) : State :=
  let m := supplyAt s.ldr.supply mv
  (s.setLdr { s.ldr with supply := m }).setHold
    { s.hold with belowReset := s.hold.belowReset || m.belowReset
                  belowRetention := s.hold.belowRetention || m.belowRetention }

/-- The row of a voltage read at the supply (R194, R195). -/
def ReadsSupply (c : Instr) (mv : Nat) : Prop := c = .supplyBelowReset mv ∨ c = .supplyLowChange mv

/-- The command takes the part into reset: the supply, RESETN, a restart whose 1.0 s has run, a RESTART taken in
LISTEN, or the completion or the sixteenth collision of the last frame of a restart (R194, R199). -/
def BeginsReset (c : Instr) (s : State) : Prop :=
  (∃ mv, ReadsSupply c mv ∧ (supplyAt s.ldr.supply mv).belowReset = true) ∨ (∃ us, c = .resetnLow us ∧ 10 ≤ us) ∨
    (c = .restartTimeout ∧ s.cmd.restart.isSome = true) ∨
    (∃ a b, c = .restart a b ∧ TakesFrames s ∧ AimedHere s a b ∧ s.ctl.mode = .listen) ∨
    (∃ x, s.bus.inFlight = some x ∧ LastOfRestart s x.frame.ticket ∧
      (c = .transmitComplete (sentChars x) ∨
        ((∃ read, c = .collision read ∧ ReadBackDiffers x read) ∧ x.withdrawn = false ∧ 15 ≤ x.frame.coll)))

/-- The station learned from a wipe frame of `a` that sets the wiping indication to `w` (R53, R56). -/
def learnedWiping (s : State) (a : Src) (w : Option Nat) : State :=
  let s := s.setBus s.bus.frameTaken
  settle (s.setRos ((s.ros.learnPlain a).setWiping a w))

/-! ### Posting, as the statements say it -/

/-- The transmit queue takes a posted frame without giving one up: a waiting frame of the same renewable type
stands there, or fewer than 12 wait (R180, R181). -/
def HasPlaceFor (s : State) (b : Body) : Prop :=
  s.bus.queue.any (sameRenewable b) = true ∨ s.bus.queue.length < 12

/-- The bus once it has taken such a frame: in the waiting frame's place, or by class and age. -/
def withPosted (s : State) (b : Body) : Bus :=
  { s.bus with
    nextTicket := s.bus.nextTicket + 1
    queue := if s.bus.queue.any (sameRenewable b) then renew (ownFrame s b) s.bus.queue
      else enqueue (ownFrame s b) s.bus.queue }

/-- `t` is `s` with the answer to a COMMAND: one REPORT with the code and the outcome and no records, posted, and in
LISTEN held as the reply (R188, R196). -/
def Answered (code outcome : Byte) (s t : State) : Prop :=
  (s.ctl.mode = .listen → t = s.setCmd { s.cmd with reply := some (.heldAnswer code outcome) }) ∧
  (s.ctl.mode ≠ .listen → t = post s (.report
    { code := code, outcome := outcome, table := 0, start := 0, count := 0, records := [] }))

/-- `t` is what `s` becomes once the frame `f` has been given up and the bus otherwise stands as `b`: the counts its type
raises, a claim's wiper back in WANT, and the reply or the restart it belongs to told (R183). -/
def GivenUp (f : Frame) (b : Bus) (s t : State) : Prop :=
  OnlyChanges [.wip, .bus, .cmd] s t ∧
    t.bus = (match f.body with
      | .parcel _ => { b with lost := bump16 b.lost }
      | .discharge _ => { b with refusedDischarges := bump16 b.refusedDischarges }
      | _ => b) ∧
    t.wip = (if s.wip.state = .claiming ∧ s.wip.claim = some f.ticket then
      { s.wip with state := .want, claim := none } else s.wip) ∧
    t.cmd = { s.cmd with
      reply := match s.cmd.reply with
        | some (.running table next owed ticket) =>
          if ticket = f.ticket then none else some (.running table next owed ticket)
        | other => other
      restart := s.cmd.restart.map fun r => { r with
        report := if r.report = some f.ticket then none else r.report
        leave := if r.leave = some f.ticket then none else r.leave } }

/-- The bus `b` once the claim of a ticket is taken back: unsent where it waits, marked withdrawn where it is in flight
(R161, R166, R167, R184). -/
def claimTakenBack (b : Bus) (claim : Option Nat) : Bus :=
  match claim with
  | some n => { b with
      queue := b.queue.filter fun f => f.ticket != n
      inFlight := b.inFlight.map fun x => if x.frame.ticket = n then { x with withdrawn := true } else x }
  | none => b

/-! ### Entries and values of the rules -/

/-- The self entry that the roster creates when the bank leaves LOADING (R50, R51). -/
def selfOf (s : State) : RosterEntry :=
  { isSelf := true, chan := s.ldr.straps.channel, pos := s.ldr.straps.position, serial := some s.serial
    state := .active, mode := none, digest := none, p := none, flags := 0, wiping := none, lastHeard := 0
    sinceLost := none }

/-- FAILSAFE as entered from `s` with a cause (R51, R69, R118, R135, R193). -/
def FailsafeEntered (cause : LoadFailure) (s t : State) : Prop :=
  OnlyChanges [.ctl, .ldr, .trk, .ros, .seq, .link, .wip, .bus, .cmd] s t ∧
    t.ctl.mode = .failsafe ∧ t.ctl.statusTimer = some 0 ∧
    t.ldr = { s.ldr with failure := some cause, attempts := t.ldr.attempts } ∧
    t.trk = { s.trk with accrual := some 0 } ∧
    t.ros.entries = judgeConflicts (insertEntry (selfOf s) s.ros.entries) ∧
    t.link.phase = .readback [] ∧ t.link.count = 12 ∧ t.link.visit.map (·.ballast) = some 1 ∧
    t.seq = { s.seq with lamps := s.seq.lamps.map fun l => { l with fitted := decide (l.index ≤ 24), e := 0 } } ∧
    (s.bus.queue.length < 12 → t.bus = withPosted s (.leave 3))

/-- The start_seq of a JOIN: the watermark + 256, or 256 (R44). -/
def startOf (w : Option Seq) : Seq :=
  match w with
  | some w => w + 256
  | none => 256

/-- `t` ends with the judgements of a lamp event: its sequencer, its link and its F_req are those that a lamp event
leaves of `u`, which holds what the event brought (R89, R108, R128). -/
def EndsAsLampEvent (u t : State) : Prop :=
  t.seq = (lampEvent u).seq ∧ t.link = (lampEvent u).link ∧ t.pln.fReq = (lampEvent u).pln.fReq

/-- ISOLATED as entered from `s` for a reason (R67, R6, R29, R72, R89, R108): the account is emptied and counted lost,
waiting PARCELs are withdrawn and one in flight is marked withdrawn, a LEAVE is posted, a claim is taken back, and the
rest of the bus, the tail's counts, the watermark and the break are kept; F_req is F_max, and the lamps are judged
against it. -/
def IsolationEntered (reason : Byte) (s t : State) : Prop :=
  t.ctl.mode = .isolated ∧
    t.trk = { s.trk with queue := [], nextExpected := none, creating := false, firstResync := false } ∧
    t.ros.role = .noRole ∧ t.ros.isolation = bump16 s.ros.isolation ∧
    t.pln = { s.pln with plan := none, shortfall := false, fReq := fMax t } ∧
    EndsAsLampEvent (setMode s .isolated) t ∧
    (s.bus.queue.length < 12 →
      (let left : Bus := { s.bus with
         nextTicket := s.bus.nextTicket + 1
         lost := raise16 (raise16 s.bus.lost s.trk.queue.length) (s.bus.queue.filter Frame.isParcel).length
         queue := enqueue (ownFrame s (.leave reason)) (s.bus.queue.filter fun f => !f.isParcel)
         inFlight := s.bus.inFlight.map fun x =>
           if x.frame.isParcel then { x with withdrawn := true } else x }
       (s.wip.state ≠ .claiming → t.wip = s.wip ∧ t.bus = left) ∧
       (s.wip.state = .claiming → t.wip = { s.wip with state := .want, claim := none, window := none } ∧
         t.bus = claimTakenBack left s.wip.claim)))

/-- The flow the counting step takes (R11, R73). -/
def flowTaken (s : State) : Nat :=
  match s.pln.flow with
  | .normal q => q
  | .reverse => 0
  | .stale => s.ldr.cfg.qDesign

/-- `t` has taken the new entry `e` into the roster of `s`: in its place where fewer than 40 stand; with 40, for the
entry LOST the longest, of equals the first in roster order; and with none LOST not at all, which is counted (R51,
R54). -/
def TakesIn (e : RosterEntry) (s t : State) : Prop :=
  (s.ros.entries.length < 40 → t.ros.entries = judgeConflicts (insertEntry e s.ros.entries)) ∧
  (40 ≤ s.ros.entries.length → s.ros.entries.all (fun g => g.isSelf || !g.isLost) = true →
    t.ros.entries = judgeConflicts s.ros.entries ∧ t.ros.unlearned = bump16 s.ros.unlearned) ∧
  (40 ≤ s.ros.entries.length → ∀ before g after, s.ros.entries = before ++ g :: after → g.isSelf = false →
    g.state = .lost →
    (∀ x ∈ before, x.isSelf = false → x.state = .lost → x.sinceLost.getD 0 < g.sinceLost.getD 0) →
    (∀ x ∈ after, x.isSelf = false → x.state = .lost → x.sinceLost.getD 0 ≤ g.sinceLost.getD 0) →
    t.ros.entries = judgeConflicts (insertEntry e (s.ros.entries.filter fun x => !x.hasKey g.key)) ∧
      t.ros.unlearned = s.ros.unlearned)

/-- `t` holds the entries of `s` as a frame without a serial from `a` leaves them, row by row (R52, R53, R54). -/
def LearnedPlain (a : Src) (s t : State) : Prop :=
  let held := s.ros.entries.filter (RosterEntry.foreignAt a)
  let heard := held.filter fun e => !e.isLost
  (isBankAddress a = false → isPlantAddress a = false → t.ros.entries = judgeConflicts s.ros.entries) ∧
  (isBankAddress a = true ∨ isPlantAddress a = true →
    (held = [] → TakesIn (freshEntry a.chan.toNat a.pos.toNat none) s t) ∧
    (∀ e, heard = [e] → t.ros.entries = judgeConflicts (s.ros.entries.map fun g =>
      if g.hasKey e.key then { g with lastHeard := 0, sinceLost := none } else g)) ∧
    (2 ≤ heard.length → t.ros.entries = judgeConflicts s.ros.entries) ∧
    (held ≠ [] → heard = [] →
      ∃ e ∈ held, (∀ g ∈ held, e.sinceLost.getD 0 ≤ g.sinceLost.getD 0) ∧
        t.ros.entries = judgeConflicts (s.ros.entries.map fun g =>
          if g.hasKey e.key then { g with state := .heard, lastHeard := 0, sinceLost := none } else g)))

/-- What the planner holds of the flow: state and value, adopted source, age of the DUP indication (R73, R75). -/
def Planner.flowHeld (p : Planner) : FlowState × Option Source × Option Nat := (p.flow, p.flowSource, p.flowDup)

/-- What the planner holds of the transmittance, likewise (R78). -/
def Planner.uvtHeld (p : Planner) : UvtState × Option Source × Option Nat := (p.uvt, p.uvtSource, p.uvtDup)

/-- An offer of `v` from `p` takes what is held from `before` to `after`: adopted from the source or from below it, not
from above, and from elsewhere raising the DUP indication (R75; by slot R78). -/
def OfferJudged {α : Type} (p : Nat) (v : α) (before after : α × Option Source × Option Nat) : Prop :=
  (before.2.1 = none → after = (v, some ⟨p, 0⟩, before.2.2)) ∧
  (∀ x, before.2.1 = some x →
    (p ≤ x.id → after.1 = v ∧ after.2.1 = some ⟨p, 0⟩) ∧
    (x.id < p → after.1 = before.1 ∧ after.2.1 = some x) ∧
    after.2.2 = if p = x.id then before.2.2 else some 0)

/-- The hold condition and the hold timer after the judgement of a flow `q` (R90, R91). -/
def holdJudged (qMin : Nat) (p : Planner) (q : Nat) : Bool × Option Nat :=
  if p.holdCond then (if 12 * qMin ≤ 10 * q then (false, none) else (true, p.holdTimer))
  else if q < qMin then (false, some (p.holdTimer.getD 0)) else (false, none)

/-- `t` holds the hold condition and the hold timer as its own flow makes them of those of `s` (R90, R91). -/
def HoldFollows (s t : State) : Prop :=
  (t.pln.holdCond, t.pln.holdTimer) = holdJudged t.ldr.cfg.qMin s.pln (flowTaken t)

/-- `t` holds the hold condition and the hold timer of `s`. -/
def HoldStays (s t : State) : Prop := t.pln.holdCond = s.pln.holdCond ∧ t.pln.holdTimer = s.pln.holdTimer

/-- The mode of `t` follows the hold condition of `t` from that of `s`: in DOSING and HOLD a condition that no longer fits
takes the bank to the other of the two, or to ISOLATED where a reason stands once the roster has been judged in that
mode; in every other mode it stays (R66, R67, R91). -/
def ModeFollows (s t : State) : Prop :=
  let due := if t.pln.holdCond then BankMode.hold else .dosing
  (s.ctl.mode = .dosing ∨ s.ctl.mode = .hold →
    (s.ctl.mode = due → t.ctl.mode = due) ∧
    (s.ctl.mode ≠ due → t.ctl.mode = if reasonStands (judgeRoster (setMode s due)) then .isolated else due)) ∧
  (s.ctl.mode ≠ .dosing → s.ctl.mode ≠ .hold → t.ctl.mode = s.ctl.mode)

/-- The flags of the conditions standing at an expiry (R18). -/
def standingFlags (s : State) : Byte :=
  (if anyEstimated s then 1#8 else 0) ||| (if s.ctl.mode = .hold then 8#8 else 0) |||
    (if s.pln.shortfall then 16#8 else 0) |||
    (if s.wip.state = .strokeOut ∨ s.wip.state = .strokeBack then 32#8 else 0)

/-- The range length of R1. -/
def rangeOf (r : ParcelRec) : Nat := (r.lastSeq - r.firstSeq).toNat + 1

/-- The setpoint of R88 for a plan `p`, from the queue `q` and the counter as the exit step left them. -/
def plannedRate (s : State) (p : Plan) (t : Tracker) : Nat :=
  let Q := flowTaken s
  let own := roundHalfUp (s.ldr.cfg.dT * (100 + s.ldr.cfg.margin) * capacityP s) (100 * totalP s)
  let rates := t.queue.map fun r =>
    let rest := (r.exitMark - t.counter).toNat
    if r.dose < p.cumulative ∧ s.ldr.cfg.z ≤ 100 * rest then ceilDiv ((p.cumulative - r.dose) * Q) (100 * rest) else 0
  max (fMin s) (min (fMax s) (rates.foldl max (ceilDiv (own * Q) (100 * s.ldr.cfg.z))))

/-- Readback completes with its findings: the table is built at the level found, the link runs, the first cycle
begins, and the judgements and the next visit follow (R108, R117, R128, R134). -/
def tableBuilt (s : State) (fs : List (Option BallastReply)) : State :=
  let level := readbackLevel s fs
  lampEvent ((s.setSeq { s.seq with level := level, lamps := s.seq.lamps.map (builtLamp s fs level) }).setLink
    { s.link with phase := .running, cursor := 1, cycleTimer := some 0, cycleRunning := true, cycleDue := false })

/-- The 24 bits of a reply of the ballast at an address (R124, R125; log 25). -/
def replyBits (addr : Nat) (r : BallastReply) : BitVec 24 :=
  let code (n : Nat) : BitVec 4 := BitVec.ofNat 4 n
  let st : LampStatus → Nat := fun
    | .off => 0 | .striking => 1 | .lit => 2 | .openCircuit => 3 | .shortCircuit => 4
  let cls := match r.cls with | .normal => 0 | .warm => 1 | .hot => 2
  code (st r.a.status) ++ code r.a.level ++ code (st r.b.status) ++ code r.b.level ++ code cls ++
    code (addr + st r.a.status + r.a.level + st r.b.status + r.b.level + cls)

/-- A lamp reported lit carries a level of 50–100 %, one reported otherwise none (R124, R125). -/
def reportSound (r : LampReport) : Prop :=
  (r.status = .lit → 5 ≤ r.level ∧ r.level ≤ 10) ∧ (r.status ≠ .lit → r.level = 0)

/-- A frame the roster alone takes, without a serial (R53, R173, R186). -/
def PlainFrame (c : Instr) (a : Src) : Prop :=
  (∃ d, c = .dischargeReceived a d) ∨ c = .reportReceived a ∨ c = .formatErrorFrame a

/-- The offer state of a received FLOW: 0 NORMAL, 1 REVERSE, any other code FAULT (R75). -/
def offeredFlow (b : ReadingBody) : FlowState :=
  if b.state = 0 then .normal b.value.toNat else if b.state = 1 then .reverse else .stale

/-- The offer state of a received UVT: 0 NORMAL up to 100.0 %, FAULT otherwise (R78). -/
def offeredUvt (b : ReadingBody) : UvtState :=
  if b.state = 0 ∧ b.value.toNat ≤ 1000 then .normal b.value.toNat else .stale

/-- The COMMAND frame's row for a code, a source and a body. -/
def IsCommand (c : Instr) (a : Src) (b : CommandBody) : Prop :=
  c = .clearLamp a b ∨ c = .clearBallast a b ∨ c = .clearSensor a b ∨ c = .clearWiper a b ∨ c = .wipeNow a b ∨
    c = .restart a b ∨ c = .query a b ∨ ∃ code, c = .commandOtherCode a code b

/-- Every row of a frame that is accepted, from a source (R172, R173). -/
def AcceptedFrame (c : Instr) (a : Src) : Prop :=
  (∃ b, c = .joinReceived a b) ∨ (∃ b, c = .statusReceived a b) ∨ (∃ b, c = .flowReceived a b) ∨
    (∃ b, c = .uvtReceived a b) ∨ (∃ b, c = .parcelReceived a b) ∨ (∃ b, c = .dischargeReceived a b) ∨
    c = .reportReceived a ∨ (∃ r, c = .leaveReceived a r) ∨ c = .wipeClaimReceived a ∨ c = .wipeActiveReceived a ∨
    (∃ o, c = .wipeDoneReceived a o) ∨ (∃ b, IsCommand c a b)

/-- The five commands FAILSAFE refuses, with their codes (R187, R196). -/
def IsOwnersCommand (c : Instr) (code : Byte) (a : Src) (b : CommandBody) : Prop :=
  (c = .clearLamp a b ∧ code = 1) ∨ (c = .clearBallast a b ∧ code = 2) ∨ (c = .clearSensor a b ∧ code = 3) ∨
    (c = .clearWiper a b ∧ code = 4) ∨ (c = .wipeNow a b ∧ code = 5)

/-! ### Invariants -/

/-- Every record begins one after the end of the record before it (R3). -/
def linked : List ParcelRec → Bool
  | a :: c :: rest => decide (c.firstSeq = a.lastSeq + 1) && linked (c :: rest)
  | _ => true

/-- A record's marks lie Z apart and its dose is in range (R1). -/
def ParcelRec.sound (z : Nat) (r : ParcelRec) : Bool :=
  decide (r.exitMark = r.entryMark + BitVec.ofNat 32 z) && decide (r.dose ≤ 999999)

/-- A tracker with at most 16 sound, adjacent records, and none while next_expected is absent (R1, R3, R36). -/
def Tracker.sound (z : Nat) (t : Tracker) : Prop :=
  t.queue.length ≤ 16 ∧ linked t.queue = true ∧ t.queue.all (ParcelRec.sound z) = true ∧
    (t.nextExpected = none → t.queue = [])

/-- The tracker is sound, and outside DOSING and HOLD it holds no record and expects none, and the bank has no role
(R5, R36, R63). -/
def ParcelsInv (s : State) : Prop :=
  s.trk.sound s.ldr.cfg.z ∧
    (s.ctl.mode.doses = false → s.trk.queue = [] ∧ s.trk.nextExpected = none ∧ s.ros.role = .noRole)

/-- No frame waits before a frame of a more urgent class (R178). -/
def ordered : List Frame → Bool
  | f :: g :: rest => decide (f.cls ≤ g.cls) && ordered (g :: rest)
  | _ => true

/-- The number of waiting frames of a type. -/
def waitingOf (ty : BitVec 4) (q : List Frame) : Nat := q.countP fun f => f.body.typeCode == ty

/-- A transmit queue of at most 12 frames in class order, of which at most one is STATUS (type 2), one FLOW (3)
and one UVT (4) (R178). -/
def queueSound (q : List Frame) : Prop :=
  q.length ≤ 12 ∧ ordered q = true ∧ waitingOf 2 q ≤ 1 ∧ waitingOf 3 q ≤ 1 ∧ waitingOf 4 q ≤ 1

def TransmitInv (s : State) : Prop := queueSound s.bus.queue

/-- A lamp in FAILED or LOCKED asks for OFF (R95). -/
def Lamp.slotSound (l : Lamp) : Bool :=
  !(decide (l.state = .failed) || decide (l.state = .locked)) || decide (l.slot = ⟨.off, 0⟩)

/-- The lamp table holds the lamps 1 to 24 in order, and each slot half is sound (R93, R95). -/
def LampsInv (s : State) : Prop :=
  s.seq.lamps.map (·.index) = (List.range 24).map (· + 1) ∧ s.seq.lamps.all Lamp.slotSound = true

/-- The station stands settled: outside LOADING the roster's judgements are those of the entries held; in DOSING and
HOLD no reason stands and the role is that of the neighbours; in ISOLATED a reason stands. A part held in reset is in
LOADING (R59–R64, R67, R68). -/
def StationInv (s : State) : Prop :=
  (s.hold.held = true → s.ctl.mode = .loading) ∧
  (s.ctl.mode ≠ .loading → judgeRoster s = s) ∧
  (s.ctl.mode = .dosing ∨ s.ctl.mode = .hold →
    s.ctl.positionReason = false ∧ s.ctl.digestReason = false ∧ s.ros.role = roleOf s.ros.up s.ros.down) ∧
  (s.ctl.mode = .isolated → s.ctl.positionReason = true ∨ s.ctl.digestReason = true)

/-- A cause of reset that stands holds the part, and is noted; what is noted names a cause; a part that is not held has
nothing noted; a supply below the retention level is below the reset level (R194). -/
def ResetInv (s : State) : Prop :=
  (s.hold.held = false → s.hold = noHold ∧ s.ldr.supply.belowReset = false) ∧
  (s.ldr.supply.belowRetention = true → s.ldr.supply.belowReset = true) ∧
  (s.hold.held = true →
    (s.ldr.supply.belowRetention = true → s.hold.belowRetention = true) ∧
    (s.ldr.supply.belowReset = true → s.hold.belowReset = true) ∧
    (s.hold.resetnLow = true → s.hold.resetn = true) ∧ (s.hold.restarting = true → s.hold.restart = true) ∧
    (s.hold.belowReset = true ∨ s.hold.resetn = true ∨ s.hold.restart = true))

/-- The rank of a serial within its slot: absent first, then rising (R51). -/
def serialRank (a : Option Serial) : Nat :=
  match a with
  | none => 0
  | some x => x.toNat + 1

/-- One entry stands before another in roster order: by slot, then by serial (R51). -/
def RosterEntry.before (e g : RosterEntry) : Prop :=
  slotOf e.chan e.pos < slotOf g.chan g.pos ∨
    (slotOf e.chan e.pos = slotOf g.chan g.pos ∧ serialRank e.serial < serialRank g.serial)

/-- An entry's address is one of the address space, and a bank's where it holds a serial (R50, R52). -/
def RosterEntry.placed (e : RosterEntry) : Prop :=
  (e.chan ≤ 3 ∧ 1 ≤ e.pos ∧ e.pos ≤ 8) ∨ (e.serial = none ∧ e.chan = 15 ∧ 1 ≤ e.pos ∧ e.pos ≤ 4)

/-- A roster in order: at most 40 entries, each of the address space, in strict roster order, no two with one key, and
of its own entries exactly the keys `own` (R50, R51). -/
def rosterSound (own : List EntryKey) (es : List RosterEntry) : Prop :=
  es.length ≤ 40 ∧ (∀ e ∈ es, e.placed) ∧ es.Pairwise RosterEntry.before ∧ (es.map (·.key)).Nodup ∧
    (es.filter (·.isSelf)).map (·.key) = own

/-- The roster is in order; it holds nothing in LOADING, and from then on the one self entry, under the bank's own
address and serial; the straps stand in their range; a part held in reset is in LOADING (R50, R51, R64, R191). -/
def RosterInv (s : State) : Prop :=
  (s.ldr.straps.channel ≤ 3 ∧ 1 ≤ s.ldr.straps.position ∧ s.ldr.straps.position ≤ 8) ∧
  (s.hold.held = true → s.ctl.mode = .loading) ∧
  (s.ctl.mode = .loading → s.ros.entries = []) ∧
  (s.ctl.mode ≠ .loading →
    rosterSound [⟨s.ldr.straps.channel, s.ldr.straps.position, some s.serial⟩] s.ros.entries)

end Sys2Proof.Machine
end

