-- ==== Sys2Proof/Certificates/Slice0/Obligations.lean ====
section
/-! DEFINITION. The statements for the provers, chapter by chapter. -/

open Sys2Proof Sys2Proof.Machine

/-! ### Steps -/

/-- A step takes the command at the front of the queue, whole, with the queue's rest (log 1, log 2). The queue is
the model's. -/
def Obligations.StepRunsTheFrontCommand : Prop :=
  ∀ (c : Instr) (rest : List Instr) (s : State), step (s.setPending (c :: rest)) = exec c (s.setPending rest)

/-- The model's choice (log 2): on an empty queue a step is one millisecond: every running timer and every age moves
by one, nothing else of the part does, and each expiry is queued exactly when its timer or age reaches the limit
its rule gives; the state timers of the lamps run from the completion of readback (R94). That count, residue and
attempt of a lamp run as they do is the model's (log 28). -/
def Obligations.EmptyQueueStepIsOneMillisecond : Prop :=
  ∀ s : State, s.pending = [] →
    (s.hold.held = true → step s = .next s) ∧
    (s.hold.held = false → ∃ t, step s = .next t ∧
      OnlyChanges [.pending, .ctl, .trk, .ros, .pln, .seq, .link, .scn, .wip, .cmd] s t ∧
      (let on (x : Option Nat) : Option Nat := x.map (· + 1)
       let aged (x : Option Source) : Option Source := x.map fun y => { y with age := y.age + 1 }
       t.ctl = { s.ctl with listenTimer := on s.ctl.listenTimer, statusTimer := on s.ctl.statusTimer } ∧
       t.trk = { s.trk with accrual := on s.trk.accrual
                            brk := s.trk.brk.map fun x => { x with life := x.life - 1 } } ∧
       t.ros = { s.ros with entries := s.ros.entries.map fun e => if e.isSelf then e else
         { e with lastHeard := e.lastHeard + 1, sinceLost := on e.sinceLost, wiping := on e.wiping } } ∧
       t.pln = { s.pln with
         flowSource := aged s.pln.flowSource, flowDup := on s.pln.flowDup, flowTimer := on s.pln.flowTimer
         uvtSource := aged s.pln.uvtSource, uvtDup := on s.pln.uvtDup, uvtTimer := on s.pln.uvtTimer
         holdTimer := on s.pln.holdTimer } ∧
       t.seq = { s.seq with
         spacing := on s.seq.spacing, holdoff := on s.seq.holdoff, day := s.seq.day + 1
         lamps := s.seq.lamps.map fun l => { l with
           timer := if s.link.phase = .running then l.timer + 1 else l.timer
           residue := if l.state = .lit ∨ l.state = .warming then l.residue + 1 else l.residue } } ∧
       t.link = { s.link with cycleTimer := on s.link.cycleTimer } ∧
       t.scn = { s.scn with timer := on s.scn.timer } ∧
       t.wip = { s.wip with
         stroke := on s.wip.stroke, release := on s.wip.release, interval := on s.wip.interval
         window := on s.wip.window, wait := s.wip.wait.map fun x => { x with remaining := x.remaining - 1 } } ∧
       t.cmd = { s.cmd with restart := s.cmd.restart.map fun r => { r with elapsed := r.elapsed + 1 } }) ∧
      (.listenEnd ∈ t.pending ↔ s.ctl.listenTimer = some 1999) ∧
      (.accrualTimerExpiry ∈ t.pending ↔ s.trk.accrual = some 199) ∧
      (.statusTimerExpiry ∈ t.pending ↔ s.ctl.statusTimer = some 999) ∧
      (.flowTimerExpiry ∈ t.pending ↔ s.pln.flowTimer = some 999) ∧
      (.uvtTimerExpiry ∈ t.pending ↔ s.pln.uvtTimer = some 4999) ∧
      (.flowSourceLapse ∈ t.pending ↔ s.pln.flowSource.map (·.age) = some 2999) ∧
      (.flowSourceDupClear ∈ t.pending ↔ s.pln.flowDup = some 2999) ∧
      (.uvtSourceLapse ∈ t.pending ↔ s.pln.uvtSource.map (·.age) = some 14999) ∧
      (.uvtSourceDupClear ∈ t.pending ↔ s.pln.uvtDup = some 2999) ∧
      (.holdTimerExpiry ∈ t.pending ↔ s.pln.holdTimer = some 29999) ∧
      (∀ k, .rosterEntryLost k ∈ t.pending ↔
        ∃ e ∈ s.ros.entries, e.isSelf = false ∧ e.state ≠ .lost ∧ e.lastHeard = 2999 ∧ e.key = k) ∧
      (∀ k, .rosterEntryRemove k ∈ t.pending ↔
        ∃ e ∈ s.ros.entries, e.isSelf = false ∧ e.state = .lost ∧ e.sinceLost = some 299999 ∧ e.key = k) ∧
      (.pendingBreakExpiry ∈ t.pending ↔ s.trk.brk.map (·.life) = some 1) ∧
      (.restartTimeout ∈ t.pending ↔ s.cmd.restart.map (·.elapsed) = some 999) ∧
      (.pollCycleDue ∈ t.pending ↔ s.link.cycleTimer = some 249) ∧
      (∀ i, .strikeAttemptExpiry i ∈ t.pending ↔
        s.link.phase = .running ∧
          ∃ l ∈ s.seq.lamps, l.index = i ∧ l.state = .striking ∧ l.timer + 1 = 3000 * l.attempt) ∧
      (∀ i, .warmupEnd i ∈ t.pending ↔
        s.link.phase = .running ∧
          ∃ l ∈ s.seq.lamps, l.index = i ∧ l.state = .warming ∧ l.timer + 1 = 1000 * s.ldr.cfg.warmup) ∧
      (∀ i, .coolingEnd i ∈ t.pending ↔ s.link.phase = .running ∧
        ∃ l ∈ s.seq.lamps, l.index = i ∧ l.state = .cooling ∧ l.timer = 59999) ∧
      (.strikeSpacingExpiry ∈ t.pending ↔ s.seq.spacing = some 4999) ∧
      (.extinguishHoldoffExpiry ∈ t.pending ↔ s.seq.holdoff = some 599999) ∧
      (.dayTimerExpiry ∈ t.pending ↔ s.seq.day = 86399999) ∧
      (∀ i, .runMinute i ∈ t.pending ↔ ∃ l ∈ s.seq.lamps, l.index = i ∧ (l.state = .lit ∨ l.state = .warming) ∧
        l.residue = 59999) ∧
      (.scanStart ∈ t.pending ↔ s.scn.timer = some 99) ∧
      (.wipeIntervalExpiry ∈ t.pending ↔ ∃ v, s.wip.interval = some v ∧ v + 1 = 60000 * s.ldr.cfg.wipeMin) ∧
      (.claimWindowExpiry ∈ t.pending ↔ s.wip.window = some 399) ∧
      (.waitRecordExpiry ∈ t.pending ↔ s.wip.wait.map (·.remaining) = some 1) ∧
      (.strokeTimerExpiry ∈ t.pending ↔ s.wip.stroke = some 39999) ∧
      (.releaseTimerExpiry ∈ t.pending ↔ s.wip.release = some 1999))

/-- Every command has a next state, and none touches the waiting commands or the serial number. That no command
stops is the model's reading of a manual that gives each an effect (log 4). -/
def Obligations.EveryCommandAnswersNext : Prop :=
  ∀ (c : Instr) (s : State), ∃ t, exec c s = .next t ∧ t.pending = s.pending ∧ t.serial = s.serial

/-! ### Reset (R7, R64, R191, R194, R195) -/

/-- While the part is held in reset the supply monitor goes on judging the supply, what it finds and RESETN add to what
happened during the reset, and every other command but the release finds nothing that takes it (log 32); a RESETN
pulse shorter than 10 µs is ignored, in reset and outside it. R194, R191, R94, R105, R155: a release while the
supply stands below the reset level, with its 50 mV, or RESETN stands low leaves the part held; at the last
cause's end the cause is the first row that applies, the straps, lockouts and limits are taken as they stand,
nothing is owed, and a cold reset clears the wear. The exact values of a level (log 8), that wear is cleared at
the release (log 26), that nothing is taken in reset and that a RESTART reset ends with the release (log 32), and
that a release while no reset stands changes nothing (log 4) are the model's readings. -/
def Obligations.ResetIsHeldAndReleased : Prop :=
  (∀ s : State, s.hold.held = true →
     (∀ c mv, ReadsSupply c mv → exec c s = .next (supplyNoted s mv)) ∧
     (∀ us, 10 ≤ us → exec (.resetnLow us) s = .next (s.setHold { s.hold with resetn := true, resetnLow := true })) ∧
     (∀ c, (∀ mv, ¬ ReadsSupply c mv) → (∀ us, c ≠ .resetnLow us) → (∀ p, c ≠ .resetRelease p) →
       exec c s = .next s)) ∧
  (∀ (us : Nat) (s : State), us < 10 → exec (.resetnLow us) s = .next s) ∧
  (∀ (p : ResetPins) (s : State),
     (s.hold.held = false → exec (.resetRelease p) s = .next s) ∧
     (s.hold.held = true →
       (supplyAt s.ldr.supply p.supply).belowReset = true ∨ (s.hold.resetnLow = true ∧ p.resetn = false) →
       (let u := supplyNoted s p.supply
        exec (.resetRelease p) s = .next (u.setHold
          { u.hold with resetnLow := s.hold.resetnLow && !p.resetn, restarting := false }))) ∧
     (s.hold.held = true → (supplyAt s.ldr.supply p.supply).belowReset = false →
       s.hold.resetnLow = false ∨ p.resetn = true → ∃ t, exec (.resetRelease p) s = .next t ∧
       OnlyChanges [.hold, .ctl, .ldr, .seq, .wip] s t ∧ t.hold = noHold ∧
       t.ctl = { s.ctl with resetCause := t.ctl.resetCause } ∧
       (s.hold.belowRetention = true → t.ctl.resetCause = .powerOn) ∧
       (s.hold.belowRetention = false → s.hold.belowReset = true → t.ctl.resetCause = .supply) ∧
       (s.hold.belowRetention = false → s.hold.belowReset = false → s.hold.resetn = true →
         t.ctl.resetCause = .pin) ∧
       (s.hold.belowRetention = false → s.hold.belowReset = false → s.hold.resetn = false →
         s.hold.restart = true → t.ctl.resetCause = .restart) ∧
       t.ldr = { s.ldr with
         straps := { channel := p.ch.toNat, position := p.pos.toNat + 1, flowSrc := p.flowSrc, uvtSrc := p.uvtSrc,
                     wipeFit := p.wipeFit }
         supply := supplyAt s.ldr.supply p.supply } ∧
       t.seq = { s.seq with
         lockouts := p.lockouts
         lamps := if s.hold.belowRetention then s.seq.lamps.map fun l => Lamp.fresh l.index else s.seq.lamps } ∧
       (let w := { s.wip with whome := p.whome, wend := p.wend, state := .absent, owed := false }
        (p.wipeFit = false → t.wip = w) ∧
        (p.wipeFit = true → p.whome = true → p.wend = false → t.wip = { w with state := .parked, stroke := none }) ∧
        (p.wipeFit = true → p.whome = true → p.wend = true → t.wip =
          { w with state := .fault, stroke := none, release := none, claim := none, window := none
                   faults := bump16 s.wip.faults }) ∧
        (p.wipeFit = true → p.whome = false → t.wip = { w with state := .homing, stroke := some 0 }))))

/-- R7: after every reset, by whatever command the part has gone into it, the tracker holds the values of its table;
none of its state survives, and no count of the lost records is kept. The release changes none of it. The
supply, RESETN, the three ends of a RESTART and a RESTART taken in LISTEN are such commands. -/
def Obligations.ResetClearsTheDoseAccount : Prop :=
  (∀ (c : Instr) (s t : State), s.hold.held = false → exec c s = .next t → t.hold.held = true →
    AccountCleared t ∧ t.trk = State.reset.trk ∧ t.bus.queue = [] ∧ t.bus.lost = 0 ∧
    ∀ p, ∃ u, exec (.resetRelease p) t = .next u ∧ AccountCleared u ∧ u.trk = State.reset.trk) ∧
  (∀ (c : Instr) (s : State), s.hold.held = false → BeginsReset c s →
    ∃ t, exec c s = .next t ∧ t.hold.held = true)

/-- R64: a reset, by whatever command the part has gone into it, puts the bank into LOADING, ends every frame,
claim, visit and stroke, and gives every block its value after reset; run minutes and total strikes alone are
kept (R94), and the supply monitor goes on judging the supply. R194: of a part that ran, what stands and is noted
of the reset is its own cause alone: the supply, and whether it stands below the retention level, RESETN, or the
restart. Where the manual gives a block no value after reset, State.reset's is the model's choice (log 5). -/
def Obligations.ResetReturnsEveryBlock : Prop :=
  (let supplyOf (c : Instr) (m : SupplyMonitor) : SupplyMonitor :=
    match c with
    | .supplyBelowReset mv | .supplyLowChange mv => supplyAt m mv
    | _ => m
   let returned (c : Instr) (s t : State) : Prop :=
    t.pending = s.pending ∧ t.serial = s.serial ∧
    t.ctl = { State.reset.ctl with resetCause := s.ctl.resetCause } ∧
    t.ldr = { State.reset.ldr with straps := s.ldr.straps, supply := supplyOf c s.ldr.supply } ∧
    t.trk = State.reset.trk ∧
    t.ros = State.reset.ros ∧ t.pln = State.reset.pln ∧ t.link = State.reset.link ∧ t.scn = State.reset.scn ∧
    t.wip = State.reset.wip ∧ t.bus = State.reset.bus ∧ t.cmd = State.reset.cmd ∧
    t.seq = { State.reset.seq with lamps := t.seq.lamps }
   let kept (l : Lamp) : Lamp := { Lamp.fresh l.index with runMinutes := l.runMinutes, strikes := l.strikes }
   let noted (c : Instr) (s : State) : ResetHold :=
     match c with
     | .supplyBelowReset mv | .supplyLowChange mv =>
       { held := true, resetnLow := false, restarting := false, belowReset := true
         belowRetention := (supplyAt s.ldr.supply mv).belowRetention, resetn := false, restart := false }
     | .resetnLow _ =>
       { held := true, resetnLow := true, restarting := false, belowReset := false, belowRetention := false
         resetn := true, restart := false }
     | _ =>
       { held := true, resetnLow := false, restarting := true, belowReset := false, belowRetention := false
         resetn := false, restart := true }
   (∀ (c : Instr) (s t : State), s.hold.held = false → exec c s = .next t → t.hold.held = true →
     returned c s t ∧ t.hold = noted c s ∧ ∀ l ∈ t.seq.lamps, l = kept l) ∧
   (∀ (c : Instr) (s : State), s.hold.held = false → BeginsReset c s →
     ∃ t, exec c s = .next t ∧ t.hold = noted c s ∧ returned c s t ∧ t.seq.lamps = s.seq.lamps.map kept))

/-- R195, R159: SUPPLY_LOW stands once the supply is below 3.00 V and clears once it is above 3.05 V, in every mode, and
while it stands no wipe is admitted; the supply at or above the reset level changes nothing else (one below it is a
reset, as ResetReturnsEveryBlock says). R75, R78, R42, R175: the four indications that clear by time clear, and
nothing else changes. That the served flag stays while a frame is in flight is read from R175's quiet bus; that a
level is not yet passed at its value itself is log 8's. -/
def Obligations.SupplyLowAndIndicationsMove : Prop :=
  (∀ (c : Instr) (mv : Nat) (s : State), s.hold.held = false → ReadsSupply c mv →
     (supplyAt s.ldr.supply mv).belowReset = false →
     ∃ t, exec c s = .next t ∧ t = s.setLdr { s.ldr with supply := supplyAt s.ldr.supply mv } ∧
       (t.ldr.supply.low = true ↔ mv < 3000 ∨ s.ldr.supply.low = true ∧ mv ≤ 3050) ∧
       (t.ldr.supply.low = true → admitted t = false)) ∧
  (∀ s : State, s.hold.held = false →
     exec .flowSourceDupClear s = .next (s.setPln { s.pln with flowDup := none }) ∧
     exec .uvtSourceDupClear s = .next (s.setPln { s.pln with uvtDup := none }) ∧
     exec .pendingBreakExpiry s = .next (s.setTrk { s.trk with brk := none }) ∧
     (s.bus.inFlight = none → exec .servedFlagClear s = .next (s.setBus { s.bus with served := false })) ∧
     (∀ x, s.bus.inFlight = some x → exec .servedFlagClear s = .next s))

/-! ### Loading and listening (R44, R65, R69, R70, R192, R193) -/

/-- R192, R193: what the loader sends on its two lines in LOADING, outside it and in reset; two bus errors begin the
next attempt behind a release and a stop; the third in a row, an image that fails form or CRC, and one out of
range fail the load with their causes. What form, CRC and ranges are is said by LoadedImageEntersListen. That an
image of another length fails in form (log 31), and that the release and the stop follow the third error too
(log 45), are the model's readings. -/
def Obligations.FailedLoadEntersFailsafe : Prop :=
  (let attempt : List LoaderSignal :=
     [.start, .address 0x50 false, .byte 0, .start, .address 0x50 true] ++ List.replicate 71 (.receive true) ++
       [.receive false, .stop]
   (∀ s : State, s.hold.held = true → loaderSends s = []) ∧
   (∀ s : State, s.ctl.mode ≠ .loading → s.ctl.mode ≠ .failsafe → loaderSends s = []) ∧
   (∀ s : State, Runs s → s.ctl.mode = .loading →
     (s.ldr.attempts = 0 → loaderSends s = attempt) ∧
     (s.ldr.attempts < 2 → ∃ t, exec .cfgBusError s = .next t ∧
       t = s.setLdr { s.ldr with attempts := s.ldr.attempts + 1 } ∧
       loaderSends t = [.release, .stop] ++ attempt) ∧
     (s.ldr.attempts = 2 → ∃ t, exec .cfgBusError s = .next t ∧ FailsafeEntered .imageAbsent s t ∧
       t.ldr.attempts = 3 ∧ loaderSends t = [.release, .stop]) ∧
     (∀ img, imageFormed img = false →
       ∃ t, exec (.imageReadComplete img) s = .next t ∧ FailsafeEntered .imageCrc s t ∧
         t.ldr.attempts = s.ldr.attempts ∧ loaderSends t = []) ∧
     (∀ img, imageFormed img = true → rangesHold (parseImage img) = false →
       ∃ t, exec (.imageReadComplete img) s = .next t ∧ FailsafeEntered .imageRange s t ∧
         t.ldr.attempts = s.ldr.attempts ∧ loaderSends t = [])))

/-- R65, R133, R137, R157, R10, R51, R90, R91: an image that passes is in service, LISTEN begins, the self entry is
created, readback, scan and timers start, the hold condition is judged against the flow it brings, and no frame
is sent. R190, R193: an image is well formed when its length, image code, format, length byte and CRC hold; its
fields stand at their offsets, and Z is exposure length times area, rounded down; the ranges, one by one; the
digest is the CRC over offsets 4–54. That an image of another length than 72 bytes is not well formed is the
model's reading (log 31). -/
def Obligations.LoadedImageEntersListen : Prop :=
  (∀ (img : List Byte) (s : State), Runs s → s.ctl.mode = .loading → imageFormed img = true →
     rangesHold (parseImage img) = true →
     ∃ t, exec (.imageReadComplete img) s = .next t ∧
       OnlyChanges [.ctl, .ldr, .trk, .ros, .pln, .seq, .link, .scn, .wip] s t ∧
       t.ctl.mode = .listen ∧ t.ctl.listenTimer = some 0 ∧ t.ctl.statusTimer = s.ctl.statusTimer ∧
       t.ldr = { s.ldr with cfg := parseImage img, digest := some (imageDigest img) } ∧
       t.trk = { s.trk with accrual := some 0 } ∧
       t.ros.entries = judgeConflicts (insertEntry (selfOf s) s.ros.entries) ∧
       HoldFollows s t ∧
       t.link.phase = .readback [] ∧ t.link.count = (parseImage img).ballasts ∧
       t.link.visit.map (·.ballast) = some 1 ∧
       t.seq.lamps = s.seq.lamps.map (fun l =>
         { l with fitted := (parseImage img).fitted.getLsbD (l.index - 1), e := (parseImage img).eNom }) ∧
       t.scn = { s.scn with timer := some 0, scan := some 0 } ∧
       t.wip = { s.wip with interval := if s.wip.state = .absent then none else some 0 }) ∧
  ((∀ img : List Byte,
      (let at1 (i : Nat) : Nat := (img.getD i 0).toNat
       let at2 (i : Nat) : Nat := 256 * at1 i + at1 (i + 1)
       let at3 (i : Nat) : Nat := 65536 * at1 i + at2 (i + 1)
       let c := parseImage img
       (imageFormed img = true ↔ img.length = 72 ∧ at2 0 = 0xD620 ∧ at1 2 = 1 ∧ at1 3 = 72 ∧
         at2 70 = (crc16 (img.take 70)).toNat) ∧
       c.dT = at3 4 ∧ c.margin = at1 7 ∧ c.vP = at2 8 ∧ c.area = at2 10 ∧ c.qMin = at2 12 ∧ c.qDesign = at2 14 ∧
       c.qSpan = at2 16 ∧ c.uvtWorst = at2 18 ∧ c.holdFrac = at1 20 ∧
       c.table = [(at2 21, at2 23), (at2 25, at2 27), (at2 29, at2 31), (at2 33, at2 35), (at2 37, at2 39),
         (at2 41, at2 43), (at2 45, at2 47), (at2 49, at2 51)] ∧
       c.sensorSpan = at2 53 ∧ c.exposure = at2 55 ∧ c.nMod = at1 57 ∧ c.fitted.toNat = at3 58 ∧
       c.ballasts = at1 61 ∧ c.eNom = at2 62 ∧ c.warmup = at2 64 ∧ c.minLit = at1 66 ∧ c.wipeMin = at2 67 ∧
       c.foulThr = at1 69 ∧ c.z = c.exposure * c.area / 100 ∧ imageDigest img = crc16 ((img.drop 4).take 51))) ∧
   (∀ c : ImageCfg, rangesHold c = true ↔
      5000 ≤ c.dT ∧ c.dT ≤ 400000 ∧ c.margin ≤ 50 ∧ 100 ≤ c.vP ∧ c.vP ≤ 5000 ∧ c.area ≠ 0 ∧ c.exposure ≠ 0 ∧
      1 ≤ c.z ∧ c.z ≤ 14 * c.vP ∧ 12 * c.qMin ≤ 10 * c.qSpan ∧ c.qDesign ≤ c.qSpan ∧ 1 ≤ c.qSpan ∧
      c.uvtWorst ≤ 1000 ∧ c.holdFrac ≤ 100 ∧ (c.table.Pairwise fun p q => p.1 < q.1) ∧
      (∀ p ∈ c.table, p.1 ≤ 1000 ∧ p.2 ≤ 4095) ∧ c.sensorSpan ≠ 0 ∧ 1 ≤ c.nMod ∧ c.nMod ≤ 6 ∧
      (∀ i, 1 ≤ i → i ≤ 24 → c.fitted.getLsbD (i - 1) = true → (i + 1) / 2 ≤ c.ballasts ∧ (i + 3) / 4 ≤ c.nMod) ∧
      1 ≤ c.ballasts ∧ c.ballasts ≤ 12 ∧ c.eNom ≠ 0 ∧ 60 ≤ c.warmup ∧ c.warmup ≤ 300 ∧ 1 ≤ c.minLit ∧
      c.minLit ≤ (List.range 24).countP (fun k => c.fitted.getLsbD k) ∧ 15 ≤ c.wipeMin ∧ c.wipeMin ≤ 480 ∧
      50 ≤ c.foulThr ∧ c.foulThr ≤ 95))

/-- R65, R70, R44, R196, R197: with no reason standing LISTEN ends in DOSING, or in HOLD where the hold condition
stands, with one JOIN, its capability bit by bit (R187), and what LISTEN held of a reply follows it; at HEAD or
SOLE creation begins at start_seq, elsewhere next_expected stays absent. R77, R80: the FLOW and the UVT timer of
a strapped source start where they have not; nothing else of the planner moves. That a held QUERY is measured by
the table's size as LISTEN ends is the model's choice (log 37). -/
def Obligations.ListenEndsWithAJoin : Prop :=
  ∀ s : State, Runs s → ParcelsInv s → s.ctl.mode = .listen → reasonStands s = false →
    s.bus.queue.length ≤ 10 →
    ∃ t, exec .listenEnd s = .next t ∧ OnlyChanges [.ctl, .trk, .ros, .pln, .seq, .link, .bus, .cmd] s t ∧
      t.ctl.mode = (if s.pln.holdCond then .hold else .dosing) ∧ t.ctl.listenTimer = none ∧
      t.ctl.statusTimer = some 0 ∧
      (let joined := withPosted s (.join
        { serial := s.serial, cause := s.ctl.resetCause.code, digest := s.ldr.digest.getD 0
          startSeq := startOf s.trk.watermark
          -- bits 7–6 zero, 5 UVT source, 4 flow source, 3 wiper fitted, 2–0 N_mod
          capability := 0#2 ++ BitVec.ofBool s.ldr.straps.uvtSrc ++ BitVec.ofBool s.ldr.straps.flowSrc ++
            BitVec.ofBool s.ldr.straps.wipeFit ++ BitVec.ofNat 3 s.ldr.cfg.nMod })
       (s.cmd.reply = none → t.bus = joined ∧ t.cmd = s.cmd) ∧
       (∀ code outcome, s.cmd.reply = some (.heldAnswer code outcome) → t.cmd = { s.cmd with reply := none } ∧
         t.bus = withPosted (s.setBus joined) (.report
           { code := code, outcome := outcome, table := 0, start := 0, count := 0, records := [] })) ∧
       (∀ table start count, s.cmd.reply = some (.heldQuery table start count) →
         (let size := if table = 0 then t.seq.lamps.length else if table = 1 then t.trk.queue.length
            else if table = 2 then t.ros.entries.length else 28
          let each := if table = 0 then 4 else if table = 1 then 4 else if table = 2 then 5 else 20
          let total := min count (size - start)
          let first := min total each
          t.cmd = { s.cmd with
            reply := some (.running table (start + first) (total - first) (s.bus.nextTicket + 1)) } ∧
          t.bus = withPosted (s.setBus joined) (.report
            { code := 7, outcome := 2, table := BitVec.ofNat 8 table, start := BitVec.ofNat 8 start
              count := BitVec.ofNat 8 first
              records := (((tableRecords t table).drop start).take first).flatten })))) ∧
      t.pln = { s.pln with
       flowTimer := if s.ldr.straps.flowSrc = true ∧ s.pln.flowTimer = none then some 0 else s.pln.flowTimer
       uvtTimer := if s.ldr.straps.uvtSrc = true ∧ s.pln.uvtTimer = none then some 0 else s.pln.uvtTimer } ∧
      t.ros.role = roleOf t.ros.up t.ros.down ∧
      t.trk.queue = s.trk.queue ∧ t.trk.watermark = s.trk.watermark ∧
      (t.ros.role = .head ∨ t.ros.role = .sole →
        t.trk.nextExpected = some (startOf s.trk.watermark) ∧ t.trk.creating = true ∧
        t.trk.firstResync = false ∧ t.trk.creationMark = s.trk.counter) ∧
      (t.ros.role = .mid ∨ t.ros.role = .tail → t.trk = s.trk)

/-- R65, R67, R68, R196, R46: a reason that stands at the end of LISTEN, or is raised in DOSING or HOLD, isolates
the bank: the account is emptied and counted lost, the PARCELs that wait are withdrawn and counted, one in flight is
marked withdrawn and a frame of any other type in flight is left alone, but for the bank's own claim from CLAIMING,
marked likewise (R29, R184), a LEAVE is posted, the rest of the bus stays, F_req becomes F_max, and the lamps are
judged against it (R89, R108). An answer or a QUERY held in LISTEN is posted behind the LEAVE; in ISOLATED a further
reason moves nothing, and with the last reason gone the bank doses again without a frame: at HEAD or SOLE it creates
from the watermark + 256, or 256, with RESYNC owed to the first record, elsewhere it expects no number; the FLOW and
the UVT timer of a strapped source start where they have not (R77, R80). That a held QUERY is measured by the
table's size as LISTEN ends is the model's choice (log 37). -/
def Obligations.ReasonsIsolateTheBank : Prop :=
  (∀ s : State, Runs s → s.ctl.mode = .listen → reasonStands s = true →
    (s.cmd.reply = none →
      ∃ t, exec .listenEnd s = .next t ∧ IsolationEntered (if s.ctl.positionReason then 1 else 2) s t ∧
        t.ctl.statusTimer = some 0 ∧ t.ctl.listenTimer = none) ∧
    (s.bus.queue.length ≤ 10 →
      ∃ u, IsolationEntered (if s.ctl.positionReason then 1 else 2) s u ∧
        u.ctl.statusTimer = some 0 ∧ u.ctl.listenTimer = none ∧ u.cmd = s.cmd ∧
        (∀ code outcome, s.cmd.reply = some (.heldAnswer code outcome) → exec .listenEnd s =
          .next ((u.setCmd { u.cmd with reply := none }).setBus (withPosted u (.report
            { code := code, outcome := outcome, table := 0, start := 0, count := 0, records := [] })))) ∧
        (∀ table start count, s.cmd.reply = some (.heldQuery table start count) →
          (let size := if table = 0 then u.seq.lamps.length else if table = 1 then u.trk.queue.length
             else if table = 2 then u.ros.entries.length else 28
           let each := if table = 0 then 4 else if table = 1 then 4 else if table = 2 then 5 else 20
           let total := min count (size - start)
           let first := min total each
           exec .listenEnd s = .next ((u.setCmd { u.cmd with
             reply := some (.running table (start + first) (total - first) u.bus.nextTicket) }).setBus
             (withPosted u (.report
               { code := 7, outcome := 2, table := BitVec.ofNat 8 table, start := BitVec.ofNat 8 start
                 count := BitVec.ofNat 8 first
                 records := (((tableRecords u table).drop start).take first).flatten }))))))) ∧
  (∀ s : State, s.ctl.mode.doses = true → reasonStands (judgeRoster s) = true →
    IsolationEntered (if (judgeRoster s).ctl.positionReason then 1 else 2) s (settle s)) ∧
  (∀ s : State, s.ctl.mode = .isolated → reasonStands (judgeRoster s) = true → settle s = judgeRoster s) ∧
  (∀ s : State, s.ctl.mode = .isolated → reasonStands (judgeRoster s) = false → ParcelsInv s →
    (let t := settle s
     t.ctl.mode = (if s.pln.holdCond then .hold else .dosing) ∧ OnlyChanges [.ctl, .trk, .ros, .pln] s t ∧
     t.pln = { s.pln with
         flowTimer := if s.ldr.straps.flowSrc = true ∧ s.pln.flowTimer = none then some 0 else s.pln.flowTimer
         uvtTimer := if s.ldr.straps.uvtSrc = true ∧ s.pln.uvtTimer = none then some 0 else s.pln.uvtTimer } ∧
     t.ros.role = roleOf t.ros.up t.ros.down ∧
     (t.ros.role = .head ∨ t.ros.role = .sole → t.trk = { s.trk with
       nextExpected := some (startOf s.trk.watermark), creating := true, firstResync := true
       creationMark := s.trk.counter }) ∧
     (t.ros.role = .mid ∨ t.ros.role = .tail → t.trk = s.trk ∧ t.trk.nextExpected = none)))

/-- R13, R16, R43, R45: a settlement that leaves the bank in DOSING or HOLD moves the tracker by the role alone: a
bank that becomes HEAD or SOLE begins to create at the counter, row by row of R45 from next_expected and the
watermark, with the placeholder or the RESYNC owed to the first record; one that ceases to be stops; every other
leaves it. That the RESYNC owed is counted when its record is made, not here, is the model's reading (log 14). -/
def Obligations.RoleChangesMoveTheCreation : Prop :=
  ∀ s : State, s.ctl.mode.doses = true → reasonStands (judgeRoster s) = false →
    (let t := settle s
     let heads (r : Role) : Prop := r = .head ∨ r = .sole
     let begun (ne : Seq) : Tracker := { s.trk with
       creating := true, creationMark := s.trk.counter, firstResync := false, nextExpected := some ne }
     t.ctl.mode = s.ctl.mode ∧ t.ros.role = roleOf t.ros.up t.ros.down ∧
     ((heads s.ros.role ↔ heads t.ros.role) → t.trk = s.trk) ∧
     (heads s.ros.role → ¬ heads t.ros.role → t.trk = { s.trk with creating := false, firstResync := false }) ∧
     (¬ heads s.ros.role → heads t.ros.role →
       (s.trk.nextExpected = none → s.trk.watermark = none → t.trk = begun 256) ∧
       (∀ w, s.trk.nextExpected = none → s.trk.watermark = some w → t.trk = begun w) ∧
       (∀ ne, s.trk.nextExpected = some ne → s.trk.watermark = none → t.trk = begun ne) ∧
       (∀ ne w, s.trk.nextExpected = some ne → s.trk.watermark = some w →
         (let d := (w - ne).toInt
          let placeholder : ParcelRec :=
            { firstSeq := ne, lastSeq := w - 1, entryMark := s.trk.counter
              exitMark := s.trk.counter + BitVec.ofNat 32 s.ldr.cfg.z, dose := 0
              origin := BitVec.ofNat 8 s.ldr.straps.position, flags := 2 }
          (d ≤ 0 → t.trk = begun ne) ∧
          (64 < d → t.trk = { begun w with firstResync := true }) ∧
          (1 ≤ d → d ≤ 64 →
            (s.trk.queue = [] → t.trk = { begun w with
              queue := [placeholder], placeholders := bump16 s.trk.placeholders }) ∧
            (∀ q back, s.trk.queue = q ++ [back] → back.lastSeq + 1 = ne → t.trk = { begun w with
              placeholders := bump16 s.trk.placeholders
              queue := if s.trk.queue.length < 16 then s.trk.queue ++ [placeholder]
                else q ++ [{ back with
                  lastSeq := w - 1, dose := min back.dose 0, flags := back.flags ||| 2#8 ||| 4#8 }] }))))))

/-! ### The accrual expiry (R10–R24, R83–R89) -/

/-- R11: in DOSING Q × 0.2 s joins the residue and the counter takes its whole hundredths of a cubic metre; a
reverse flow does not advance it and a stale one advances it at Q_design. -/
def Obligations.DosingCountsTheFlow : Prop :=
  ∀ s : State, Runs s → s.trk.accrual.isSome = true → s.ctl.mode = .dosing →
    ∃ t, exec .accrualTimerExpiry s = .next t ∧
      t.trk.counter = s.trk.counter + BitVec.ofNat 32 ((s.trk.residue + flowTaken s) / 50) ∧
      t.trk.residue = (s.trk.residue + flowTaken s) % 50 ∧
      (s.pln.flow = .reverse → s.trk.residue ≤ 49 → t.trk.counter = s.trk.counter)

/-- R12, R5, R10: outside DOSING counter and residue stay, and outside DOSING and HOLD the expiry restarts the timer
and moves nothing else of the account. R17, R18, R21: after counting and creating, every record whose exit mark
is not passed takes F_eff × 0.2 s and the standing flags, and the front records whose exit mark is reached
leave. -/
def Obligations.RecordsAreCreditedAndLeave : Prop :=
  (∀ s : State, Runs s → s.trk.accrual.isSome = true → s.ctl.mode ≠ .dosing →
     ∃ t, exec .accrualTimerExpiry s = .next t ∧ t.trk.counter = s.trk.counter ∧ t.trk.residue = s.trk.residue ∧
       (s.ctl.mode ≠ .hold → t.trk = { s.trk with accrual := some 0 } ∧
         OnlyChanges [.trk, .pln, .seq, .link] s t)) ∧
  (∀ s : State, Runs s → s.trk.accrual.isSome = true → s.ctl.mode.doses = true →
     ∃ t, exec .accrualTimerExpiry s = .next t ∧
       OnlyChanges [.trk, .pln, .seq, .link, .wip, .bus, .cmd] s t ∧
       t.trk.queue =
         ((let u := if s.ctl.mode = .dosing then s.trk.count (flowTaken s) else s.trk
           if s.ros.role = .head ∨ s.ros.role = .sole then
             u.create s.ldr.cfg.z s.ldr.straps.position s.ldr.cfg.vP else u).queue.map fun r =>
           if 0 < (t.trk.counter - r.exitMark).toInt then r
           else { r with dose := min (r.dose + 2 * fEff s) 999999
                         flags := r.flags ||| standingFlags s }).dropWhile
         fun r => ¬ 0 < (r.exitMark - t.trk.counter).toInt)

/-- R14: the head makes one record for the k parcels the counter has completed since the creation mark, credited on
the same expiry, and moves the mark on by k × V_p; with none completed nothing is made. R15, R4, R25: whatever
the queue holds, the record made joins it as every record does, and an expiry in DOSING or HOLD leaves of the
account what counting and creating leave, but for the queue, the timer and the counts of the records that leave.
How a record joins is AcceptedRecordsJoinInLine's; that the first record of a takeover by loss is marked and
counted RESYNC at its making is the model's reading (log 14). -/
def Obligations.HeadCreatesCompletedParcels : Prop :=
  (∀ (s : State) (ne : Seq), Runs s → s.trk.accrual.isSome = true → s.ctl.mode = .dosing →
     s.ros.role = .head ∨ s.ros.role = .sole → s.trk.creating = true → s.trk.nextExpected = some ne →
     s.trk.queue = [] → 1 ≤ s.ldr.cfg.z → s.ldr.cfg.z < 2 ^ 31 →
     ∃ t, exec .accrualTimerExpiry s = .next t ∧
       (let k := (t.trk.counter - s.trk.creationMark).toNat / s.ldr.cfg.vP
        (k = 0 → t.trk.queue = [] ∧ t.trk.nextExpected = some ne ∧ t.trk.creationMark = s.trk.creationMark ∧
           t.trk.resyncs = s.trk.resyncs) ∧
        (1 ≤ k →
           t.trk.queue =
             [{ firstSeq := ne, lastSeq := ne + BitVec.ofNat 16 k - 1, entryMark := t.trk.counter,
                exitMark := t.trk.counter + BitVec.ofNat 32 s.ldr.cfg.z, dose := min (2 * fEff s) 999999,
                origin := BitVec.ofNat 8 s.ldr.straps.position,
                flags := (if s.trk.firstResync then 64#8 else 0) ||| standingFlags s }] ∧
           t.trk.nextExpected = some (ne + BitVec.ofNat 16 k) ∧
           t.trk.creationMark = s.trk.creationMark + BitVec.ofNat 32 (k * s.ldr.cfg.vP) ∧
           t.trk.firstResync = false ∧
           t.trk.resyncs = if s.trk.firstResync then bump16 s.trk.resyncs else s.trk.resyncs))) ∧
  (∀ (t : Tracker) (z own vP : Nat),
     (t.creating = false ∨ t.nextExpected = none → t.create z own vP = t) ∧
     (∀ ne, t.creating = true → t.nextExpected = some ne →
       (let k := (t.counter - t.creationMark).toNat / vP
        (k = 0 → t.create z own vP = t) ∧
        (1 ≤ k → t.create z own vP =
          { t.join z { firstSeq := ne, lastSeq := ne + BitVec.ofNat 16 k - 1, entryMark := 0, exitMark := 0, dose := 0
                       origin := BitVec.ofNat 8 own, flags := if t.firstResync then 64#8 else 0 } with
            creationMark := t.creationMark + BitVec.ofNat 32 (k * vP)
            firstResync := false
            resyncs := if t.firstResync then bump16 t.resyncs else t.resyncs })))) ∧
  (∀ s : State, Runs s → s.trk.accrual.isSome = true → s.ctl.mode.doses = true →
     ∃ t, exec .accrualTimerExpiry s = .next t ∧
       (let u := if s.ctl.mode = .dosing then s.trk.count (flowTaken s) else s.trk
        let v := if s.ros.role = .head ∨ s.ros.role = .sole then
          u.create s.ldr.cfg.z s.ldr.straps.position s.ldr.cfg.vP else u
        t.trk = { v with
          queue := t.trk.queue, accrual := some 0, discharged := t.trk.discharged
          underdosed := t.trk.underdosed, estimated := t.trk.estimated }))

/-- R22–R24, R28: the records that leave go, front first, as PARCELs to the downstream neighbour at HEAD and MID,
and as DISCHARGEs with their verdict at TAIL and SOLE, where their ranges are counted, by R1's formula for a range
grown beyond 32768 numbers too (the model's choice, log 48). -/
def Obligations.LeavingRecordsAreSentByRole : Prop :=
  ∀ s : State, Runs s → s.trk.accrual.isSome = true → s.ctl.mode.doses = true → s.wip.state ≠ .want →
    s.wip.state ≠ .claiming →
    ∃ t, exec .accrualTimerExpiry s = .next t ∧
      (let out := (accrued s).queue.takeWhile fun r => ¬ 0 < (r.exitMark - t.trk.counter).toInt
       (s.ros.role = .head ∨ s.ros.role = .mid →
          t.bus = (postAll s (out.map fun r => .parcel
            { recipient := BitVec.ofNat 8 (s.ros.down.getD 0), firstSeq := r.firstSeq, lastSeq := r.lastSeq,
              dose := BitVec.ofNat 24 r.dose, flags := r.flags, origin := r.origin })).bus ∧
          t.trk.discharged = s.trk.discharged ∧ t.trk.underdosed = s.trk.underdosed ∧
          t.trk.estimated = s.trk.estimated) ∧
       (s.ros.role = .tail ∨ s.ros.role = .sole →
          t.bus = (postAll s (out.map fun r => .discharge
            { firstSeq := r.firstSeq, lastSeq := r.lastSeq, dose := BitVec.ofNat 24 r.dose, flags := r.flags,
              origin := r.origin, verdict := if s.ldr.cfg.dT ≤ r.dose then 1 else 0 })).bus ∧
          t.trk.discharged = s.trk.discharged + BitVec.ofNat 32 (sumOf (out.map rangeOf)) ∧
          t.trk.underdosed = s.trk.underdosed + BitVec.ofNat 32
            (sumOf ((out.filter fun r => r.dose < s.ldr.cfg.dT).map rangeOf)) ∧
          t.trk.estimated = s.trk.estimated + BitVec.ofNat 32
            (sumOf ((out.filter fun r => r.flags.getLsbD 0).map rangeOf))))

/-- R83–R86: at the close of an expiry with Q of 0.001 or more, ΣP against D_t × (1 + m) × Q gives the plan of
shares or the shortfall with no shares and F_max; with a lower Q plan and flag stay. R88, R89, R86: the setpoint at
the close of an expiry without shortfall: by the plan in DOSING with Q of 0.001 or more, the hold fraction of F_max
in HOLD, and with a lower Q in DOSING, or in HOLD with the shortfall flag set, as the last computation left it, or
F_min where there has been none since reset. R10, R108: the sequencer and the link are then those of a lamp event at
this setpoint. A computation is the close of an expiry with Q of 0.001 or more; no other event is one. R82: P is
F_max times Z, rounded down and limited. R83, R62: the planning set is the bank with its P and every participating
peer that holds one, and ΣP is its sum. R87: F_min is the min_lit lowest estimates of the lamps available, or all of
them, at 50 %, rounded up and at most F_max. P and F_min are 0 while no image is held. That a computation is the
close of an expiry with Q of 0.001 or more, in HOLD too, and that neither the F_max of ISOLATED nor a hold setpoint
without one is such, is the model's reading (log 20). -/
def Obligations.TheCloseOfAnExpiryPlans : Prop :=
  (∀ s : State, Runs s → s.trk.accrual.isSome = true → s.ctl.mode.doses = true →
     ∃ t, exec .accrualTimerExpiry s = .next t ∧
       (1 ≤ flowTaken s →
         totalP s * 10000000 < s.ldr.cfg.dT * (100 + s.ldr.cfg.margin) * flowTaken s →
         t.pln.shortfall = true ∧ t.pln.plan = none ∧ t.pln.fReq = fMax s) ∧
       (1 ≤ flowTaken s →
         s.ldr.cfg.dT * (100 + s.ldr.cfg.margin) * flowTaken s ≤ totalP s * 10000000 →
         t.pln.shortfall = false ∧
         (let shares := (planningSet s).map fun x =>
             (x.1, roundHalfUp (s.ldr.cfg.dT * (100 + s.ldr.cfg.margin) * x.2) (100 * totalP s))
          t.pln.plan = some ⟨shares, sumOf ((shares.filter fun x => x.1 ≤ s.ldr.straps.position).map (·.2))⟩)) ∧
       (flowTaken s = 0 → t.pln.shortfall = s.pln.shortfall ∧ t.pln.plan = s.pln.plan)) ∧
  (∀ s : State, Runs s → s.trk.accrual.isSome = true →
     ∃ t, exec .accrualTimerExpiry s = .next t ∧
       (s.ctl.mode = .dosing → 1 ≤ flowTaken s → t.pln.shortfall = false →
         ∀ p, t.pln.plan = some p → t.pln.fReq = plannedRate s p t.trk) ∧
       (s.ctl.mode = .hold → t.pln.shortfall = false →
         t.pln.fReq = max (fMin s) (ceilDiv (s.ldr.cfg.holdFrac * fMax s) 100)) ∧
       (s.ctl.mode = .dosing ∨ (s.ctl.mode = .hold ∧ s.pln.shortfall = true) → flowTaken s = 0 →
         (s.pln.lastReq = none → t.pln.fReq = fMin s) ∧ (∀ v, s.pln.lastReq = some v → t.pln.fReq = v)) ∧
       (s.ctl.mode.doses = true → 1 ≤ flowTaken s → t.pln.lastReq = some t.pln.fReq) ∧
       (s.ctl.mode.doses = false ∨ flowTaken s = 0 → t.pln.lastReq = s.pln.lastReq) ∧
       (s.ctl.mode = .listen → t.pln.fReq = fMin s) ∧
       (s.ctl.mode = .isolated → t.pln.fReq = fMax s) ∧
       -- the new F_req reaches the lamps
       EndsAsLampEvent (s.setPln { s.pln with fReq := t.pln.fReq }) t) ∧
  (∀ s : State,
     (let available := (s.seq.lamps.filter fun l =>
        l.fitted && decide (l.state ≠ .failed) && decide (l.state ≠ .locked)).map (·.e)
      capacityP s = min (fMax s * s.ldr.cfg.z / 1000) 65535 ∧
      planningSet s = (s.ldr.straps.position, capacityP s) :: s.ros.entries.filterMap (fun e =>
        if e.isSelf = false ∧ e.chan = s.ldr.straps.channel ∧ e.state = .active ∧ e.digest ≠ none ∧
            e.digest = s.ros.refDigest ∧ (e.mode = some .dosing ∨ e.mode = some .hold) then
          e.p.map fun p => (e.pos, p)
        else none) ∧
      totalP s = sumOf ((planningSet s).map (·.2)) ∧
      (∀ low rest, (low ++ rest).Perm available → low.length = min s.ldr.cfg.minLit available.length →
        (∀ x ∈ low, ∀ y ∈ rest, x ≤ y) →
        fMin s = min ((gFactor s * sumOf low + 2000 * s.ldr.cfg.nMod - 1) / (2000 * s.ldr.cfg.nMod)) (fMax s)) ∧
      (s.ldr.cfg = .absent → fMin s = 0 ∧ capacityP s = 0)))

/-! ### Periodic frames, sources and the hold condition (R71, R75–R80, R90, R91) -/

/-- R179: the class of every type. R178, R181, R177: in a queue in class order a frame that joins stands behind
every waiting frame of its own class and of a more urgent one, and one that returns stands before those of its
own class. R180: a renewed frame stands in the place of the waiting one of its type. R178, R180–R183: what is
posted takes the place of a waiting STATUS, FLOW or UVT of its own type, or joins by class and age while fewer
than 12 frames wait. On a full queue an URGENT frame displaces the oldest frame of the least urgent class; among
URGENT frames alone a PARCEL is merged into the newest waiting PARCEL where that is adjacent; everything else is
refused. What is displaced or refused is counted, and has the consequence its type gives. A merge that carries the
range beyond R1's 32768 numbers is made all the same, by the model's choice (log 48). -/
def Obligations.PostingKeepsClassAndAge : Prop :=
  (∀ b : Body, classOf b = match b with
    | .parcel _ => 0 | .wipeClaim => 0 | .wipeActive => 0 | .wipeDone _ => 0 | .leave _ => 0
    | .flow _ => 1 | .uvt _ => 1 | .discharge _ => 1 | .join _ => 1 | .command _ _ => 1
    | .status _ => 2 | .report _ => 2) ∧
  (∀ (f : Frame) (q : List Frame),
     (ordered q = true → ∃ older newer, q = older ++ newer ∧ (∀ x ∈ older, classOf x.body ≤ classOf f.body) ∧
       (∀ x ∈ newer, classOf f.body < classOf x.body) ∧ enqueue f q = older ++ f :: newer) ∧
     (ordered q = true → ∃ before behind, q = before ++ behind ∧ (∀ x ∈ before, classOf x.body < classOf f.body) ∧
       (∀ x ∈ behind, classOf f.body ≤ classOf x.body) ∧ requeue f q = before ++ f :: behind) ∧
     (∀ before g behind, q = before ++ g :: behind → sameRenewable f.body g = true →
       (∀ x ∈ before, sameRenewable f.body x = false) → renew f q = before ++ f :: behind) ∧
     (∀ g : Frame, sameRenewable f.body g = true ↔
       (∃ v w, f.body = .status v ∧ g.body = .status w) ∨ (∃ v w, f.body = .flow v ∧ g.body = .flow w) ∨
         ∃ v w, f.body = .uvt v ∧ g.body = .uvt w)) ∧
  (∀ (s : State) (b : Body),
     (HasPlaceFor s b → post s b = s.setBus (withPosted s b)) ∧
     (¬ HasPlaceFor s b →
       (let t := post s b
        let q := s.bus.queue
        let ticketed := { s.bus with nextTicket := s.bus.nextTicket + 1 }
        let refused : Prop := GivenUp (ownFrame s b) { ticketed with dropped := bump16 s.bus.dropped } s t
        (classOf b ≠ 0 → refused) ∧
        (classOf b = 0 → ∀ older g newer, q = older ++ g :: newer → (∀ x ∈ older, x.cls < g.cls) →
          (∀ x ∈ newer, x.cls = g.cls) → g.cls ≠ 0 →
          GivenUp g { ticketed with
            queue := enqueue (ownFrame s b) (dropTicket g.ticket q), dropped := bump16 s.bus.dropped } s t) ∧
        (classOf b = 0 → (∀ x ∈ q, x.cls = 0) →
          (∀ p older g newer a, b = .parcel p → q = older ++ g :: newer → g.body = .parcel a →
            (∀ x ∈ newer, x.isParcel = false) →
            (a.lastSeq + 1 = p.firstSeq → t = s.setBus { ticketed with
              queue := q.map fun h => if h.isParcel = true ∧ h.ticket = g.ticket then
                { h with body := .parcel { a with
                  lastSeq := p.lastSeq, dose := if p.dose.toNat < a.dose.toNat then p.dose else a.dose
                  flags := a.flags ||| p.flags ||| 4#8 } } else h }) ∧
            (a.lastSeq + 1 ≠ p.firstSeq → refused)) ∧
          ((∀ p, b = .parcel p → ∀ x ∈ q, x.isParcel = false) → refused)))))

/-- R71: each second a STATUS with the fields of the moment is posted, while its timer runs on from 0. In FAILSAFE
it carries serial, mode, CONFIG_FAIL and its cause alone. R77, R80: in DOSING and HOLD a source posts its own
reading as last handed; in ISOLATED and FAILSAFE the timers run on and nothing is posted. -/
def Obligations.PeriodicFramesArePosted : Prop :=
  (∀ s : State, Runs s → s.ctl.statusTimer.isSome = true →
     exec .statusTimerExpiry s =
       .next (post (s.setCtl { s.ctl with statusTimer := some 0 }) (.status (statusBody s))) ∧
     (s.ctl.mode = .failsafe → ∀ c, s.ldr.failure = some c → statusBody s =
       { serial := s.serial, mode := 5, role := 0, digest := 0, p := 0, fReq := 0, fEff := 0, lit := 0, failed := 0,
         nextSeq := 0, present := 0
         flags := match c with
           | .imageAbsent => 0x3000
           | .imageCrc => 0x5000
           | .imageRange => 0x9000 }) ∧
     (s.ctl.mode ≠ .failsafe →
       (let b := statusBody s
        b.serial = s.serial ∧ b.mode = BitVec.ofNat 8 s.ctl.mode.code ∧ b.role = s.ros.role.code ∧
        b.digest = s.ldr.digest.getD 0 ∧ b.p = BitVec.ofNat 16 (capacityP s) ∧
        b.fReq = BitVec.ofNat 16 s.pln.fReq ∧ b.fEff = BitVec.ofNat 16 (fEff s) ∧
        b.lit = BitVec.ofNat 8 (s.seq.lamps.countP fun l => l.state = .lit) ∧
        b.failed = BitVec.ofNat 8 (s.seq.lamps.countP fun l => l.state = .failed) ∧
        (∀ n, s.trk.nextExpected = some n → b.nextSeq = n ∧ b.present = 1) ∧
        (s.trk.nextExpected = none → b.nextSeq = 0 ∧ b.present = 0) ∧
        ∀ k, b.flags.getLsbD k = match k with
          | 0 => inStroke s
          | 1 => s.pln.shortfall
          | 2 => decide (s.ros.role = .head ∨ s.ros.role = .sole)
          | 3 => s.ldr.supply.low
          | 4 => s.bus.busFault
          | 5 => decide (s.pln.flow = .stale)
          | 6 => decide (s.pln.uvt = .stale)
          | 7 => s.pln.flowDup.isSome
          | 8 => s.pln.uvtDup.isSome
          | 9 => anyEstimated s
          | 10 => s.ctl.positionReason
          | 11 => s.ctl.digestReason
          | _ => false))) ∧
  (∀ s : State, Runs s →
     (let reading (o : Option Offer) : ReadingBody :=
       match o with
       | none => ⟨0, 2⟩
       | some ⟨.fault, _⟩ => ⟨0, 2⟩
       | some ⟨.reverse, v⟩ => ⟨BitVec.ofNat 16 v, 1⟩
       | some ⟨.normal, v⟩ => ⟨BitVec.ofNat 16 v, 0⟩
      (s.pln.flowTimer.isSome = true → s.ctl.mode.doses = true → exec .flowTimerExpiry s =
         .next (post (s.setPln { s.pln with flowTimer := some 0 }) (.flow (reading s.scn.ownFlow)))) ∧
      (s.pln.flowTimer.isSome = true → s.ctl.mode.doses = false →
         exec .flowTimerExpiry s = .next (s.setPln { s.pln with flowTimer := some 0 })) ∧
      (s.pln.uvtTimer.isSome = true → s.ctl.mode.doses = true → exec .uvtTimerExpiry s =
         .next (post (s.setPln { s.pln with uvtTimer := some 0 }) (.uvt (reading s.scn.ownUvt)))) ∧
      (s.pln.uvtTimer.isSome = true → s.ctl.mode.doses = false →
         exec .uvtTimerExpiry s = .next (s.setPln { s.pln with uvtTimer := some 0 }))))

/-- R76, R79: a lapse leaves no source, the state STALE and the configured value, Q_design or UVT_worst, and the
hold condition, its timer and the mode follow that flow. R90, R66: the hold timer's 30 s raise the hold
condition; in DOSING the bank enters HOLD, or ISOLATED where a reason then stands (R67). -/
def Obligations.LapsesAndTheHoldTimerAreTaken : Prop :=
  ((∀ s : State, Runs s → s.pln.flowSource.isSome = true →
     ∃ t, exec .flowSourceLapse s = .next t ∧ t.pln.flow = .stale ∧ t.pln.flowSource = none ∧
       flowQ t = s.ldr.cfg.qDesign ∧ t.pln.flowDup = s.pln.flowDup ∧ HoldFollows s t ∧ ModeFollows s t ∧
       OnlyChanges [.ctl, .trk, .ros, .pln, .seq, .link, .wip, .bus, .cmd] s t ∧
       (s.ctl.mode = .listen → OnlyChanges [.pln] s t)) ∧
   (∀ s : State, s.hold.held = false → s.pln.uvtSource.isSome = true →
     ∃ t, exec .uvtSourceLapse s = .next t ∧ t.pln.uvt = .stale ∧ t.pln.uvtSource = none ∧
       uvtValue t = s.ldr.cfg.uvtWorst ∧ t.pln.uvtDup = s.pln.uvtDup ∧ HoldStays s t ∧
       OnlyChanges [.pln, .seq, .link] s t)) ∧
  (∀ s : State, Runs s → s.pln.holdTimer.isSome = true →
     (∃ t, exec .holdTimerExpiry s = .next t ∧ t.pln.holdCond = true ∧ ModeFollows s t) ∧
     (let p := { s.pln with holdCond := true, holdTimer := none }
      (s.ctl.mode ≠ .dosing → exec .holdTimerExpiry s = .next (s.setPln p)) ∧
      (s.ctl.mode = .dosing → reasonStands (judgeRoster (setMode (s.setPln p) .hold)) = false →
        ∃ t, exec .holdTimerExpiry s = .next t ∧ OnlyChanges [.ctl, .trk, .ros, .pln] s t ∧
          t.ctl.mode = .hold ∧ t.pln = p)))

/-- R91, with the timer of R90: a standing condition clears at 1.2 × Q_min, with the timer idle; below that it
stands, timer untouched. While it does not stand, the timer starts below Q_min and is idle from Q_min on. -/
def Obligations.HoldConditionFollowsTheFlow : Prop :=
  ∀ s : State,
    (s.pln.holdCond = true → 12 * s.ldr.cfg.qMin ≤ 10 * flowTaken s →
      judgeHold s = s.setPln { s.pln with holdCond := false, holdTimer := none }) ∧
    (s.pln.holdCond = true → 10 * flowTaken s < 12 * s.ldr.cfg.qMin → judgeHold s = s) ∧
    (s.pln.holdCond = false → flowTaken s < s.ldr.cfg.qMin →
      judgeHold s = s.setPln { s.pln with holdTimer := some (s.pln.holdTimer.getD 0) }) ∧
    (s.pln.holdCond = false → s.ldr.cfg.qMin ≤ flowTaken s →
      judgeHold s = s.setPln { s.pln with holdTimer := none })

/-! ### The roster (R41, R50–R63) -/

/-- R57, R162: an entry that reaches 3.0 s goes LOST with its fields kept, one that has been LOST for 300 s is
removed, and the wiper waits no longer for a bank gone LOST. R58, R162: a LEAVE from another address puts every
entry there into LOST; from the bank's own address only reason RESTART does, and any other refreshes what is not
LOST. That of two entries at the position waited on either ends the wait (log 36), that an age without its entry
changes nothing (log 4), and that a LEAVE restarts the since-LOST age of an entry already LOST and is learned by
R58 alone (logs 12 and 13), are the model's. -/
def Obligations.EntriesGoLostAndAreRemoved : Prop :=
  (∀ (k : EntryKey) (s : State), Runs s →
     (heardEntry s k = true → ∃ t, exec (.rosterEntryLost k) s = .next t ∧
       OnlyChanges [.ctl, .trk, .ros, .pln, .seq, .link, .wip, .bus, .cmd] s t ∧
       t.ros.entries = judgeConflicts (s.ros.entries.map fun e =>
         if e.hasKey k then { e with state := .lost, sinceLost := some 0, wiping := none } else e) ∧
       (k.chan = s.ldr.straps.channel → s.wip.wait.map (·.pos) = some k.pos → t.wip.wait = none)) ∧
     (heardEntry s k = false → exec (.rosterEntryLost k) s = .next s) ∧
     (s.ros.entries.any (fun e => e.hasKey k && e.isLost) = true → ∃ t, exec (.rosterEntryRemove k) s = .next t ∧
       OnlyChanges [.ctl, .trk, .ros, .pln, .seq, .link, .wip, .bus, .cmd] s t ∧
       t.ros.entries = judgeConflicts (s.ros.entries.filter fun e => !e.hasKey k) ∧ t.wip.wait = s.wip.wait) ∧
     (s.ros.entries.any (fun e => e.hasKey k && e.isLost) = false → exec (.rosterEntryRemove k) s = .next s)) ∧
  (∀ (a : Src) (reason : Byte) (s : State), TakesFrames s →
     ∃ t, exec (.leaveReceived a reason) s = .next t ∧
       OnlyChanges [.ctl, .trk, .ros, .pln, .seq, .link, .wip, .bus, .cmd] s t ∧
       (isOwnAddress s a = false ∨ reason = 4 → t.ros.entries = judgeConflicts (s.ros.entries.map fun e =>
         if e.foreignAt a then { e with state := .lost, sinceLost := some 0, wiping := none } else e)) ∧
       (isOwnAddress s a = true → reason ≠ 4 → t.ros.entries = judgeConflicts (s.ros.entries.map fun e =>
         if e.foreignAt a ∧ e.state ≠ .lost then { e with lastHeard := 0, sinceLost := none } else e)) ∧
       (isOwnAddress s a = false → heardAt s a = true → a.chan.toNat = s.ldr.straps.channel →
         s.wip.wait.map (·.pos) = some a.pos.toNat → t.wip.wait = none))

/-- R53, R54, R52, R186: how a frame without a serial is learned, row by row; a frame of a wrong length is counted
as well. The state `learned`, in which the other statements take their frames up, holds the entries of those
rows. R186, R173: in LOADING a frame of a wrong length is counted and learned by nobody (the counting there is
the model's reading, log 27); every accepted frame, of whatever type, only ends the reading. Of entries LOST
with equal ages the manual names none; the statement leaves the choice open (log 35). That a frame of the own
address, where the self entry alone stands, is learned as any other is the model's choice (log 43). -/
def Obligations.FramesWithoutASerialAreLearned : Prop :=
  ((∀ (c : Instr) (a : Src) (s : State), TakesFrames s → PlainFrame c a →
      ∃ t, exec c s = .next t ∧ OnlyChanges [.ctl, .trk, .ros, .pln, .seq, .link, .wip, .bus, .cmd] s t ∧
        t.bus.formatErrors = (if c = .formatErrorFrame a then bump16 s.bus.formatErrors else s.bus.formatErrors) ∧
        LearnedPlain a s t) ∧
   (∀ (a : Src) (s : State), LearnedPlain a s (learned s a))) ∧
  (∀ (a : Src) (s : State), Runs s → s.ctl.mode = .loading →
     exec (.formatErrorFrame a) s =
       .next (s.setBus { s.bus.frameTaken with formatErrors := bump16 s.bus.formatErrors }) ∧
     (∀ c, AcceptedFrame c a → exec c s = .next (s.setBus s.bus.frameTaken)))

/-- R52, R54, R55, R41: a JOIN with identity starts its entry afresh, makes a new one where the address holds
neither its serial nor an entry without one. R52: one with serial 0 or from outside the bank addresses is
learned as a frame without a serial. Either way a JOIN of a bank of the own channel and digest from above the
current head, as it stood before, records a pending break of 30 s. Where it is learned without a serial, a frame
of the own address is learned as any other (log 43): the model's choice. -/
def Obligations.JoinStartsAnEntryAfresh : Prop :=
  ∀ (a : Src) (b : JoinBody) (s : State), TakesFrames s →
    ∃ t, exec (.joinReceived a b) s = .next t ∧
      OnlyChanges [.ctl, .trk, .ros, .pln, .seq, .link, .wip, .bus, .cmd] s t ∧
      (let k : EntryKey := ⟨a.chan.toNat, a.pos.toNat, some b.serial⟩
       let identity := isBankAddress a = true ∧ b.serial ≠ 0
       let own := b.serial = s.serial ∧ isOwnAddress s a = true
       let afresh (e : RosterEntry) : RosterEntry :=
        { e with state := .active, mode := some .dosing, digest := some b.digest, p := none, flags := 0,
                 wiping := none, lastHeard := 0, sinceLost := none }
       (identity → own → t.ros.entries = judgeConflicts s.ros.entries) ∧
       (identity → ¬ own → s.ros.entries.any (RosterEntry.hasKey k) = true → t.ros.entries = judgeConflicts
         (s.ros.entries.map fun e => if e.hasKey k then afresh e else e)) ∧
       (identity → ¬ own → s.ros.entries.any (RosterEntry.hasKey k) = false →
         ∀ e, s.ros.entries.find? (RosterEntry.hasKey { k with serial := none }) = some e →
           t.ros.entries = judgeConflicts (insertEntry (afresh { e with serial := some b.serial })
             (s.ros.entries.filter fun g => !g.hasKey e.key))) ∧
       (identity → ¬ own → s.ros.entries.any (RosterEntry.hasKey k) = false →
         s.ros.entries.any (RosterEntry.hasKey { k with serial := none }) = false →
         TakesIn (afresh (freshEntry a.chan.toNat a.pos.toNat (some b.serial))) s t) ∧
       (¬ identity → LearnedPlain a s t) ∧
       t.trk.brk =
        (let head := (peerPositions (ownView s) s.ros.refDigest s.ros.entries ++
            (if s.ctl.mode.doses then [s.ldr.straps.position] else [])).min?
         if isBankAddress a = true ∧ a.chan.toNat = s.ldr.straps.channel ∧ s.ldr.digest = some b.digest ∧
             (∀ h, head = some h → a.pos.toNat < h)
         then some ⟨b.startSeq, 30000⟩ else s.trk.brk))

/-- R52, R54, R55, R56, R35: a STATUS with identity fills its entry, or a new one where the address holds neither
its serial nor an entry without one. R52: one with serial 0 or from outside the bank addresses is learned as a
frame without a serial. Either way one of the own channel that carries next_seq offers it to the watermark,
which takes it when absent or earlier. That a STATUS in FAILSAFE, whose digest bytes are not read, gives the
digest zero is the model's reading (log 44). Where it is learned without a serial, a frame of the own address is
learned as any other (log 43): the model's choice. -/
def Obligations.StatusFillsItsEntry : Prop :=
  ∀ (a : Src) (b : StatusBody) (s : State), TakesFrames s →
    ∃ t, exec (.statusReceived a b) s = .next t ∧
      OnlyChanges [.ctl, .trk, .ros, .pln, .seq, .link, .wip, .bus, .cmd] s t ∧
      (let k : EntryKey := ⟨a.chan.toNat, a.pos.toNat, some b.serial⟩
       let identity := isBankAddress a = true ∧ b.serial ≠ 0
       let own := b.serial = s.serial ∧ isOwnAddress s a = true
       let filled (e : RosterEntry) : RosterEntry :=
        { e with state := .active, mode := some (modeOfCode b.mode), digest := some (if b.mode = 5 then 0 else b.digest)
                 p := some b.p.toNat, flags := b.flags, lastHeard := 0, sinceLost := none
                 wiping := if b.flags.getLsbD 0 then some (e.wiping.getD 0)
                   else e.wiping.bind fun age => if age < 2000 then some age else none }
       (identity → own → t.ros.entries = judgeConflicts s.ros.entries) ∧
       (identity → ¬ own → s.ros.entries.any (RosterEntry.hasKey k) = true → t.ros.entries = judgeConflicts
         (s.ros.entries.map fun e => if e.hasKey k then filled e else e)) ∧
       (identity → ¬ own → s.ros.entries.any (RosterEntry.hasKey k) = false →
         ∀ e, s.ros.entries.find? (RosterEntry.hasKey { k with serial := none }) = some e →
           t.ros.entries = judgeConflicts (insertEntry (filled { e with serial := some b.serial })
             (s.ros.entries.filter fun g => !g.hasKey e.key))) ∧
       (identity → ¬ own → s.ros.entries.any (RosterEntry.hasKey k) = false →
         s.ros.entries.any (RosterEntry.hasKey { k with serial := none }) = false →
         TakesIn (filled (freshEntry a.chan.toNat a.pos.toNat (some b.serial))) s t) ∧
       (¬ identity → LearnedPlain a s t) ∧
       (a.chan.toNat ≠ s.ldr.straps.channel ∨ b.present = 0 → t.trk.watermark = s.trk.watermark) ∧
       (a.chan.toNat = s.ldr.straps.channel → b.present ≠ 0 →
         (s.trk.watermark = none → t.trk.watermark = some b.nextSeq) ∧
         (∀ w, s.trk.watermark = some w →
           t.trk.watermark = if 0 < (b.nextSeq - w).toInt then some b.nextSeq else some w)))

/-- R59–R63: after every settlement two or more entries standing at one address are in CONFLICT and one alone is
ACTIVE, the position reason is the self entry's CONFLICT, the reference digest is that of an eligible bank at
the lowest eligible position and absent where no bank is eligible, the digest reason is a reference that differs
from the own digest, the participating peers are those of R62, the neighbours are the nearest of them and absent
where there are none, and in DOSING and HOLD the role follows from them. -/
def Obligations.SettlementJudgesTheRoster : Prop :=
  ∀ s : State,
    (let t := settle s
     let own := s.ldr.straps.position
     let peers := peerPositions (ownView t) t.ros.refDigest t.ros.entries
     let digestOf (e : RosterEntry) : Option Digest := if e.isSelf then s.ldr.digest else e.digest
     let eligible (e : RosterEntry) : Prop := e.chan = s.ldr.straps.channel ∧ e.state = .active ∧
       e.flags.getLsbD 12 = false ∧ (if e.isSelf then some t.ctl.mode else e.mode) ∈ [some .dosing, some .hold]
     (∀ e ∈ t.ros.entries, e.state = .active ∨ e.state = .conflict →
       (e.state = .conflict ↔ 2 ≤ t.ros.entries.countP fun g =>
         (g.state = .active ∨ g.state = .conflict) ∧ g.chan = e.chan ∧ g.pos = e.pos)) ∧
     t.ctl.positionReason = t.ros.entries.any (fun e => e.isSelf && decide (e.state = .conflict)) ∧
     ((∀ e ∈ t.ros.entries, ¬ eligible e) → t.ros.refDigest = none) ∧
     (∀ e ∈ t.ros.entries, eligible e → ∃ g ∈ t.ros.entries, eligible g ∧
       (∀ x ∈ t.ros.entries, eligible x → g.pos ≤ x.pos) ∧ t.ros.refDigest = digestOf g) ∧
     (t.ctl.digestReason = true ↔ ∃ x y, t.ros.refDigest = some x ∧ s.ldr.digest = some y ∧ x ≠ y) ∧
     (∀ p, p ∈ peers ↔ ∃ e ∈ t.ros.entries, e.isSelf = false ∧ e.chan = s.ldr.straps.channel ∧ e.pos = p ∧
       e.state = .active ∧ e.digest ≠ none ∧ e.digest = t.ros.refDigest ∧
       e.mode ∈ [some .dosing, some .hold]) ∧
     (t.ros.up = none ↔ ∀ q ∈ peers, own ≤ q) ∧
     (∀ p, t.ros.up = some p → p < own ∧ p ∈ peers ∧ ∀ q ∈ peers, q < own → q ≤ p) ∧
     (t.ros.down = none ↔ ∀ q ∈ peers, q ≤ own) ∧
     (∀ p, t.ros.down = some p → own < p ∧ p ∈ peers ∧ ∀ q ∈ peers, own < q → p ≤ q) ∧
     (t.ctl.mode.doses = true → t.ros.role =
       match t.ros.up, t.ros.down with
       | none, some _ => .head
       | some _, none => .tail
       | none, none => .sole
       | some _, some _ => .mid))

/-! ### Conditions of the channel and parcels (R30–R42, R73, R75, R78, R4, R25) -/

/-- R75, R78: a FLOW of the own channel by position, a UVT of any bank by slot: adopted from the source or from
below, not from above; an offer from elsewhere raises the DUP indication; any other is ignored. R90, R91: after
a FLOW of the own channel the hold condition and its timer are judged against the flow then held; after any
other they stay. R66: so does the mode, which follows the condition from HOLD to DOSING and back. R52, R53:
either is learned as a frame without a serial. A frame of the own address is learned as any other (log 43): the
model's choice. -/
def Obligations.OffersAreJudgedByTheirSource : Prop :=
  ∀ (a : Src) (b : ReadingBody) (s : State), TakesFrames s →
    (∃ t, exec (.flowReceived a b) s = .next t ∧
      OnlyChanges [.ctl, .trk, .ros, .pln, .seq, .link, .wip, .bus, .cmd] s t ∧ LearnedPlain a s t ∧
      (isBankAddress a = true → a.chan.toNat = s.ldr.straps.channel →
        OfferJudged a.pos.toNat (offeredFlow b) s.pln.flowHeld t.pln.flowHeld ∧ HoldFollows s t ∧
        ModeFollows (learned s a) t) ∧
      (isBankAddress a = false ∨ a.chan.toNat ≠ s.ldr.straps.channel →
        t.pln.flowHeld = s.pln.flowHeld ∧ HoldStays s t ∧ t.ctl = (learned s a).ctl)) ∧
    (∃ t, exec (.uvtReceived a b) s = .next t ∧
      OnlyChanges [.ctl, .trk, .ros, .pln, .seq, .link, .wip, .bus, .cmd] s t ∧ LearnedPlain a s t ∧ HoldStays s t ∧
      t.ctl = (learned s a).ctl ∧
      (isBankAddress a = true →
        OfferJudged (a.chan.toNat * 8 + a.pos.toNat - 1) (offeredUvt b) s.pln.uvtHeld t.pln.uvtHeld) ∧
      (isBankAddress a = false → t.pln.uvtHeld = s.pln.uvtHeld))

/-- R30–R32, R35: once its source is learned, a PARCEL of another channel or with a backward range changes nothing;
any other teaches the watermark; one that names this bank from above is accepted, one that R32 adopts is
accepted, and outside DOSING and HOLD none is. R40, R42: an adoption is counted, but not where the arrival uses
up a pending break; R36: nor where next_expected is absent. A range of length 32768 counts as not backward by
the letter (log 10), and a source outside the bank addresses is judged by the letter (log 29); that R36's words
on an absent next_expected hold for the adoption count is the model's reading (log 41). -/
def Obligations.ParcelsAreScreenedAndAccepted : Prop :=
  ∀ (a : Src) (b : ParcelBody) (s : State), TakesFrames s →
    (let u := learned s a
     let taught := u.trk.offerWatermark (b.lastSeq + 1)
     let record : ParcelRec :=
      { firstSeq := b.firstSeq, lastSeq := b.lastSeq, entryMark := 0, exitMark := 0,
        dose := min b.dose.toNat 999999, origin := b.origin, flags := b.flags }
     let own := s.ldr.straps.position
     let peers := peerPositions (ownView u) u.ros.refDigest u.ros.entries
     let named := b.recipient.toNat = own ∧ a.pos.toNat < own
     let adopted := a.pos.toNat < b.recipient.toNat ∧ b.recipient.toNat < own ∧ b.recipient.toNat ∉ peers ∧
      ∀ p ∈ peers, ¬ (a.pos.toNat < p ∧ p < own)
     let uncounted := ∀ ne, u.trk.nextExpected = some ne →
      0 < (b.firstSeq - ne).toInt ∧ u.trk.brk.map (·.seq) = some b.firstSeq
     (a.chan.toNat ≠ s.ldr.straps.channel ∨ 0 < (b.firstSeq - b.lastSeq).toInt →
       exec (.parcelReceived a b) s = .next u) ∧
     (a.chan.toNat = s.ldr.straps.channel → ¬ 0 < (b.firstSeq - b.lastSeq).toInt →
       (u.ctl.mode.doses = false ∨ (¬ named ∧ ¬ adopted) →
         exec (.parcelReceived a b) s = .next (u.setTrk taught)) ∧
       (u.ctl.mode.doses = true → named →
         exec (.parcelReceived a b) s = .next (u.setTrk (taught.accept u.ldr.cfg.z own record))) ∧
       (u.ctl.mode.doses = true → ¬ named → adopted →
         (uncounted → exec (.parcelReceived a b) s = .next (u.setTrk (taught.accept u.ldr.cfg.z own record))) ∧
         (¬ uncounted → exec (.parcelReceived a b) s = .next (u.setTrk
           ({ taught with adoptions := bump16 u.trk.adoptions }.accept u.ldr.cfg.z own record))))))

/-- R36–R39, R42: the continuity check, row by row; d is the distance from next_expected to first_seq. R4, R25: how
a record joins, by the case of its first_seq and by the room in the queue. A distance of exactly −32768 takes
the row of the earlier case by the model's reading (log 10), an earlier first_seq that joins takes flag OVERLAP
without a count (log 34), and a range that absorbing or merging carries beyond R1's 32768 numbers grows all the
same by the model's choice (log 48). -/
def Obligations.AcceptedRecordsJoinInLine : Prop :=
  (∀ (t : Tracker) (z own : Nat) (r : ParcelRec),
     (t.nextExpected = none → t.accept z own r = t.join z r) ∧
     (∀ ne, t.nextExpected = some ne →
       (let d := (r.firstSeq - ne).toInt
        (d = 0 → t.accept z own r = t.join z r) ∧
        (0 < d → t.brk.map (·.seq) = some r.firstSeq → t.accept z own r = { t with brk := none }.join z r) ∧
        (0 < d → d ≤ 64 → t.brk.map (·.seq) ≠ some r.firstSeq →
          t.accept z own r =
            ({ t.join z { firstSeq := ne, lastSeq := r.firstSeq - 1, entryMark := 0, exitMark := 0, dose := 0,
                          origin := BitVec.ofNat 8 own, flags := 2#8 } with
               placeholders := bump16 (t.join z (placeholder own ne (r.firstSeq - 1))).placeholders }).join z r) ∧
        (64 < d → t.brk.map (·.seq) ≠ some r.firstSeq → t.accept z own r =
          { t with resyncs := bump16 t.resyncs }.join z { r with flags := r.flags ||| 64#8 }) ∧
        (d < 0 → 0 < (ne - r.lastSeq).toInt → t.accept z own r = { t with duplicates := bump16 t.duplicates }) ∧
        (d < 0 → ¬ 0 < (ne - r.lastSeq).toInt → t.accept z own r =
          { t with overlaps := bump16 t.overlaps }.join z
            { r with firstSeq := ne, flags := r.flags ||| 128#8 })))) ∧
  (∀ (t : Tracker) (z : Nat) (r : ParcelRec),
     (let marked := { r with entryMark := t.counter, exitMark := t.counter + BitVec.ofNat 32 z }
      (t.queue = [] → t.join z r = { t with queue := [marked], nextExpected := some (r.lastSeq + 1) }) ∧
      (∀ q back, t.queue = q ++ [back] →
        (let d := (r.firstSeq - (back.lastSeq + 1)).toInt
         let joined (x : ParcelRec) : Tracker :=
           { t with
             nextExpected := some (x.lastSeq + 1)
             queue := if t.queue.length < 16 then t.queue ++ [x]
               else q ++ [{ back with lastSeq := x.lastSeq, dose := min back.dose x.dose
                                      flags := back.flags ||| x.flags ||| 4#8 }] }
         (d = 0 → t.join z r = joined marked) ∧
         (0 < d → t.join z r = joined { marked with firstSeq := back.lastSeq + 1, flags := r.flags ||| 64#8 }) ∧
         (d < 0 → 0 < (r.lastSeq - back.lastSeq).toInt →
           t.join z r = joined { marked with firstSeq := back.lastSeq + 1, flags := r.flags ||| 128#8 }) ∧
         (d < 0 → ¬ 0 < (r.lastSeq - back.lastSeq).toInt →
           t.join z r = { t with duplicates := bump16 t.duplicates })))))

/-! ### Frames of other wipers (R56, R161, R162) -/

/-- R161, R167: in WANT and CLAIMING a claim from below or a WIPE_ACTIVE from any other position of the channel puts
that position into the wait record for 120 s; from CLAIMING the bank withdraws, which is counted: its claim no
longer waits, or is marked withdrawn where it is in flight, and the rest of the bus stays (R184). Frames from
elsewhere, and in every other state, leave the wiper alone. R56: of the entries as the frame leaves them, the one
that stands at its source outside LOST shows the indication, set with age 0 by a WIPE_ACTIVE and clear after a
WIPE_DONE; with none or several, all stay as learned. R162, R159, R160: a WIPE_DONE from the position held, and the
end of its 120 s, empty the wait record; in WANT admission is judged at once, and an admitted wipe posts its claim
and enters CLAIMING. That with several entries at the source the indication belongs to none is the model's reading
(log 11), and that a WIPE_CLAIM of the own position does nothing to the wiper its choice (log 42). -/
def Obligations.WipesOfOthersAreWaitedFor : Prop :=
  ((∀ (a : Src) (s : State), TakesFrames s →
      (let p := a.pos.toNat
       let own := isBankAddress a = true ∧ a.chan.toNat = s.ldr.straps.channel
       let yields (u t : State) : Prop :=
         (u.wip.state = .want → t = u.setWip { u.wip with wait := some ⟨p, 120000⟩ }) ∧
         (u.wip.state = .claiming → t = (u.setWip { u.wip with
           state := .want, claim := none, window := none, wait := some ⟨p, 120000⟩
           withdrawals := bump16 u.wip.withdrawals }).setBus (claimTakenBack u.bus u.wip.claim)) ∧
         (u.wip.state ≠ .want → u.wip.state ≠ .claiming → t = u)
       (∃ t, exec (.wipeClaimReceived a) s = .next t ∧
         (own → p < s.ldr.straps.position → yields (learned s a) t) ∧
         (¬ own ∨ s.ldr.straps.position ≤ p → t = learned s a)) ∧
       (∃ t, exec (.wipeActiveReceived a) s = .next t ∧
         (own → p ≠ s.ldr.straps.position → yields (learnedWiping s a (some 0)) t) ∧
         (¬ own ∨ p = s.ldr.straps.position → t = learnedWiping s a (some 0))))) ∧
   (∀ (a : Src) (w : Option Nat) (s : State),
      (let u := learnedWiping s a w
       let v := learned s a
       let indicated (e : RosterEntry) (es : List RosterEntry) : List RosterEntry :=
         es.map fun g => if g.hasKey e.key then { g with wiping := w } else g
       let standsAt (es : List RosterEntry) : List RosterEntry := es.filter fun e => e.foreignAt a && !e.isLost
       (∀ e, standsAt v.ros.entries = [e] → u.ros.entries = indicated e v.ros.entries) ∧
       ((standsAt v.ros.entries).length ≠ 1 → u.ros.entries = v.ros.entries) ∧
       (isBankAddress a = true ∨ isPlantAddress a = true →
         (∀ e, standsAt s.ros.entries = [e] → u.ros.entries = judgeConflicts (s.ros.entries.map fun g =>
           if g.hasKey e.key then { g with lastHeard := 0, sinceLost := none, wiping := w } else g)) ∧
         (2 ≤ (standsAt s.ros.entries).length → u.ros.entries = judgeConflicts s.ros.entries))))) ∧
  ((let empties (u t : State) : Prop :=
     (let v := u.setWip { u.wip with wait := none }
      (u.wip.state ≠ .want ∨ admitted v = false → t = v) ∧
      (u.wip.state = .want → admitted v = true → u.bus.queue.length < 12 →
        t = (v.setWip { v.wip with state := .claiming, claim := some v.bus.nextTicket, window := none }).setBus
          (withPosted v .wipeClaim)))
    (∀ s : State, Runs s → s.wip.wait.isSome = true →
      ∃ t, exec .waitRecordExpiry s = .next t ∧ t.wip.wait = none ∧ empties s t) ∧
    (∀ (a : Src) (o : Byte) (s : State), TakesFrames s →
      (let u := learnedWiping s a none
       let held := isBankAddress a = true ∧ a.chan.toNat = s.ldr.straps.channel ∧
         u.wip.wait.map (·.pos) = some a.pos.toNat
       ∃ t, exec (.wipeDoneReceived a o) s = .next t ∧ (held → t.wip.wait = none ∧ empties u t) ∧
         (¬ held → t = u)))))

/-! ### Commands from plant stations (R107, R132, R143, R168, R196–R199) -/

/-- R196, R199: a COMMAND that is not aimed here from a plant station, and every COMMAND while a restart is pending,
is learned and counted as ignored, and nothing else. R196, R188: FAILSAFE refuses the five commands of the
blocks, and a code outside 1–7 is refused in every mode; the answer is one REPORT REFUSED that echoes the code,
held as the reply in LISTEN. -/
def Obligations.CommandsAreIgnoredOrRefused : Prop :=
  (∀ (c : Instr) (a : Src) (b : CommandBody) (s : State), IsCommand c a b → s.hold.held = false →
     s.ctl.mode ≠ .loading →
     (let u := learned s a
      let v := u.setCmd { u.cmd with ignored := bump16 u.cmd.ignored }
      (s.cmd.restart = none → ¬ AimedHere s a b → exec c s = .next v) ∧
      (∀ r, s.cmd.restart = some r → exec c s = .next (closeRestart v)))) ∧
  (∀ (c : Instr) (code : Byte) (a : Src) (b : CommandBody) (s : State), TakesFrames s → AimedHere s a b →
     (let u := readied s a
      let report : ReportBody := { code := code, outcome := 1, table := 0, start := 0, count := 0, records := [] }
      (IsOwnersCommand c code a b → u.ctl.mode = .failsafe → exec c s = .next (post u (.report report))) ∧
      (u.ctl.mode ≠ .listen → exec (.commandOtherCode a code b) s = .next (post u (.report report))) ∧
      (u.ctl.mode = .listen → exec (.commandOtherCode a code b) s =
        .next (u.setCmd { u.cmd with reply := some (.heldAnswer code 1) }))))

/-- R107: CLEAR_LAMP clears a fitted FAILED lamp whose ballast is not LOST, or with index 0 every such lamp, to OFF
at e_nom with its counts kept; any other index is refused. R188: the answer is a REPORT that echoes the code
with DONE, 0, or REFUSED, 1, held as the reply in LISTEN. R132: CLEAR_BALLAST is DONE for a configured LOST
ballast once readback has completed, which becomes PRESENT with miss count 0; in every other case it is REFUSED
and changes nothing. R143: CLEAR_SENSOR is DONE for a converted input in FAULT, whose fault state and runs clear
with its window kept; in every other case it is REFUSED and changes nothing. -/
def Obligations.ClearCommandsActOrAreRefused : Prop :=
  (∀ (a : Src) (b : CommandBody) (s : State), TakesFrames s → AimedHere s a b → (readied s a).ctl.mode ≠ .failsafe →
     (let u := readied s a
      let i := b.arg1.toNat
      let clearable (l : Lamp) : Bool :=
        l.fitted && decide (l.state = .failed) && !ballastLost u (ballastOf l.index)
      let cleared (l : Lamp) : Lamp :=
        { l with state := .off, slot := ⟨.off, 0⟩, cause := none, timer := 0, attempt := 0, e := u.ldr.cfg.eNom }
      let t := u.setSeq { u.seq with lamps := u.seq.lamps.map fun l =>
        if (i = 0 ∨ l.index = i) ∧ clearable l = true then cleared l else l }
      (i = 0 ∨ (∃ l, lampAt u i = some l ∧ clearable l = true) →
        ∃ v, exec (.clearLamp a b) s = .next v ∧ Answered 1 0 (lampEvent t) v) ∧
      (i ≠ 0 → (∀ l, lampAt u i = some l → clearable l = false) →
        ∃ v, exec (.clearLamp a b) s = .next v ∧ Answered 1 1 u v))) ∧
  (∀ (a : Src) (b : CommandBody) (s : State), TakesFrames s → AimedHere s a b → (readied s a).ctl.mode ≠ .failsafe →
     (let u := readied s a
      let i := b.arg1.toNat
      let done := u.link.phase = .running ∧ 1 ≤ i ∧ i ≤ u.link.count ∧ ballastLost u i = true
      let restored := u.setLink { u.link with
        ballasts := u.link.ballasts.map fun x => if x.addr = i then { x with lost := false, misses := 0 } else x }
      (done → ∃ v, exec (.clearBallast a b) s = .next v ∧ Answered 2 0 restored v) ∧
      (¬ done → ∃ v, exec (.clearBallast a b) s = .next v ∧ Answered 2 1 u v))) ∧
  (∀ (a : Src) (b : CommandBody) (s : State), TakesFrames s → AimedHere s a b → (readied s a).ctl.mode ≠ .failsafe →
     (let u := readied s a
      let i := b.arg1.toNat
      let converted := i < min u.ldr.cfg.nMod 6 ∨ (i = 6 ∧ u.ldr.straps.flowSrc = true) ∨
        (i = 7 ∧ u.ldr.straps.uvtSrc = true)
      let cleared := u.setScn { u.scn with
        inputs := u.scn.inputs.mapIdx fun k x =>
          if k = i then { x with fault := false, outRun := 0, validRun := 0 } else x }
      (converted → (inputAt u i).fault = true →
        ∃ v, exec (.clearSensor a b) s = .next v ∧ Answered 3 0 cleared v) ∧
      (¬ converted ∨ (inputAt u i).fault = false →
        ∃ v, exec (.clearSensor a b) s = .next v ∧ Answered 3 1 u v)))

/-- R168, R156, R158: WIPE_NOW is DONE from PARKED alone, to WANT, and CLEAR_WIPER from FAULT alone, to HOMING by
the limits as they stand; in every other state they are REFUSED and change nothing. R160: an admitted wipe posts
its claim. R196, R188: the answer is a REPORT that echoes the code with DONE, 0, or REFUSED, 1, held as the
reply in LISTEN. -/
def Obligations.WiperCommandsTakeTheirStates : Prop :=
  ∀ (a : Src) (b : CommandBody) (s : State), TakesFrames s → AimedHere s a b → (readied s a).ctl.mode ≠ .failsafe →
    (let u := readied s a
     let parked : Wiper := { u.wip with state := .parked, stroke := none, owed := false }
     let wanted := u.setWip { u.wip with state := .want }
     let owing := u.setWip { parked with state := .want }
     let claimed (v : State) : State :=
       post (v.setWip { v.wip with state := .claiming, claim := some u.bus.nextTicket, window := none }) .wipeClaim
     let now (outcome : Byte) (v : State) : Prop := ∃ t, exec (.wipeNow a b) s = .next t ∧ Answered 5 outcome v t
     let clear (outcome : Byte) (v : State) : Prop :=
       ∃ t, exec (.clearWiper a b) s = .next t ∧ Answered 4 outcome v t
     (u.wip.state = .parked → admitted wanted = false → now 0 wanted) ∧
     (u.wip.state = .parked → admitted wanted = true → now 0 (claimed wanted)) ∧
     (u.wip.state ≠ .parked → now 1 u) ∧
     (u.wip.state ≠ .fault → clear 1 u) ∧
     (u.wip.state = .fault → u.wip.whome = false →
       clear 0 (u.setWip { u.wip with state := .homing, stroke := some 0 })) ∧
     (u.wip.state = .fault → u.wip.whome = true → u.wip.wend = false →
       (u.wip.owed = false → clear 0 (u.setWip parked)) ∧
       (u.wip.owed = true → admitted owing = false → clear 0 owing) ∧
       (u.wip.owed = true → admitted owing = true → clear 0 (claimed owing))) ∧
     (u.wip.state = .fault → u.wip.whome = true → u.wip.wend = true → clear 0 (u.setWip { u.wip with
       state := .fault, stroke := none, release := none, claim := none, window := none, owed := false
       faults := bump16 u.wip.faults })))

/-- R199, R72: RESTART in LISTEN resets at once with no frame; elsewhere a REPORT DONE and a LEAVE are posted and
the restart is pending on both, and 1.0 s later the reset is taken whatever became of them. The tickets by which
the two frames are known are the model's (log 23). -/
def Obligations.RestartLeavesAndResets : Prop :=
  (∀ (a : Src) (b : CommandBody) (s : State), TakesFrames s → AimedHere s a b →
    (let u := readied s a
     let n := u.bus.nextTicket
     let done : ReportBody := { code := 6, outcome := 0, table := 0, start := 0, count := 0, records := [] }
     (u.ctl.mode = .listen →
       exec (.restart a b) s = .next (takeReset u { noHold with restart := true, restarting := true })) ∧
     (u.ctl.mode ≠ .listen → u.bus.queue.length ≤ 10 →
       ∃ t, exec (.restart a b) s = .next t ∧ OnlyChanges [.bus, .cmd] u t ∧
         t.cmd = { u.cmd with restart := some ⟨0, some n, some (n + 1)⟩ } ∧
         t.bus.queue = enqueue { src := ownSrc u, body := .leave 4, coll := 0, ticket := n + 1 }
           (enqueue { src := ownSrc u, body := .report done, coll := 0, ticket := n } u.bus.queue)))) ∧
  (∀ (s : State) (r : Restart), s.hold.held = false → s.cmd.restart = some r →
    exec .restartTimeout s = .next (takeReset s { noHold with restart := true, restarting := true }))

/-- R197, R187, R188: outside LISTEN a QUERY posts its first frame, the records from start as far as the table, the
count and the frame allow, and holds what is still owed; in LISTEN it is held. The ticket by which the frame is
known is the model's (log 23). -/
def Obligations.QueryBeginsItsReply : Prop :=
  ∀ (a : Src) (b : CommandBody) (s : State), TakesFrames s → AimedHere s a b →
    (let u := readied s a
     let table := b.arg1.toNat / 64
     let start := b.arg1.toNat % 64
     let size := if table = 0 then u.seq.lamps.length else if table = 1 then u.trk.queue.length
       else if table = 2 then u.ros.entries.length else 28
     let each := if table = 0 then 4 else if table = 1 then 4 else if table = 2 then 5 else 20
     let total := min b.arg2.toNat (size - start)
     let first := min total each
     let report : ReportBody :=
      { code := 7, outcome := 2, table := BitVec.ofNat 8 table, start := BitVec.ofNat 8 start,
        count := BitVec.ofNat 8 first, records := (((tableRecords u table).drop start).take first).flatten }
     (u.ctl.mode = .listen → exec (.query a b) s =
       .next (u.setCmd { u.cmd with reply := some (.heldQuery table start b.arg2.toNat) })) ∧
     (u.ctl.mode ≠ .listen → u.bus.queue.length < 12 → exec (.query a b) s =
       .next ((u.setCmd { u.cmd with
         reply := some (.running table (start + first) (total - first) u.bus.nextTicket) }).setBus
        (withPosted u (.report report)))))

/-- R188, R189: the bytes of a lamp, a queue and a roster record, and the 28 counters in their order. R8, R21: the
remaining volume of a record is the distance from the counter to its exit mark. For an origin outside 1–8 the
bits 23–21 of a queue record are a free value (log 16). -/
def Obligations.ReportRecordsAreLaidOut : Prop :=
  ∀ s : State,
    (let whole (n : Nat) : List Byte := bytes16 (BitVec.ofNat 16 n)
     (∀ (k : Nat) (l : Lamp), s.seq.lamps[k]? = some l → ∃ b0 b1 b2 b3 b4 b5 b6 b7 b8 : Byte,
       (tableRecords s 0)[k]? = some [b0, b1, b2, b3, b4, b5, b6, b7, b8] ∧
       b0.getLsbD 7 = l.fitted ∧ b0.getLsbD 3 = false ∧
       b0.extractLsb' 4 3 = (match l.state with
         | .off => 0 | .striking => 1 | .warming => 2 | .lit => 3 | .cooling => 4 | .failed => 5 | .locked => 6) ∧
       b0.extractLsb' 0 3 = (match l.cause with
         | none => 0 | some .noStrike => 1 | some .lampOpen => 2 | some .lampShort => 3 | some .ballastHot => 4
         | some .ballastLost => 5) ∧
       b1 = BitVec.ofNat 8 l.slot.level ∧ be16 b2 b3 = BitVec.ofNat 16 l.e ∧
       be24 b4 b5 b6 = BitVec.ofNat 24 l.runMinutes ∧ be16 b7 b8 = BitVec.ofNat 16 l.strikes) ∧
     (∀ (k : Nat) (r : ParcelRec), s.trk.queue[k]? = some r → ∃ b0 b1 b2 b3 b4 b5 b6 b7 b8 b9 : Byte,
       (tableRecords s 1)[k]? = some [b0, b1, b2, b3, b4, b5, b6, b7, b8, b9] ∧
       be16 b0 b1 = r.firstSeq ∧ be16 b2 b3 = r.lastSeq ∧ b7 = r.flags ∧
       (be24 b4 b5 b6).extractLsb' 0 20 = BitVec.ofNat 20 r.dose ∧
       (1 ≤ r.origin.toNat → r.origin.toNat ≤ 8 →
         (be24 b4 b5 b6).extractLsb' 21 3 = BitVec.ofNat 3 (r.origin.toNat - 1)) ∧
       be16 b8 b9 = (r.exitMark - s.trk.counter).extractLsb' 0 16 ∧
       (be24 b4 b5 b6).getLsbD 20 = (r.exitMark - s.trk.counter).getLsbD 16) ∧
     (∀ (k : Nat) (e : RosterEntry), s.ros.entries[k]? = some e → e.pos < 16 → ∃ b0 b1 b2 b3 b4 b5 b6 b7 : Byte,
       (tableRecords s 2)[k]? = some [b0, b1, b2, b3, b4, b5, b6, b7] ∧
       (let mode := if e.isSelf then some s.ctl.mode else e.mode
        let digest := if e.isSelf then s.ldr.digest else e.digest
        b0.extractLsb' 4 4 = BitVec.ofNat 4 e.chan ∧ b0.extractLsb' 0 4 = BitVec.ofNat 4 e.pos ∧
        be32 b1 b2 b3 b4 = e.serial.getD 0 ∧
        b5.extractLsb' 6 2 = (match e.state with | .heard => 0 | .active => 1 | .conflict => 2 | .lost => 3) ∧
        b5.extractLsb' 3 3 = (match mode with
          | none => 0 | some .loading => 0 | some .listen => 1 | some .dosing => 2 | some .hold => 3
          | some .isolated => 4 | some .failsafe => 5) ∧
        b5.getLsbD 2 = e.wiping.isSome ∧ b5.getLsbD 1 = digest.isSome ∧ b5.getLsbD 0 = e.flags.getLsbD 12 ∧
        be16 b6 b7 = digest.getD 0)) ∧
     tableRecords s 3 = [whole s.bus.rxErrors, whole s.bus.collisions, whole s.bus.dropped, whole s.bus.lost,
       whole s.bus.refusedDischarges, whole s.trk.placeholders, whole s.trk.resyncs, whole s.trk.duplicates,
       whole s.trk.overlaps, whole s.trk.adoptions, whole s.ros.unlearned, whole s.ros.isolation,
       whole s.link.misses, whole s.scn.sensorFaults, whole s.scn.foulRequests, whole s.wip.strokes,
       whole s.wip.faults, whole s.wip.withdrawals,
       bytes16 (s.trk.discharged.extractLsb' 16 16), bytes16 (s.trk.discharged.extractLsb' 0 16),
       bytes16 (s.trk.underdosed.extractLsb' 16 16), bytes16 (s.trk.underdosed.extractLsb' 0 16),
       bytes16 (s.trk.estimated.extractLsb' 16 16), bytes16 (s.trk.estimated.extractLsb' 0 16),
       whole s.bus.formatErrors, whole s.cmd.ignored,
       whole (match s.ldr.failure with
         | none => 0 | some .imageAbsent => 1 | some .imageCrc => 2 | some .imageRange => 3),
       whole (match s.ctl.resetCause with | .powerOn => 1 | .pin => 2 | .supply => 3 | .restart => 4)])

/-! ### The channel bus (R171–R177) -/

/-- R171, R173: the assembler's table, row by row, for a character of another station or of the part's own driver
(`sending`); a receive error is told where the table counts one, and never of the part's own frame. R171, R172:
from an idle line, a frame broken by a late character, and one that completes and fails its checks, each count
one receive error, and so does a character without mark 1; the assembler ends in SKIP, IDLE and SKIP. No other
block is touched. R176: while a frame of the part's own is in flight every character read is one read back, so
the three rows change nothing (log 4). The quiet before a character is carried by the command (log 21); that the
own frame is held as such in assembly and counts no error is the model's reading (log 22). That a character with
mark 1 whose stop bit reads 0 is taken as the framing error is the model's choice (log 47). -/
def Obligations.AssemblerTakesAndCountsErrors : Prop :=
  (∀ (chars : List Byte) (sending own : Bool) (c : RxChar),
     (let at_ (p : AsmPhase) : Assembler := ⟨p, chars, own⟩
      let begun : Assembler := ⟨.inFrame, [c.byte], sending⟩
      let skip : Assembler := ⟨.skip, [], false⟩
      (∀ p, 14 ≤ c.quiet → (at_ p).settle c.quiet =
        (⟨.idle, [], false⟩, decide (p = .inFrame) && !own && (judgeFrame chars).isNone)) ∧
      (∀ p, c.quiet < 14 → (at_ p).settle c.quiet = (at_ p, false)) ∧
      (c.stop = true → c.mark = true →
        (at_ .idle).take sending c = (begun, false) ∧ (at_ .inFrame).take sending c = (begun, !own) ∧
        (at_ .skip).take sending c = (begun, false)) ∧
      (c.stop = false ∨ c.mark = false →
        (at_ .idle).take sending c = (skip, !sending) ∧ (at_ .skip).take sending c = (skip, false)) ∧
      (c.stop = false → (at_ .inFrame).take sending c = (skip, !own)) ∧
      (c.stop = true → c.mark = false →
        (c.quiet ≤ 6 → chars.length < 53 →
          (at_ .inFrame).take sending c = (⟨.inFrame, chars ++ [c.byte], own⟩, false)) ∧
        (6 < c.quiet ∨ 53 ≤ chars.length → (at_ .inFrame).take sending c = (skip, !own))))) ∧
  ((∀ (s : State) (first : RxChar) (rest : List RxChar) (last : RxChar), s.hold.held = false →
      s.bus.inFlight = none → s.bus.asm = ⟨.idle, [], false⟩ →
      (let inLine (c : RxChar) : Prop := c.stop = true ∧ c.mark = false ∧ c.quiet ≤ 6
       let counted (p : AsmPhase) : State := s.setBus { s.bus with
         asm := ⟨p, [], false⟩, access := none, rxErrors := bump16 s.bus.rxErrors }
       (first.stop = true → first.mark = true → (∀ c ∈ rest, inLine c) → rest.length < 53 →
         (last.stop = true → last.mark = false → 6 < last.quiet → last.quiet < 14 →
           exec (.rxFrameBroken (first :: rest ++ [last])) s = .next (counted .skip)) ∧
         (judgeFrame ((first :: rest).map (·.byte)) = none →
           exec (.rxFrameRejected (first :: rest)) s = .next (counted .idle))) ∧
       (first.stop = false ∨ first.mark = false →
         exec (.idleMarkZeroCharacter first) s = .next (counted .skip)))) ∧
   (∀ (s : State) (run : List RxChar) (c : RxChar), s.bus.inFlight.isSome = true →
      exec (.rxFrameBroken run) s = .next s ∧ exec (.rxFrameRejected run) s = .next s ∧
      exec (.idleMarkZeroCharacter c) s = .next s))

/-- R174–R176, R171, R173: the quiet gap takes the served penalty, 36 or 0, completes the frame in assembly and
counts an error where that is another station's and fails its checks; the head leaves the queue and is in flight
once W, its class offset, the slot and the penalty, has elapsed on that access, and not before. R176: a frame in
flight completes exactly when every character read back is the one sent. R171, R185, R160, R197, R199: a
completed frame leaves the line, sets the served flag, clears BUS_FAULT and stands whole in the assembler as the
part's own; the bank's own claim opens the window; a restart waits for it no longer, and stays pending on its
other frame alone, or brings the reset with none left; the frame of a running reply brings the next one or the
end, and that of any other ticket leaves the reply as it stands. Characters read back that do not say so, and a
completion without a frame in flight, change nothing (log 4). That the commands carry the elapsed bit times and
the characters read back, that the own frame enters the assembler at its completion, and the tickets are the
model's readings (logs 21, 22 and 23); that a start before W has elapsed changes nothing is log 4's. -/
def Obligations.FramesAreStartedAndCompleted : Prop :=
  (∀ s : State, s.hold.held = false →
     (s.bus.inFlight = none → exec .quietGapEnd s = .next (s.setBus { s.bus with
       access := some (if s.bus.served then 36 else 0), asm := ⟨.idle, [], false⟩
       rxErrors := if s.bus.asm.phase = .inFrame ∧ s.bus.asm.own = false ∧ judgeFrame s.bus.asm.chars = none
         then bump16 s.bus.rxErrors else s.bus.rxErrors })) ∧
     (∀ (f : Frame) (q : List Frame) (penalty elapsed : Nat), s.bus.queue = f :: q →
       s.bus.access = some penalty → s.bus.inFlight = none →
       (let W := 72 * f.cls + slotOf s.ldr.straps.channel s.ldr.straps.position + penalty
        (W ≤ elapsed → exec (.transmitStart elapsed) s = .next (s.setBus { s.bus with
          queue := q, inFlight := some ⟨f, false⟩, access := none })) ∧
        (elapsed < W → exec (.transmitStart elapsed) s = .next s)))) ∧
  ((∀ (s : State) (x : InFlight), s.hold.held = false → s.bus.inFlight = some x →
      (let n := x.frame.ticket
       let b := { s.bus with
         inFlight := none, served := true, busFault := false
         asm := ⟨.inFrame, frameBytes x.frame.src x.frame.body, true⟩ }
       let w := if s.wip.state = .claiming ∧ s.wip.claim = some n then { s.wip with claim := none, window := some 0 }
         else s.wip
       let waits := s.cmd.restart.map fun r => { r with
         report := if r.report = some n then none else r.report
         leave := if r.leave = some n then none else r.leave }
       let told (r : Option Reply) : State :=
         ((s.setBus b).setWip w).setCmd { s.cmd with reply := r, restart := waits }
       ((∀ r, waits = some r → r.report ≠ none ∨ r.leave ≠ none) →
         ((∀ table next owed, s.cmd.reply ≠ some (.running table next owed n)) →
           exec (.transmitComplete (sentChars x)) s = .next (told s.cmd.reply)) ∧
         (∀ table next owed, s.cmd.reply = some (.running table next owed n) →
           (let size := if table = 0 then s.seq.lamps.length else if table = 1 then s.trk.queue.length
              else if table = 2 then s.ros.entries.length else 28
            let each := if table = 0 then 4 else if table = 1 then 4 else if table = 2 then 5 else 20
            let m := min (min owed each) (size - next)
            (owed = 0 ∨ size ≤ next → exec (.transmitComplete (sentChars x)) s = .next (told none)) ∧
            (1 ≤ owed → next < size → s.bus.queue.length < 12 → ∃ d, d.code = 7 ∧ d.outcome = 2 ∧
              d.table = BitVec.ofNat 8 table ∧ d.start = BitVec.ofNat 8 next ∧ d.count = BitVec.ofNat 8 m ∧
              d.records = (((tableRecords s table).drop next).take m).flatten ∧
              exec (.transmitComplete (sentChars x)) s =
                .next ((told (some (.running table (next + m) (owed - m) s.bus.nextTicket))).setBus
                  (withPosted (s.setBus b) (.report d))))))) ∧
       (∀ r, waits = some r → r.report = none → r.leave = none →
         ∃ t, exec (.transmitComplete (sentChars x)) s = .next t ∧ t.hold.held = true ∧ t.hold.restart = true ∧
           t.ctl.mode = .loading))) ∧
   (∀ (s : State) (read : List (BitVec 11)), s.hold.held = false →
      (∀ r, s.cmd.restart = some r → r.report ≠ none ∨ r.leave ≠ none) →
      (s.bus.inFlight = none → exec (.transmitComplete read) s = .next s) ∧
      (∀ x, s.bus.inFlight = some x → read ≠ sentChars x → exec (.transmitComplete read) s = .next s)))

/-- R176: a frame in flight meets a collision when, of the characters read back, the last alone differs in its 11
bits from the one sent; read back otherwise, or with none in flight, nothing changes (log 4). R177, R183, R184,
R185: a collision is counted on the frame and in the counts, and nothing is in flight after it; below 16 the
frame returns before its own class, unless a newer frame of its type waits, and from a full queue the last frame
is given up; at 16 the frame itself is, and BUS_FAULT set; a withdrawn one does not return, and a withdrawn
PARCEL is counted lost. What is given up has the consequence its type gives, and the last frame of a restart
brings the reset (R199). R171: the characters read back enter the assembler as the part's own; where it was
IDLE, those before the last stand collected, and the last by its start bit, its stop bit and its mark. That a
withdrawn frame which meets its sixteenth collision is only discarded (log 19), that the characters read back
enter the assembler with the collision, and that one whose start bit reads 1 begins no character (log 22), are
the model's readings; that the mark-1 character whose stop bit reads 0 is a framing error its choice (log 47). -/
def Obligations.CollisionReturnsTheFrame : Prop :=
  (∀ (s : State) (x : InFlight) (read : List (BitVec 11)), s.hold.held = false → s.bus.inFlight = some x →
     ReadBackDiffers x read →
     (∀ r, s.cmd.restart = some r → r.report ≠ none ∨ r.leave ≠ none) →
     (let f : Frame := { x.frame with coll := x.frame.coll + 1 }
      let b := { s.bus with
        inFlight := none, collisions := bump16 s.bus.collisions, asm := s.bus.asm.takeReadBack read }
      let without (g : Frame) (b : Bus) : Prop :=
        (¬ LastOfRestart s g.ticket → ∃ t, exec (.collision read) s = .next t ∧ GivenUp g b s t) ∧
        (LastOfRestart s g.ticket → ∃ t, exec (.collision read) s = .next t ∧ t.hold.held = true ∧ t.hold.restart = true)
      (x.withdrawn = false → x.frame.coll < 15 → s.bus.queue.any (sameRenewable f.body) = true →
        exec (.collision read) s = .next (s.setBus b)) ∧
      (x.withdrawn = false → x.frame.coll < 15 → s.bus.queue.any (sameRenewable f.body) = false →
        s.bus.queue.length < 12 →
        exec (.collision read) s = .next (s.setBus { b with queue := requeue f s.bus.queue })) ∧
      (x.withdrawn = false → x.frame.coll < 15 → s.bus.queue.any (sameRenewable f.body) = false →
        12 ≤ s.bus.queue.length → ∀ kept g, requeue f s.bus.queue = kept ++ [g] →
          without g { b with queue := kept, dropped := bump16 s.bus.dropped }) ∧
      (x.withdrawn = false → 15 ≤ x.frame.coll →
        without x.frame { b with dropped := bump16 s.bus.dropped, busFault := true }) ∧
      (x.withdrawn = true → exec (.collision read) s = .next (s.setBus
        (if f.isParcel then { b with lost := bump16 s.bus.lost } else b))))) ∧
  (∀ (s : State) (read : List (BitVec 11)), s.hold.held = false →
     (∀ r, s.cmd.restart = some r → r.report ≠ none ∨ r.leave ≠ none) →
     (s.bus.inFlight = none → exec (.collision read) s = .next s) ∧
     (∀ x, s.bus.inFlight = some x → ¬ ReadBackDiffers x read → exec (.collision read) s = .next s)) ∧
  (∀ (x : InFlight) (k : Nat) (r : BitVec 11), k < (sentChars x).length → k < 53 →
     (let bytes := (frameBytes x.frame.src x.frame.body).take k
      let byte := r.extractLsb' 1 8
      let idle : Assembler := ⟨.idle, [], false⟩
      let skip : Assembler := ⟨.skip, [], false⟩
      idle.takeReadBack ((sentChars x).take k ++ [r]) =
        if r.getLsbD 0 then (if k = 0 then idle else ⟨.inFrame, bytes, true⟩)
        else if r.getLsbD 10 = false then skip
        else if r.getLsbD 9 then ⟨.inFrame, [byte], true⟩
        else if k = 0 then skip else ⟨.inFrame, bytes ++ [byte], true⟩))

/-- R123, R124: a visit is 64 clock periods: the three command bytes most significant bit first, turnaround and
reply with BDO high, and the gap with both outputs idle; the bytes carry the address, the two actions and the
two levels sent. After the 64, and throughout with no visit in flight, in LOADING and in reset among others,
BCLK is low and BDO high; a reset ends an exchange at once. R125: the judgement of a reply, row by row in its
order; a reply built from sound fields is judged good as those fields, a good reply carries sound fields, and a
reply that is good at one address is a miss at every other. The places of the codes within a byte are the
model's (log 25). -/
def Obligations.ExchangesAreDrivenAndJudged : Prop :=
  (∀ (v : Visit) (l : Link),
     (let sent (h : SlotHalf) : Nat :=
        match h.action with
        | .off => 0 | .read => 0 | .strike => 10 | .on => h.level
      let action : SlotAction → Nat := fun
        | .off => 0 | .strike => 1 | .on => 2 | .read => 3
      let code (n : Nat) : BitVec 4 := BitVec.ofNat 4 n
      let command : BitVec 24 := BitVec.ofNat 8 v.ballast ++ code (action v.a.action) ++ code (action v.b.action) ++
        code (sent v.a) ++ code (sent v.b)
      v.exchange.length = 64 ∧
      (∀ k, k < 24 → v.exchange[k]? = some ⟨true, command.getLsbD (23 - k)⟩) ∧
      (∀ k, 24 ≤ k → k < 56 → v.exchange[k]? = some ⟨true, true⟩) ∧
      (∀ k, 56 ≤ k → k < 64 → v.exchange[k]? = some ⟨false, true⟩) ∧
      (l.visit = some v → (∀ k, k < 64 → v.exchange[k]? = some (l.outputs k)) ∧
        ∀ k, 64 ≤ k → l.outputs k = ⟨false, true⟩) ∧
      (l.visit = none → ∀ k, l.outputs k = ⟨false, true⟩))) ∧
  (∀ k, State.reset.link.outputs k = ⟨false, true⟩) ∧
  (∀ (c : Instr) (s t : State), s.hold.held = false → exec c s = .next t → t.hold.held = true →
     ∀ k, t.link.outputs k = ⟨false, true⟩) ∧
  (∀ (addr : Nat) (w : BitVec 24),
     (let code (k : Nat) : Nat := (w.toNat / 16 ^ (5 - k)) % 16
      let sum := addr + code 0 + code 1 + code 2 + code 3 + code 4
      let lampForm (st lv : Nat) : Prop := st ≤ 4 ∧ (st = 2 → 5 ≤ lv ∧ lv ≤ 10) ∧ (st ≠ 2 → lv = 0)
      let formed := lampForm (code 0) (code 1) ∧ lampForm (code 2) (code 3) ∧ code 4 ≤ 2
      (w.toNat = 2 ^ 24 - 1 → judgeReply addr w = .miss .noReply) ∧
      (w.toNat ≠ 2 ^ 24 - 1 → code 5 ≠ sum % 16 → judgeReply addr w = .miss .badChecksum) ∧
      (w.toNat ≠ 2 ^ 24 - 1 → code 5 = sum % 16 → ¬ formed → judgeReply addr w = .miss .malformed) ∧
      (w.toNat ≠ 2 ^ 24 - 1 → code 5 = sum % 16 → formed → ∃ r, judgeReply addr w = .good r ∧
        reportSound r.a ∧ reportSound r.b ∧ r.a.level = code 1 ∧ r.b.level = code 3 ∧ replyBits addr r = w))) ∧
  (∀ (addr : Nat) (r : BallastReply), reportSound r.a → reportSound r.b →
     judgeReply addr (replyBits addr r) = .good r ∧
     ∀ other, other % 16 ≠ addr % 16 → ∃ k, judgeReply other (replyBits addr r) = .miss k)

/-! ### Ballasts and lamps (R96–R119, R123–R134) -/

/-- R131, R104: a reply judged a miss counts, at the ballast up to three, when it is LOST and its lamps fail; during
readback the same ballast is visited again until the third, after which the next is visited or the table built.
Bits judged good are no event of this row (log 4). R130, R103, R133, R134, R117: a reply judged good makes the
ballast PRESENT with miss count 0 and its class; after readback the class, then lamp A, then lamp B are taken
and the judgements made once; in readback the finding is kept and the next ballast visited, or the table is
built from the findings. Bits judged a miss are no event of this row (log 4). R102–R104: a ballast LOST or hot
fails each of its fitted lamps that stands in neither FAILED nor LOCKED, with the cause, OFF and from 0 s, and
no other lamp, and asks for an urgent visit where one has failed. R101, R118, R102: a reported status moves a
fitted lamp by its table, that lamp alone, and a lamp it fails asks for the visit. R129: a request places a
configured ballast behind the list, once. That a request for an unconfigured ballast places nothing (log 18),
that a loss during readback asks for no urgent visit (log 17), and that the table built at readback is judged in
the same event (log 40), are the model's readings. -/
def Obligations.RepliesAndMissesAreTakenInOrder : Prop :=
  (∀ (w : BitVec 24) (s : State) (v : Visit), s.hold.held = false → s.link.visit = some v →
     (let missed := s.link.ballasts.map fun x => if x.addr = v.ballast then
         (if x.lost then x else { x with misses := x.misses + 1, lost := decide (2 ≤ x.misses) }) else x
      let u := s.setLink { s.link with visit := none, ballasts := missed, misses := bump16 s.link.misses }
      (∀ r, judgeReply v.ballast w = .good r → exec (.ballastMiss w) s = .next s) ∧
      (∀ k, judgeReply v.ballast w = .miss k →
        (s.link.phase = .running → ballastLost s v.ballast = true ∨ ballastLost u v.ballast = false →
          exec (.ballastMiss w) s = .next (lampEvent u)) ∧
        (s.link.phase = .running → ballastLost s v.ballast = false → ballastLost u v.ballast = true →
          exec (.ballastMiss w) s = .next (lampEvent (failBallast u v.ballast .ballastLost))) ∧
        (∀ fs, s.link.phase = .readback fs → ballastLost u v.ballast = false →
          exec (.ballastMiss w) s = .next (beginVisit u v.ballast)) ∧
        (∀ fs, s.link.phase = .readback fs → ballastLost u v.ballast = true → fs.length + 1 < s.link.count →
          exec (.ballastMiss w) s = .next (beginVisit
            (u.setLink { u.link with phase := .readback (fs ++ [none]) }) (fs.length + 2))) ∧
        (∀ fs, s.link.phase = .readback fs → ballastLost u v.ballast = true → s.link.count ≤ fs.length + 1 →
          exec (.ballastMiss w) s = .next (tableBuilt u (fs ++ [none])))))) ∧
  (∀ (w : BitVec 24) (s : State) (v : Visit), s.hold.held = false → s.link.visit = some v →
     (∀ k, judgeReply v.ballast w = .miss k → exec (.ballastGoodReply w) s = .next s) ∧
     (∀ r, judgeReply v.ballast w = .good r →
       (let u := s.setLink { s.link with
          visit := none
          ballasts := s.link.ballasts.map fun x =>
            if x.addr = v.ballast then { x with lost := false, misses := 0, cls := r.cls } else x }
        let hot := if r.cls = .hot then failBallast u v.ballast .ballastHot else u
        (s.link.phase = .running → exec (.ballastGoodReply w) s = .next (lampEvent
          (statusEvent (statusEvent hot (2 * v.ballast - 1) r.a.status) (2 * v.ballast) r.b.status))) ∧
        (∀ fs, s.link.phase = .readback fs → fs.length + 1 < s.link.count →
          exec (.ballastGoodReply w) s = .next (beginVisit
            (u.setLink { u.link with phase := .readback (fs ++ [some r]) }) (fs.length + 2))) ∧
        (∀ fs, s.link.phase = .readback fs → s.link.count ≤ fs.length + 1 →
          exec (.ballastGoodReply w) s = .next (tableBuilt u (fs ++ [some r])))))) ∧
  ((∀ (s : State) (b : Nat) (cause : FailCause),
      ((∀ l ∈ s.seq.lamps, (l.index + 1) / 2 = b → l.fitted = true → l.state = .failed ∨ l.state = .locked) →
        failBallast s b cause = s) ∧
      ((∃ l ∈ s.seq.lamps, (l.index + 1) / 2 = b ∧ l.fitted = true ∧ l.state ≠ .failed ∧ l.state ≠ .locked) →
        failBallast s b cause = requestUrgent (s.setSeq { s.seq with lamps := s.seq.lamps.map fun l =>
          if (l.index + 1) / 2 = b ∧ l.fitted = true ∧ l.state ≠ .failed ∧ l.state ≠ .locked then
            { l with state := .failed, slot := ⟨.off, 0⟩, cause := some cause, timer := 0, attempt := 0 }
          else l }) b)) ∧
   (∀ (s : State) (i : Nat) (st : LampStatus),
      (lampAt s i = none → statusEvent s i st = s) ∧
      (∀ l, lampAt s i = some l →
        (l.fitted = false → statusEvent s i st = s) ∧
        (l.fitted = true →
          (let g := if s.ctl.mode = .failsafe then takeStatusFailsafe l st else takeStatus s.seq.level l st
           let u := s.setSeq { s.seq with lamps := s.seq.lamps.map fun x => if x.index = i then g else x }
           (l.state ≠ .failed → g.state = .failed → statusEvent s i st = requestUrgent u ((i + 1) / 2)) ∧
           (l.state = .failed ∨ g.state ≠ .failed → statusEvent s i st = u))))) ∧
   (∀ (s : State) (b : Nat),
      (b ≤ s.link.count → b ∉ s.link.urgent →
        requestUrgent s b = s.setLink { s.link with urgent := s.link.urgent ++ [b] }) ∧
      (s.link.count < b ∨ b ∈ s.link.urgent → requestUrgent s b = s)))

/-- R101, R98, R100, R118: what a reported status does to a fitted lamp, every pair: outside FAILSAFE and in it.
R117, R118: the first row of the readback table that holds for a lamp, and L, the highest level reported among
the lamps that go to LIT within 50–100 %, and 100 % where there is none and in FAILSAFE. That a lamp reported as
it stands keeps its state timer in FAILSAFE is the model's reading (log 30). -/
def Obligations.ReportsMoveTheLamps : Prop :=
  (∀ (l : Lamp) (level : Nat),
     (let off := { l with slot := ⟨.off, 0⟩, timer := 0, attempt := 0 }
      let failed (c : FailCause) : Lamp := { off with state := .failed, cause := some c }
      let cooling : Lamp := { off with state := .cooling, cause := none }
      let full (st : LampState) : Lamp :=
        { l with state := st, slot := ⟨.strike, 10⟩, cause := none, timer := 0, attempt := 0 }
      let burning := l.state = .warming ∨ l.state = .lit
      (l.state = .striking → takeStatus level l .lit =
        { l with state := .warming, slot := ⟨.on, 10⟩, cause := none, timer := 0, attempt := 0 }) ∧
      (burning → takeStatus level l .off = cooling ∧ takeStatus level l .striking = cooling) ∧
      (burning ∨ l.state = .striking → takeStatus level l .openCircuit = failed .lampOpen ∧
        takeStatus level l .shortCircuit = failed .lampShort) ∧
      (burning → takeStatus level l .lit = l) ∧
      (l.state = .striking → takeStatus level l .off = l ∧ takeStatus level l .striking = l) ∧
      (¬ burning → l.state ≠ .striking → ∀ st, takeStatus level l st = l) ∧
      (l.state = .off → takeStatusFailsafe l .lit = full .lit ∧ takeStatusFailsafe l .off = l ∧
        takeStatusFailsafe l .striking = l) ∧
      (l.state = .lit → takeStatusFailsafe l .off = full .off ∧ takeStatusFailsafe l .striking = full .off ∧
        takeStatusFailsafe l .lit = l) ∧
      (l.state = .off ∨ l.state = .lit → takeStatusFailsafe l .openCircuit = failed .lampOpen ∧
        takeStatusFailsafe l .shortCircuit = failed .lampShort) ∧
      (l.state ≠ .off → l.state ≠ .lit → ∀ st, takeStatusFailsafe l st = l))) ∧
  (∀ (s : State) (fs : List (Option BallastReply)),
     (∀ (level : Nat) (l : Lamp),
       (let b := builtLamp s fs level l
        let found := findingFor fs l.index
        let out (c : Option FailCause) : Prop := b.cause = c ∧ b.slot = ⟨.off, 0⟩
        (l.fitted = false → b.state = .off ∧ out none) ∧
        (l.fitted = true → lockoutOpenAt s (moduleOf l.index) = true → b.state = .locked ∧ out none) ∧
        (l.fitted = true → lockoutOpenAt s (moduleOf l.index) = false →
          (found = none → b.state = .failed ∧ out (some .ballastLost)) ∧
          (∀ r, found = some r →
            (r.cls = .hot → b.state = .failed ∧ out (some .ballastHot)) ∧
            (r.cls ≠ .hot →
              (let st := (if l.index % 2 = 1 then r.a else r.b).status
               (st = .openCircuit → b.state = .failed ∧ out (some .lampOpen)) ∧
               (st = .shortCircuit → b.state = .failed ∧ out (some .lampShort)) ∧
               (st = .lit → b.state = .lit ∧ b.cause = none ∧
                 b.slot = if s.ctl.mode = .failsafe then ⟨.strike, 10⟩ else ⟨.on, level⟩) ∧
               (st = .off ∨ st = .striking → b.state = .off ∧ b.cause = none ∧
                 b.slot = if s.ctl.mode = .failsafe then ⟨.strike, 10⟩ else ⟨.off, 0⟩))))) ∧
        b = { l with state := b.state, slot := b.slot, cause := b.cause, timer := 0, attempt := 0 })) ∧
     (let lit (l : Lamp) : Prop := l ∈ s.seq.lamps ∧ (builtLamp s fs 10 l).state = .lit
      let reported (l : Lamp) : Nat :=
        match findingFor fs l.index with
        | some r => (if l.index % 2 = 1 then r.a else r.b).level
        | none => 0
      (s.ctl.mode = .failsafe ∨ (∀ l, ¬ lit l) → readbackLevel s fs = 10) ∧
      (s.ctl.mode ≠ .failsafe → ∀ l, lit l →
        max 5 (min 10 (reported l)) ≤ readbackLevel s fs ∧
        ∃ g, lit g ∧ readbackLevel s fs = max 5 (min 10 (reported g)))))

/-- R137: a scan that falls due begins, or waits for the scan in progress. R128, R129: a cycle that falls due on an
idle link begins at once, with the urgent list first and then ballast 1; with a visit in flight it is noted and
waits. R128, R129: at the end of every event that reached the lamps a link that runs and has no visit in flight
takes the next one, with the slots as the event leaves them: the first of the urgent list, which leaves it, the
cursor staying; otherwise the ballast at the cursor, which moves on; past the highest ballast the cycle ends, or the
one that is due begins: that a cycle due during a visit of the previous cycle waits for that cycle to complete, and
not for that visit alone, is the model's choice between two sentences of R128 (log 49). A visit in flight, and
readback, are left alone. R93, R126: the visit of ballast b carries the slot half of lamp 2b − 1 as its half A and
that of lamp 2b as its half B, READ with no level where the table holds no such lamp. That a scan in progress is
held as a count is the model's (log 24). -/
def Obligations.ScansAndPollCyclesBegin : Prop :=
  (∀ s : State, s.hold.held = false → s.scn.timer.isSome = true →
     (s.scn.scan = none →
       exec .scanStart s = .next (s.setScn { s.scn with scan := some 0, timer := some 0 })) ∧
     (∀ n, s.scn.scan = some n → exec .scanStart s = .next (s.setScn { s.scn with scanDue := true }))) ∧
  (∀ s : State, s.hold.held = false → s.link.phase = .running →
     (s.link.visit.isSome = true → exec .pollCycleDue s = .next (s.setLink { s.link with cycleDue := true })) ∧
     (s.link.visit = none → s.link.cycleRunning = false → s.link.urgent = [] → 1 ≤ s.link.count →
       exec .pollCycleDue s = .next (s.setLink { s.link with
         visit := some (visitOf s 1), cursor := 2, cycleTimer := some 0, cycleRunning := true, cycleDue := false })) ∧
     (∀ b rest, s.link.visit = none → s.link.cycleRunning = false → s.link.urgent = b :: rest →
       exec .pollCycleDue s = .next (s.setLink { s.link with
         visit := some (visitOf s b), cursor := 1, urgent := rest, cycleTimer := some 0, cycleRunning := true,
         cycleDue := false }))) ∧
  ((∀ (s : State) (b : Nat),
      (let half (i : Nat) : SlotHalf :=
         match s.seq.lamps.find? (fun l => l.index == i) with
         | some l => l.slot
         | none => ⟨.read, 0⟩
       visitOf s b = ⟨b, half (2 * b - 1), half (2 * b)⟩)) ∧
   (∀ s : State,
      (let t := lampEvent s
       let l := s.link
       let begun := { l with cursor := 1, cycleTimer := some 0, cycleRunning := true, cycleDue := false }
       (l.phase ≠ .running ∨ l.visit.isSome = true → t.link = l) ∧
       (l.phase = .running → l.visit = none →
         (∀ b rest, l.urgent = b :: rest →
           (l.cycleRunning = true ∨ l.cycleDue = false →
             t.link = { l with visit := some (visitOf t b), urgent := rest }) ∧
           (l.cycleRunning = false → l.cycleDue = true →
             t.link = { begun with visit := some (visitOf t b), urgent := rest })) ∧
         (l.urgent = [] →
           (l.cycleRunning = true → l.cursor ≤ l.count →
             t.link = { l with visit := some (visitOf t l.cursor), cursor := l.cursor + 1 }) ∧
           (l.cycleRunning = true → l.count < l.cursor → l.cycleDue = false →
             t.link = { l with cycleRunning := false }) ∧
           (l.cycleRunning = true → l.count < l.cursor → l.cycleDue = true →
             t.link = { begun with visit := some (visitOf t 1), cursor := 2 }) ∧
           (l.cycleRunning = false → l.cycleDue = false → t.link = l) ∧
           (l.cycleRunning = false → l.cycleDue = true → 1 ≤ l.count →
             t.link = { begun with visit := some (visitOf t 1), cursor := 2 }))))))

/-- R96, R98, R99, R102, R119: the expiries of a lamp's own timer and of its run minute: the lamp's new record, and
then the judgements of R108; a run minute moves no other lamp and nothing else. A lamp in another state is left
alone. R112: the day timer's expiry clears strikes this day of all lamps and runs on from 0; total strikes and
every other field stay. R108, R109, R113, R114: the spacing timer's expiry frees the strike rule; the hold-off's
600 s put out the LIT lamp with the most run minutes, on a warm ballast where one of them is, and of the highest
index, restart the timer, and the judgements follow; a timer that is not running has no expiry. The field
attempt is the model's (log 28); that a timer that does not run, or a lamp timer without its lamp in that state,
changes nothing is the model's reading (log 4). -/
def Obligations.LampAndSequencerTimersAreTaken : Prop :=
  (∀ (i : Nat) (s : State), s.hold.held = false →
     (let change (f : Lamp → Lamp) : State :=
       s.setSeq { s.seq with lamps := s.seq.lamps.map fun l => if l.index = i then f l else l }
      let standing (st : LampState) : Prop := ∃ l, lampAt s i = some l ∧ l.fitted = true ∧ l.state = st
      (∀ l, lampAt s i = some l → l.fitted = true → l.state = .striking →
        (l.attempt < 3 → exec (.strikeAttemptExpiry i) s = .next (lampEvent (change fun g =>
          { g with attempt := g.attempt + 1, timer := 3000 * g.attempt, strikes := bump16 g.strikes
                   strikesDay := min (g.strikesDay + 1) 255 }))) ∧
        (3 ≤ l.attempt → exec (.strikeAttemptExpiry i) s = .next (lampEvent (requestUrgent (change fun g =>
          { g with state := .failed, slot := ⟨.off, 0⟩, cause := some .noStrike, timer := 0, attempt := 0 })
          ((i + 1) / 2))))) ∧
      (¬ standing .striking → exec (.strikeAttemptExpiry i) s = .next s) ∧
      (standing .warming → s.ctl.mode ≠ .failsafe → exec (.warmupEnd i) s = .next (lampEvent (change fun g =>
        { g with state := .lit, slot := ⟨.on, s.seq.level⟩, cause := none, timer := 0, attempt := 0 }))) ∧
      (¬ standing .warming → exec (.warmupEnd i) s = .next s) ∧
      (standing .cooling → s.ctl.mode ≠ .failsafe → exec (.coolingEnd i) s = .next (lampEvent (change fun g =>
        { g with state := .off, slot := ⟨.off, 0⟩, cause := none, timer := 0, attempt := 0 }))) ∧
      (standing .cooling → s.ctl.mode = .failsafe → exec (.coolingEnd i) s = .next (lampEvent (change fun g =>
        { g with state := .off, slot := ⟨.strike, 10⟩, cause := none, timer := 0, attempt := 0 }))) ∧
      (¬ standing .cooling → exec (.coolingEnd i) s = .next s) ∧
      exec (.runMinute i) s = .next (s.setSeq { s.seq with lamps := s.seq.lamps.map fun l =>
        if l.index = i ∧ (l.state = .lit ∨ l.state = .warming ∨ 60000 ≤ l.residue) then
          { l with runMinutes := min (l.runMinutes + 1) 16777215, residue := l.residue - 60000 } else l }))) ∧
  (∀ s : State, s.hold.held = false →
     exec .dayTimerExpiry s = .next (s.setSeq { s.seq with
       day := 0, lamps := s.seq.lamps.map fun l => { l with strikesDay := 0 } })) ∧
  (∀ s : State, s.hold.held = false →
     (s.seq.spacing.isSome = true →
       exec .strikeSpacingExpiry s = .next (lampEvent (s.setSeq { s.seq with spacing := none }))) ∧
     (s.seq.spacing = none → exec .strikeSpacingExpiry s = .next s) ∧
     (s.seq.holdoff = none → exec .extinguishHoldoffExpiry s = .next s) ∧
     (s.seq.holdoff.isSome = true → (∀ l ∈ s.seq.lamps, l.state ≠ .lit) →
       exec .extinguishHoldoffExpiry s = .next (lampEvent s)) ∧
     (s.seq.holdoff.isSome = true → s.ctl.mode ≠ .failsafe → s.seq.lamps.any Lamp.isLit = true →
       (let most (l : Lamp) : Prop := l ∈ s.seq.lamps ∧ l.state = .lit ∧
          ∀ g ∈ s.seq.lamps, g.state = .lit → g.runMinutes ≤ l.runMinutes
        let onWarm (l : Lamp) : Prop := ballastClass s ((l.index + 1) / 2) = .warm
        let first (l : Lamp) : Prop := most l ∧ ((∃ g, most g ∧ onWarm g) → onWarm l)
        ∃ l, first l ∧ (LampsInv s → ∀ g, first g → g.index ≤ l.index) ∧
          exec .extinguishHoldoffExpiry s = .next (lampEvent (s.setSeq { s.seq with
            holdoff := some 0
            lamps := s.seq.lamps.map fun g => if g.index = l.index then
              { g with state := .cooling, slot := ⟨.off, 0⟩, cause := none, timer := 0, attempt := 0 } else g })))))

/-- R105, R106, R139: a lockout input that has stood at its new level for 50 ms moves, one that has stood shorter
changes nothing. A lockout that opens takes the module's fitted lamps to LOCKED with both ballasts urgent, one that
closes takes those LOCKED to COOLING, or to FAILED where the ballast is LOST, with that ballast urgent (R102); then
the judgements of R108 follow, and no other lamp moves but by them. A ballast that is configured and not yet on the
urgent list joins its end (R129; log 18). Before readback completes only the debounced state moves, and a scan in
progress is begun again. That the time is carried in whole milliseconds is the model's choice (log 8), and the count
of scans begun again is the model's (log 24); that an open lockout opened, or a closed one closed, changes nothing
is the model's reading (log 4). -/
def Obligations.LockoutsMoveTheModule : Prop :=
  (∀ (m ms : Nat) (s : State), ms < 50 →
    exec (.lockoutOpen m ms) s = .next s ∧ exec (.lockoutClose m ms) s = .next s) ∧
  ∀ (m ms : Nat) (s : State), s.hold.held = false → 1 ≤ m → m ≤ 6 → 50 ≤ ms →
    (let again (v : BitVec 6) : State :=
       (s.setSeq { s.seq with lockouts := v }).setScn { s.scn with scan := s.scn.scan.map (· + 1) }
     let urgently (b : Nat) (u : State) : State :=
       if b ≤ u.link.count ∧ b ∉ u.link.urgent then u.setLink { u.link with urgent := u.link.urgent ++ [b] } else u
     let opened := again (s.seq.lockouts ||| BitVec.twoPow 6 (m - 1))
     let closed := again (s.seq.lockouts &&& ~~~(BitVec.twoPow 6 (m - 1)))
     let was := s.seq.lockouts.getLsbD (m - 1)
     (was = true → exec (.lockoutOpen m ms) s = .next s) ∧
     (was = false → exec (.lockoutClose m ms) s = .next s) ∧
     (was = false → s.link.phase ≠ .running → exec (.lockoutOpen m ms) s = .next opened) ∧
     (was = true → s.link.phase ≠ .running → exec (.lockoutClose m ms) s = .next closed) ∧
     (was = false → s.link.phase = .running → exec (.lockoutOpen m ms) s = .next (lampEvent (urgently (2 * m)
       (urgently (2 * m - 1) (opened.setSeq { opened.seq with lamps := s.seq.lamps.map fun l =>
         if (l.index + 3) / 4 = m ∧ l.fitted = true then
           { l with state := .locked, slot := ⟨.off, 0⟩, cause := none, timer := 0, attempt := 0 } else l }))))) ∧
     (was = true → s.link.phase = .running → LampsInv s →
       (let fails (b : Nat) : Bool := ballastLost s b &&
          s.seq.lamps.any fun l => (l.index + 1) / 2 == b && l.fitted && decide (l.state = .locked)
        let asked (b : Nat) (u : State) : State := if fails b then urgently b u else u
        let left (l : Lamp) : Lamp :=
          if (l.index + 3) / 4 = m ∧ l.fitted = true ∧ l.state = .locked then
            if ballastLost s ((l.index + 1) / 2) then
              { l with state := .failed, slot := ⟨.off, 0⟩, cause := some .ballastLost, timer := 0, attempt := 0 }
            else { l with state := .cooling, slot := ⟨.off, 0⟩, cause := none, timer := 0, attempt := 0 }
          else l
        let moved := closed.setSeq { closed.seq with lamps := s.seq.lamps.map left }
        exec (.lockoutClose m ms) s = .next (lampEvent (asked (2 * m) (asked (2 * m - 1) moved))))))

/-- R108, R109, R113, R115, R89: the judgements that close a lamp event change lamps in two ways only: one fitted
OFF lamp may enter STRIKING, with no lamp striking and the spacing timer expired, and LIT lamps take the common
level. From the completion of readback, outside FAILSAFE, every LIT lamp then asks ON at the common level, which is
F_req over F_lit_full rounded up to tenths within 50–100 %, and 100 % without light, and the hold-off timer runs
while the extinguish condition holds and is idle otherwise; before and in FAILSAFE the sequencer stays. F_req is
F_min in LISTEN and F_max in ISOLATED. R108, R121, R79, R78: a lapse of the transmittance and a UVT from a bank end
with these judgements at the new G; a completion of a scan ends with them at the mode, the transmittance and the
output estimates it leaves, after those of the entry into ISOLATED where the flow it hands on isolates the bank; the
end of LISTEN ends with them in the mode it enters. -/
def Obligations.LampJudgementsStrikeOrLevel : Prop :=
  ((∀ s : State, s.hold.held = false → s.pln.uvtSource.isSome = true →
      exec .uvtSourceLapse s = .next (lampEvent (s.setPln { s.pln with uvt := .stale, uvtSource := none }))) ∧
   (∀ (a : Src) (b : ReadingBody) (s : State), TakesFrames s → isBankAddress a = true →
      (let v := learned s a
       ∃ t, exec (.uvtReceived a b) s = .next t ∧ t = lampEvent (v.setPln { v.pln with
         uvt := t.pln.uvt, uvtSource := t.pln.uvtSource, uvtDup := t.pln.uvtDup }))) ∧
   (∀ (raw : List (BitVec 10)) (fdir : Bool) (s : State), Runs s → s.scn.scan.isSome = true →
      ∃ t, exec (.scanComplete raw fdir) s = .next t ∧
        (let learnt := (setMode s t.ctl.mode).setSeq { s.seq with
           lamps := List.zipWith (fun l g => { l with e := g.e }) s.seq.lamps t.seq.lamps }
         let judged := if t.ctl.mode = .isolated ∧ s.ctl.mode ≠ .isolated then lampEvent learnt else learnt
         EndsAsLampEvent (judged.setPln { judged.pln with uvt := t.pln.uvt }) t)) ∧
   (∀ s : State, Runs s → s.ctl.mode = .listen →
      ∃ t, exec .listenEnd s = .next t ∧ EndsAsLampEvent (setMode s t.ctl.mode) t)) ∧
  ∀ s : State, LampsInv s →
    (let t := lampEvent s
     let judging := s.link.phase = .running ∧ s.ctl.mode ∈ [.listen, .dosing, .hold, .isolated]
     OnlyChanges [.pln, .seq, .link] s t ∧
     t.pln = { s.pln with fReq := t.pln.fReq } ∧
     List.Forall₂ (fun l g => g = l ∨ (l.state = .lit ∧ g = { l with slot := ⟨.on, t.seq.level⟩ }) ∨
       (l.state = .off ∧ l.fitted = true ∧ g = l.strike)) s.seq.lamps t.seq.lamps ∧
     (t.seq.lamps.countP fun l => l.state = .striking) ≤
       max 1 (s.seq.lamps.countP fun l => l.state = .striking) ∧
     (s.seq.spacing.isSome = true → t.seq.spacing = s.seq.spacing ∧
       ∀ g ∈ t.seq.lamps, g.state = .striking → g ∈ s.seq.lamps) ∧
     (¬ judging → t.seq = s.seq) ∧
     (judging →
       (∀ g ∈ t.seq.lamps, g.state = .lit → g.slot = ⟨.on, t.seq.level⟩) ∧
       t.seq.level = (if fLitFull s = 0 then 10
         else max 5 (min 10 ((10 * t.pln.fReq + fLitFull s - 1) / fLitFull s))) ∧
       t.seq.holdoff = (if 100 * t.pln.fReq < 45 * fLitFull s ∧
           s.ldr.cfg.minLit < s.seq.lamps.countP (fun l => l.state = .lit)
         then some (s.seq.holdoff.getD 0) else none)) ∧
     (s.ctl.mode = .dosing ∨ s.ctl.mode = .hold → t.pln.fReq = s.pln.fReq) ∧
     (s.ctl.mode = .listen → t.pln.fReq = fMin s) ∧ (s.ctl.mode = .isolated → t.pln.fReq = fMax t))

/-- R109–R111, R96: after a lamp event the strike rule strikes exactly when no lamp strikes, the spacing timer has
expired, a lamp is eligible, and the light or the lamps committed fall short; the lamp struck is of the eligible
ones within the day budget where there are such, with the fewest run minutes, off a warm ballast where one of
them is, and of the lowest index; it enters STRIKING with attempt 1 and the spacing timer restarts. -/
def Obligations.StrikeRuleStrikesItsLamp : Prop :=
  ∀ s : State, LampsInv s → s.link.phase = .running → s.ctl.mode ∈ [.listen, .dosing, .hold, .isolated] →
    (let t := lampEvent s
     let eligible (l : Lamp) : Prop := l ∈ s.seq.lamps ∧ l.fitted = true ∧ l.state = .off
     let due := (∀ l ∈ s.seq.lamps, l.state ≠ .striking) ∧ s.seq.spacing = none ∧ (∃ l, eligible l) ∧
       (85 * fCommitted s < 100 * t.pln.fReq ∨
        (s.seq.lamps.countP fun l => l.state = .striking ∨ l.state = .warming ∨ l.state = .lit) < s.ldr.cfg.minLit)
     let pool (l : Lamp) : Prop := eligible l ∧ ((∃ g, eligible g ∧ g.strikesDay < 8) → l.strikesDay < 8)
     let fewest (l : Lamp) : Prop := pool l ∧ ∀ g, pool g → l.runMinutes ≤ g.runMinutes
     let cool (l : Lamp) : Prop := ballastClass s ((l.index + 1) / 2) ≠ .warm
     let first (l : Lamp) : Prop := fewest l ∧ ((∃ g, fewest g ∧ cool g) → cool l)
     (¬ due → t.seq.spacing = s.seq.spacing ∧ ∀ g ∈ t.seq.lamps, g.state = .striking → g ∈ s.seq.lamps) ∧
     (due → ∃ l, first l ∧ (∀ g, first g → l.index ≤ g.index) ∧ t.seq.spacing = some 0 ∧
       lampAt t l.index = some { l with
         state := .striking, slot := ⟨.strike, 10⟩, cause := none, timer := 0, attempt := 1
         strikes := bump16 l.strikes, strikesDay := min (l.strikesDay + 1) 255 } ∧
       ∀ g ∈ t.seq.lamps, g.state = .striking → g.index = l.index))

/-! ### Scans (R137–R148) -/

/-- R142, R141: how one judged sample moves window, runs and fault state, row by row. R140, R138, R146, R142, R148,
R137, R90, R91: a completion judges every converted input's sample, module sensors only outside a stroke, counts
the inputs that enter FAULT, hands a source's own reading on with its state, judges the hold condition, which
the mode follows (R66), where a flow is handed on, and ends the scan or begins the one due. R74, R75, R78: the
planner judges the own flow by the own position and the own transmittance by the own slot, and with none handed
holds what it held. R154: the first with a lamp burning and a value in its module's window begins F_eff. That no
estimated module with an empty window begins F_eff is the model's reading of R154 by the letter (log 38). -/
def Obligations.ScansJudgeTheirSamples : Prop :=
  (∀ (x : Input) (raw : Nat),
     (let entered := if x.window.length < 4 then x.window ++ [raw] else x.window.drop 1 ++ [raw]
      (x.fault = false → x.sample true raw =
        { x with window := entered, validRun := min (x.validRun + 1) 20, outRun := 0 }) ∧
      (x.fault = false → x.outRun < 3 → x.sample false raw = { x with outRun := x.outRun + 1, validRun := 0 }) ∧
      (x.fault = false → 3 ≤ x.outRun → x.sample false raw = ⟨[], true, 0, 0⟩) ∧
      (x.fault = true → x.validRun < 19 → x.sample true raw =
        { x with window := entered, validRun := x.validRun + 1, outRun := 0 }) ∧
      (x.fault = true → 19 ≤ x.validRun → x.sample true raw = ⟨entered, false, 0, 0⟩) ∧
      (x.fault = true → x.sample false raw = { x with validRun := 0 }))) ∧
  (∀ (raw : List (BitVec 10)) (fdir : Bool) (s : State), Runs s → s.scn.scan.isSome = true →
     ∃ t, exec (.scanComplete raw fdir) s = .next t ∧
       OnlyChanges [.ctl, .trk, .ros, .pln, .seq, .link, .scn, .wip, .bus, .cmd] s t ∧
       t.scn.inputs = s.scn.inputs.mapIdx (fun i x =>
         let r := (raw.getD i 0).toNat
         let converted := i < min s.ldr.cfg.nMod 6 ∨ (i = 6 ∧ s.ldr.straps.flowSrc = true) ∨
           (i = 7 ∧ s.ldr.straps.uvtSrc = true)
         let stroke := s.wip.state = .strokeOut ∨ s.wip.state = .strokeBack
         if converted ∧ ¬ (i < 6 ∧ stroke) then
           x.sample (decide ((if i < 6 then 20 else 180) ≤ r ∧ r ≤ 1003)) r else x) ∧
       t.scn.sensorFaults = min (s.scn.sensorFaults +
         (s.scn.inputs.zip t.scn.inputs).countP fun p => !p.1.fault && p.2.fault) 65535 ∧
       (t.scn.fEffBegun = true ↔ s.scn.fEffBegun = true ∨ ∃ m, 1 ≤ m ∧ m ≤ s.ldr.cfg.nMod ∧
         (inputAt t (m - 1)).window ≠ [] ∧
         ∃ l ∈ s.seq.lamps, (l.index + 3) / 4 = m ∧ (l.state = .lit ∨ l.state = .warming)) ∧
       t.scn.scan = (if s.scn.scanDue then some 0 else none) ∧ t.scn.scanDue = false ∧
       (s.scn.scanDue = false → t.scn.timer = s.scn.timer) ∧ (s.scn.scanDue = true → t.scn.timer = some 0) ∧
       (s.ldr.straps.flowSrc = false ∨ ((inputAt t 6).fault = false ∧ (inputAt t 6).window = []) →
         t.scn.ownFlow = s.scn.ownFlow ∧ t.pln.flowHeld = s.pln.flowHeld ∧ HoldStays s t ∧
         t.ctl = s.ctl) ∧
       (s.ldr.straps.flowSrc = true → (inputAt t 6).fault = true →
         t.scn.ownFlow = some ⟨.fault, 0⟩ ∧ HoldFollows s t ∧ ModeFollows s t ∧
         OfferJudged s.ldr.straps.position .stale s.pln.flowHeld t.pln.flowHeld) ∧
       (s.ldr.straps.flowSrc = true → (inputAt t 6).fault = false → (inputAt t 6).window ≠ [] →
         ∃ v, flowInputValue s.ldr.cfg.qSpan (inputAt t 6) = some v ∧
           t.scn.ownFlow = some ⟨if fdir then .reverse else .normal, v⟩ ∧ HoldFollows s t ∧ ModeFollows s t ∧
           OfferJudged s.ldr.straps.position (if fdir then .reverse else .normal v) s.pln.flowHeld t.pln.flowHeld) ∧
       (s.ldr.straps.uvtSrc = false ∨ ((inputAt t 7).fault = false ∧ (inputAt t 7).window = []) →
         t.scn.ownUvt = s.scn.ownUvt ∧ t.pln.uvtHeld = s.pln.uvtHeld) ∧
       (s.ldr.straps.channel ≤ 3 → ownSlot s = s.ldr.straps.channel * 8 + s.ldr.straps.position - 1) ∧
       (s.ldr.straps.uvtSrc = true → (inputAt t 7).fault = true →
         t.scn.ownUvt = some ⟨.fault, 0⟩ ∧ OfferJudged (ownSlot s) .stale s.pln.uvtHeld t.pln.uvtHeld) ∧
       (s.ldr.straps.uvtSrc = true → (inputAt t 7).fault = false → (inputAt t 7).window ≠ [] →
         ∃ v, uvtInputValue (inputAt t 7) = some v ∧ t.scn.ownUvt = some ⟨.normal, v⟩ ∧
           OfferJudged (ownSlot s) (.normal v) s.pln.uvtHeld t.pln.uvtHeld))

/-- R120, R140: at a scan completion, with the samples entered, every LIT lamp of a module that learns moves its
estimate by a sixteenth of the distance to v, the sensor value over the sum of the LIT lamps' levels, rounded to
0.01 mW/cm² half away from zero and limited; every other estimate stays. That a clear sensor without a value
teaches nothing is the model's reading (log 33). -/
def Obligations.OutputEstimatesAreLearned : Prop :=
  ∀ (raw : List (BitVec 10)) (fdir : Bool) (s : State), Runs s → LampsInv s → s.scn.scan.isSome = true →
    ∃ t, exec (.scanComplete raw fdir) s = .next t ∧ ∀ l ∈ s.seq.lamps, ∃ g, lampAt t l.index = some g ∧
      (let m := (l.index + 3) / 4
       let ofModule := s.seq.lamps.filter fun x => (x.index + 3) / 4 = m
       let lit := ofModule.filter fun x => x.state = .lit
       let sensor := inputAt t (m - 1)
       let learns := m ≤ s.ldr.cfg.nMod ∧ sensor.fault = false ∧ s.wip.state ≠ .strokeOut ∧
         s.wip.state ≠ .strokeBack ∧ lit ≠ [] ∧ (∀ x ∈ lit, 60000 ≤ x.timer) ∧
         (∀ x ∈ ofModule, x.state ≠ .striking ∧ x.state ≠ .warming)
       (l.state ≠ .lit ∨ ¬ learns ∨ sensor.window = [] → g.e = l.e) ∧
       (l.state = .lit → learns → ∀ v, sensorValue s.ldr.cfg.sensorSpan sensor = some v →
         (let levels : Nat := sumOf (lit.map fun x => x.slot.level)
          let d : Int := 10 * (v : Int) - (l.e : Int) * (levels : Int)
          let step : Int := if 0 ≤ d then ((2 * d.toNat + 16 * levels) / (32 * levels) : Nat)
            else -((2 * (-d).toNat + 16 * levels) / (32 * levels) : Nat)
          g.e = min ((l.e : Int) + step).toNat 65535)))

/-- R152, R153: the post-stroke count of an armed module, the reference that is taken, and the fouling judgement,
row by row; a ratio is compared exactly. At a scan completion each module's reference takes the three in this
order, the requests are counted, and a request is handed to the wiper. A ratio to an expected output of 0.00 is
a free value (log 15). That a sensor without a value takes no reference and is not judged (log 33), and that a
reference may be taken at a blanked completion of a later stroke (log 39), are the model's readings. -/
def Obligations.FoulingIsReferencedAndJudged : Prop :=
  (∀ (r : FoulRef) (entered faultedNow : Bool),
     (r.armed = false → countPost entered faultedNow r = r) ∧
     (r.armed = true → countPost entered true r = { r with postCount := 0 } ∧
       countPost true false r = { r with postCount := min (r.postCount + 1) 4 } ∧ countPost false false r = r)) ∧
  (∀ (ls : List Lamp) (i : Input) (v : Nat) (r : FoulRef),
     (let lit := ls.filter fun l => l.state = .lit
      let ready := r.armed = true ∧ r.postCount = 4 ∧ i.fault = false ∧ lit ≠ [] ∧
        ∀ l ∈ ls, l.state ≠ .striking ∧ l.state ≠ .warming
      (ready → takeReference ls i (some v) r = { r with
        ratio := some (ratioTo v (sumOf (lit.map fun l => l.slot.level * l.e))), eRef := ls.map (·.e)
        armed := false, belowRun := 0 }) ∧
      (¬ ready → takeReference ls i (some v) r = r) ∧ takeReference ls i none r = r)) ∧
  (∀ (threshold v : Nat) (ls : List Lamp) (r : FoulRef) (ref : Ratio), r.ratio = some ref →
     (let now := ratioTo v (sumOf ((ls.zip r.eRef).map fun p => if p.1.state = .lit then p.1.slot.level * p.2 else 0))
      let below := 100 * now.num * (ref.denPred + 1) < threshold * ref.num * (now.denPred + 1)
      (ls.any Lamp.isLit = true →
        (¬ below → judgeFouling threshold ls true (some v) r = ({ r with belowRun := 0 }, false)) ∧
        (below → r.belowRun < 49 →
          judgeFouling threshold ls true (some v) r = ({ r with belowRun := r.belowRun + 1 }, false)) ∧
        (below → 49 ≤ r.belowRun →
          judgeFouling threshold ls true (some v) r = ({ r with belowRun := 0 }, true))) ∧
      (ls.any Lamp.isLit = false → judgeFouling threshold ls true (some v) r = (r, false)) ∧
      judgeFouling threshold ls false (some v) r = (r, false))) ∧
  (∀ (threshold : Nat) (ls : List Lamp) (judged : Bool) (v : Option Nat) (r : FoulRef),
     r.ratio = none ∨ v = none → judgeFouling threshold ls judged v r = (r, false)) ∧
  (∀ v sum : Nat, 1 ≤ sum → (ratioTo v sum).num = 10 * v ∧ (ratioTo v sum).denPred + 1 = sum) ∧
  (∀ (raw : List (BitVec 10)) (fdir : Bool) (s : State), Runs s → s.scn.scan.isSome = true →
     ∃ t, exec (.scanComplete raw fdir) s = .next t ∧
       (let u := stepLearn (stepSamples s raw)
        let stroke := s.wip.state = .strokeOut ∨ s.wip.state = .strokeBack
        let stepped (k : Nat) (r : FoulRef) : FoulRef × Bool :=
          let i := inputAt t k
          let x := (raw.getD k 0).toNat
          let converted := k < min s.ldr.cfg.nMod 6 ∨ (k = 6 ∧ s.ldr.straps.flowSrc = true) ∨
            (k = 7 ∧ s.ldr.straps.uvtSrc = true)
          let entered := decide (converted ∧ ¬ (k < 6 ∧ stroke) ∧ (if k < 6 then 20 else 180) ≤ x ∧ x ≤ 1003)
          let value := sensorValue s.ldr.cfg.sensorSpan i
          if k < s.ldr.cfg.nMod then judgeFouling s.ldr.cfg.foulThr (lampsOf u (k + 1)) (entered && !i.fault) value
            (takeReference (lampsOf u (k + 1)) i value (countPost entered (!(inputAt s k).fault && i.fault) r))
          else (r, false)
        let requests := ((s.scn.refs.mapIdx stepped).countP fun p => p.2)
        t.scn.refs = (s.scn.refs.mapIdx stepped).map (·.1) ∧
        t.scn.foulRequests = min (s.scn.foulRequests + requests) 65535 ∧
        (s.wip.state = .homing → t.wip.owed = (s.wip.owed || decide (1 ≤ requests))) ∧
        (s.wip.state = .parked → requests = 0 → t.wip = s.wip) ∧
        (s.wip.state = .parked → 1 ≤ requests → t.wip.state = .want ∨ t.wip.state = .claiming) ∧
        (s.wip.state ∉ [.homing, .parked, .claiming] → t.wip = s.wip)))

/-- R149–R151, R144: the contribution of a module by its first row, in units of 0.01 mW/cm² / 20000; F_eff as their
mean, a fifth less during a stroke, rounded down and limited; F_max, F_lit_full and F_committed from the
estimates alone; all of them 0.00 while no image is held. R154: F_eff is 0.00 until the scan that begins it.
R81: G at the points of the table, below the first, above the last, and between two, rounded to the nearest
0.001, half up. R145, R147: the values of the inputs from the sum of their windows, rounded and limited as each
rule says. That F_eff of a module estimated before that scan stays 0.00 (log 38), and that F_eff follows a
commanded level at once (log 46), are the model's readings. -/
def Obligations.FluencesAreComputed : Prop :=
  (∀ s : State,
     (let down (sum : Nat) : Nat := min (gFactor s * sum / (1000 * s.ldr.cfg.nMod)) 65535
      let sumOver (p : Lamp → Bool) : Nat := sumOf ((s.seq.lamps.filter p).map (·.e))
      let mean := sumOf ((List.range s.ldr.cfg.nMod).map fun k => contribution s (k + 1))
      (∀ m : Nat,
        (let ls := s.seq.lamps.filter fun l => (l.index + 3) / 4 = m
         let i := inputAt s (m - 1)
         let lit := ls.filter fun l => l.state = .lit
         let burns := ∃ l ∈ ls, l.state = .lit ∨ l.state = .warming
         (¬ burns → contribution s m = 0) ∧
         (burns → i.fault = true → contribution s m = gFactor s * sumOf (lit.map fun l => l.slot.level * l.e)) ∧
         (burns → i.fault = false → i.window = [] → contribution s m = 0) ∧
         (∀ v, burns → i.fault = false → sensorValue s.ldr.cfg.sensorSpan i = some v →
           contribution s m = v * gFactor s * 20) ∧
         (moduleEstimated s m = true ↔ i.fault = true ∧ lit ≠ []))) ∧
      (s.scn.fEffBegun = false → fEff s = 0) ∧
      (s.scn.fEffBegun = true → s.wip.state = .strokeOut ∨ s.wip.state = .strokeBack →
        fEff s = min (4 * mean / (5 * (20000 * s.ldr.cfg.nMod))) 65535) ∧
      (s.scn.fEffBegun = true → s.wip.state ≠ .strokeOut → s.wip.state ≠ .strokeBack →
        fEff s = min (mean / (20000 * s.ldr.cfg.nMod)) 65535) ∧
      fMax s = down (sumOver fun l => l.fitted && decide (l.state ≠ .failed) && decide (l.state ≠ .locked)) ∧
      fLitFull s = down (sumOver fun l => decide (l.state = .lit)) ∧
      fCommitted s = down (sumOver fun l => decide (l.state = .lit ∨ l.state = .warming ∨ l.state = .striking)) ∧
      (s.ldr.cfg = .absent → fEff s = 0 ∧ fMax s = 0 ∧ fLitFull s = 0 ∧ fCommitted s = 0))) ∧
  ((∀ s : State, (s.ldr.cfg.table.Pairwise fun p q => p.1 < q.1) →
     (let points := s.ldr.cfg.table
      let u := uvtValue s
      let G := gFactor s
      (∀ p, points.head? = some p → u ≤ p.1 → G = p.2) ∧
      (∀ p, points.getLast? = some p → p.1 ≤ u → G = p.2) ∧
      (∀ p ∈ points, p.1 = u → G = p.2) ∧
      (∀ (k : Nat) (p q : Nat × Nat), points[k]? = some p → points[k + 1]? = some q → p.1 < u → u < q.1 →
        (let d : Int := (q.1 : Int) - p.1
         let exact : Int := p.2 * d + ((q.2 : Int) - p.2) * ((u : Int) - p.1)
         2 * d * G ≤ 2 * exact + d ∧ 2 * exact + d < 2 * d * (G + 1))))) ∧
   (∀ i : Input,
     (let n := i.window.length
      let sum := sumOf i.window
      (i.window = [] → (∀ span, sensorValue span i = none ∧ flowInputValue span i = none) ∧
        uvtInputValue i = none) ∧
      (i.window ≠ [] → sum ≤ 20 * n → ∀ span, sensorValue span i = some 0) ∧
      (i.window ≠ [] → 20 * n ≤ sum → ∀ span, ∃ v, sensorValue span i = some (min v 65535) ∧
        2 * (980 * n) * v ≤ 2 * ((sum - 20 * n) * span) + 980 * n ∧
        2 * ((sum - 20 * n) * span) + 980 * n < 2 * (980 * n) * (v + 1)) ∧
      (i.window ≠ [] → sum ≤ 200 * n →
        (∀ qSpan, flowInputValue qSpan i = some 0) ∧ uvtInputValue i = some 0) ∧
      (i.window ≠ [] → 200 * n ≤ sum →
        (∀ qSpan, ∃ v, flowInputValue qSpan i = some (min (min v qSpan) 65535) ∧
          800 * n * v ≤ (sum - 200 * n) * qSpan ∧ (sum - 200 * n) * qSpan < 800 * n * (v + 1)) ∧
        (∃ v, uvtInputValue i = some (min v 1000) ∧
          2 * (800 * n) * v ≤ 2 * ((sum - 200 * n) * 1000) + 800 * n ∧
          2 * ((sum - 200 * n) * 1000) + 800 * n < 2 * (800 * n) * (v + 1))))))

/-! ### The wiper (R156–R166) -/

/-- R157, R158: the interval restarts at its expiry, which asks for a wipe in PARKED, owes one in HOMING, and has no
effect elsewhere. R159: a wipe is admitted exactly when the six conditions hold; in WANT it is judged at the
close of each accrual expiry, which does the rest as it does it in PARKED. R163, R164, R139: at the end of the
claim window the stroke begins, with WIPE_ACTIVE, the stroke timer, the release timer where WHOME is active, and
a scan in progress begun again; a WEND already active is reached at once. The count of scans begun again is the
model's (log 24). -/
def Obligations.WipesAreRequestedAndBegun : Prop :=
  ((∀ s : State, Runs s → s.wip.interval.isSome = true →
     (let w := { s.wip with interval := some 0 }
      (s.wip.state = .homing →
        exec .wipeIntervalExpiry s = .next (s.setWip { w with owed := true })) ∧
      (s.wip.state ≠ .parked → s.wip.state ≠ .homing → exec .wipeIntervalExpiry s = .next (s.setWip w)) ∧
      (s.wip.state = .parked → admitted (s.setWip { w with state := .want }) = false →
        exec .wipeIntervalExpiry s = .next (s.setWip { w with state := .want })) ∧
      (s.wip.state = .parked → admitted (s.setWip { w with state := .want }) = true → s.bus.queue.length < 12 →
        exec .wipeIntervalExpiry s = .next ((s.setWip
          { w with state := .claiming, claim := some s.bus.nextTicket, window := none }).setBus
          (withPosted s .wipeClaim))))) ∧
   (∀ s : State, admitted s = true ↔
     (s.ctl.mode = .dosing ∨ s.ctl.mode = .hold) ∧ s.pln.shortfall = false ∧ 100 * s.pln.fReq ≤ 70 * fMax s ∧
       s.ldr.supply.low = false ∧
       (∀ e ∈ s.ros.entries, e.isSelf = false → e.chan = s.ldr.straps.channel → e.state ≠ .lost → e.wiping = none) ∧
       s.wip.wait = none) ∧
   (∀ s : State, Runs s → s.trk.accrual.isSome = true → s.wip.state = .want →
     ∃ u, exec .accrualTimerExpiry (s.setWip { s.wip with state := .parked }) = .next u ∧
       u.wip = { s.wip with state := .parked } ∧
       (admitted u = false → exec .accrualTimerExpiry s = .next (u.setWip s.wip)) ∧
       (admitted u = true → u.bus.queue.length < 12 → exec .accrualTimerExpiry s = .next ((u.setWip
         { s.wip with state := .claiming, claim := some u.bus.nextTicket, window := none }).setBus
         (withPosted u .wipeClaim))))) ∧
  (∀ s : State, Runs s → s.wip.state = .claiming → s.wip.window.isSome = true → s.bus.queue.length < 12 →
     (let begun := { s.wip with
        state := .strokeOut, window := none, claim := none, stroke := some 0
        release := if s.wip.whome then some 0 else none }
      let t := ((s.setWip begun).setBus (withPosted s .wipeActive)).setScn
        { s.scn with scan := s.scn.scan.map (· + 1) }
      (s.wip.wend = false → exec .claimWindowExpiry s = .next t) ∧
      (s.wip.wend = true → s.wip.whome = false → exec .claimWindowExpiry s =
        .next (t.setWip { begun with state := .strokeBack, stroke := some 0, release := none })) ∧
      (s.wip.wend = true → s.wip.whome = true → ∃ u, exec .claimWindowExpiry s = .next u ∧
        OnlyChanges [.scn, .wip, .bus, .cmd] s u ∧ u.wip.state = .fault ∧ u.wip.faults = bump16 s.wip.faults)))

/-- R155: over every state, WFWD is driven in STROKE_OUT, WREV in STROKE_BACK and, unless already home, in HOMING;
neither elsewhere or in reset, and never both. R155: a limit input that has stood at its new level for 10 ms moves
the filtered level, one that has stood shorter changes nothing. R155, R156, R158, R164–R166: what the two limits,
the stroke timer and the release timer do in every wiper state: the turn at the far end, the stroke that completes
at home, HOMING that ends with the wipe it owes, and the faults, counted, owing nothing and, in a stroke or with a
claim's window running, told by WIPE_DONE. That WHOME or WEND reported as it stands (log 7), and a timer that does
not run (log 4), change nothing is the model's reading; that the time a level has stood is carried in whole
milliseconds is its choice (log 8), and the count of scans begun again is the model's (log 24). A full transmit
queue, where a frame is given up, is PostingKeepsClassAndAge's. -/
def Obligations.LimitsAndTimersEndTheDrive : Prop :=
  (∀ s : State,
     (wfwd s = true ↔ s.hold.held = false ∧ s.wip.state = .strokeOut) ∧
     (wrev s = true ↔ s.hold.held = false ∧
       (s.wip.state = .strokeBack ∨ (s.wip.state = .homing ∧ s.wip.whome = false))) ∧
     ¬ (wfwd s = true ∧ wrev s = true)) ∧
  (∀ (ms : Nat) (s : State), ms < 10 → exec (.whomeActive ms) s = .next s ∧ exec (.whomeInactive ms) s = .next s ∧
     ∀ b, exec (.wendActive b ms) s = .next s) ∧
  (∀ (ms : Nat) (s : State), Runs s → s.bus.queue.length < 12 → 10 ≤ ms →
     (let stroking := s.wip.state = .strokeOut ∨ s.wip.state = .strokeBack
      let scan := { s.scn with scan := s.scn.scan.map (· + 1) }
      let faulted (w : Wiper) : Wiper :=
        { w with state := .fault, stroke := none, release := none, claim := none, window := none, owed := false
                 faults := bump16 w.faults }
      let broken (w : Wiper) : State :=
        ((s.setWip (faulted w)).setBus (withPosted s (.wipeDone 1))).setScn scan
      let atHome := { s.wip with whome := true }
      let atEnd := { s.wip with wend := true }
      let wanted := s.setWip { atHome with state := .want, stroke := none, owed := false }
      -- a claim still waiting is taken back; one whose window runs is told
      let back := claimTakenBack s.bus s.wip.claim
      let unclaimed (w : Wiper) : State :=
        (s.setWip (faulted w)).setBus (if s.wip.window.isSome then withPosted (s.setBus back) (.wipeDone 1) else back)
      -- what both limits together do, `w` being the wiper with both active
      let together (w : Wiper) (t : State) : Prop :=
        (s.wip.state = .homing ∨ s.wip.state = .parked ∨ s.wip.state = .want → t = s.setWip (faulted w)) ∧
        (s.wip.state = .claiming → t = unclaimed w) ∧ (stroking → t = broken w) ∧
        (s.wip.state = .absent ∨ s.wip.state = .fault → t = s.setWip w)
      -- WHOME becomes inactive
      exec (.whomeInactive ms) s = .next (s.setWip { s.wip with
        whome := false, release := if s.wip.state = .strokeOut then none else s.wip.release }) ∧
      -- WEND becomes inactive, or stays as it was (log 7)
      (s.wip.wend = true → exec (.wendActive false ms) s = .next (s.setWip { s.wip with wend := false })) ∧
      (∀ b, s.wip.wend = b → exec (.wendActive b ms) s = .next s) ∧
      -- WEND becomes active: the turn at the far end
      (s.wip.wend = false → s.wip.whome = false → s.wip.state = .strokeOut → exec (.wendActive true ms) s =
        .next (s.setWip { atEnd with state := .strokeBack, stroke := some 0, release := none })) ∧
      (s.wip.wend = false → s.wip.whome = false → s.wip.state ≠ .strokeOut →
        exec (.wendActive true ms) s = .next (s.setWip atEnd)) ∧
      (s.wip.wend = false → s.wip.whome = true → ∃ t, exec (.wendActive true ms) s = .next t ∧ together atEnd t) ∧
      -- WHOME becomes active
      (s.wip.whome = true → exec (.whomeActive ms) s = .next s) ∧
      (s.wip.whome = false → s.wip.wend = true → ∃ t, exec (.whomeActive ms) s = .next t ∧ together atHome t) ∧
      (s.wip.wend = false → s.wip.whome = false → s.wip.state = .strokeBack → exec (.whomeActive ms) s =
        .next (((s.setWip { atHome with
          state := .parked, stroke := none, release := none, interval := some 0
          strokes := bump16 s.wip.strokes }).setBus (withPosted s (.wipeDone 0))).setScn
          { scan with refs := s.scn.refs.map fun r => { r with armed := true, postCount := 0 } })) ∧
      (s.wip.wend = false → s.wip.whome = false → s.wip.state = .homing → s.wip.owed = false →
        exec (.whomeActive ms) s = .next (s.setWip { atHome with state := .parked, stroke := none })) ∧
      (s.wip.wend = false → s.wip.whome = false → s.wip.state = .homing → s.wip.owed = true →
        (admitted wanted = false → exec (.whomeActive ms) s = .next wanted) ∧
        (admitted wanted = true → exec (.whomeActive ms) s = .next ((wanted.setWip { wanted.wip with
          state := .claiming, claim := some s.bus.nextTicket, window := none }).setBus (withPosted s .wipeClaim)))) ∧
      (s.wip.wend = false → s.wip.whome = false → s.wip.state ≠ .strokeBack → s.wip.state ≠ .homing →
        exec (.whomeActive ms) s = .next (s.setWip atHome)) ∧
      -- the stroke timer and the release timer
      (s.wip.stroke.isSome = true → stroking → exec .strokeTimerExpiry s = .next (broken s.wip)) ∧
      (s.wip.stroke.isSome = true → s.wip.state = .homing →
        exec .strokeTimerExpiry s = .next (s.setWip (faulted s.wip))) ∧
      (s.wip.stroke = none ∨ (¬ stroking ∧ s.wip.state ≠ .homing) → exec .strokeTimerExpiry s = .next s) ∧
      (s.wip.state = .strokeOut → s.wip.release.isSome = true →
        exec .releaseTimerExpiry s = .next (broken s.wip)) ∧
      (s.wip.state ≠ .strokeOut ∨ s.wip.release = none → exec .releaseTimerExpiry s = .next s)))

/-! ### Headline statements -/

/-- R170, R172, R186, R187: a frame built for any source and any body the manual gives, a REPORT of up to 43 bytes
of records among them, is read back by the receiver as the command of that frame, field for field. R170: on the
line each character is a start bit 0, its byte least significant bit first, the mark bit, 1 on the first alone,
and a stop bit 1, back to back; the characters compared with those read back (R176) are the same bits, eleven
each; with no frame in flight the bank drives nothing. -/
def Obligations.BuiltFramesAreReadBack : Prop :=
  (∀ (src : Src) (body : Body), (∀ r, body = .report r → r.records.length ≤ 43) →
     judgeFrame (frameBytes src body) = some (body.received src)) ∧
  (∀ (bytes : List Byte) (k : Nat) (c : Byte), bytes[k]? = some c →
     ((lineBits bytes).drop (11 * k)).take 11 =
       [false] ++ (List.range 8).map c.getLsbD ++ [decide (k = 0), true]) ∧
  (∀ bytes : List Byte, (lineBits bytes).length = 11 * bytes.length ∧
     (lineChars bytes).length = bytes.length ∧
     (lineChars bytes).flatMap (fun c => (List.range 11).map c.getLsbD) = lineBits bytes) ∧
  (∀ b : Bus, (∀ x, b.inFlight = some x → b.driven = lineBits (frameBytes x.frame.src x.frame.body)) ∧
     (b.inFlight = none → b.driven = []))

/-- R1, R3, R5, R36: every step keeps the parcel queue sound: at most 16 adjacent records with marks Z apart and a
dose in range, and an empty account outside DOSING and HOLD. -/
def Obligations.StepsKeepTheParcelQueue : Prop :=
  ∀ s t : State, ParcelsInv s → step s = .next t → ParcelsInv t

/-- R178: every step keeps the transmit queue at 12 frames or fewer, in class order, with at most one STATUS, one
FLOW and one UVT. -/
def Obligations.StepsKeepTheTransmitQueue : Prop :=
  ∀ s t : State, TransmitInv s → step s = .next t → TransmitInv t

/-- R95, R93: every step keeps the lamp table's 24 records in order and the slot of every lamp in FAILED or LOCKED
asking for OFF. -/
def Obligations.StepsKeepTheLampTable : Prop :=
  ∀ s t : State, LampsInv s → step s = .next t → LampsInv t

/-- R59–R64, R67, R68: every step leaves the station settled. Outside LOADING the conflict states, the reference
digest, the neighbours and the two reasons are those of the entries held; in DOSING and HOLD no reason stands
and the role is that of the neighbours; in ISOLATED a reason stands. So does the event of every JOIN, STATUS,
LEAVE and every other frame that is learned, and that of an entry gone LOST or removed. R194: every step leaves the
part held while a cause of reset stands: the supply below the reset level, RESETN low, or a RESTART reset being
taken, each noted for the reset cause record. That a RESTART reset is being taken until the next release is the
model's reading (log 32). -/
def Obligations.StepsKeepTheStationAndItsReset : Prop :=
  (∀ s t : State, StationInv s → step s = .next t → StationInv t) ∧
  (∀ s t : State, ResetInv s → step s = .next t → ResetInv t)

/-- R50, R51: every step keeps the roster at 40 entries or fewer, at addresses of the address space, in strict order
of slot and serial, no two under one key, and from the end of LOADING with the one self entry under the bank's
own address and serial; in LOADING it holds none. -/
def Obligations.StepsKeepTheRoster : Prop :=
  ∀ s t : State, RosterInv s → step s = .next t → RosterInv t

/-- The six invariants hold after reset. -/
def Obligations.InvariantsHoldAtReset : Prop :=
  ParcelsInv State.reset ∧ TransmitInv State.reset ∧ LampsInv State.reset ∧ StationInv State.reset ∧
    RosterInv State.reset ∧ ResetInv State.reset
end

