-- ==== Sys2Proof/Laws/State.lean ====
section
/-! SUPPORT. One lemma per field per replacement of a block of `State`, all true by `rfl`. -/

namespace Sys2Proof.Machine

@[simp] theorem State.setPending_pending (s : State) (v : List Instr) : (s.setPending v).pending = v := rfl
@[simp] theorem State.setPending_serial (s : State) (v : List Instr) : (s.setPending v).serial = s.serial := rfl
@[simp] theorem State.setPending_hold (s : State) (v : List Instr) : (s.setPending v).hold = s.hold := rfl
@[simp] theorem State.setPending_ctl (s : State) (v : List Instr) : (s.setPending v).ctl = s.ctl := rfl
@[simp] theorem State.setPending_ldr (s : State) (v : List Instr) : (s.setPending v).ldr = s.ldr := rfl
@[simp] theorem State.setPending_trk (s : State) (v : List Instr) : (s.setPending v).trk = s.trk := rfl
@[simp] theorem State.setPending_ros (s : State) (v : List Instr) : (s.setPending v).ros = s.ros := rfl
@[simp] theorem State.setPending_pln (s : State) (v : List Instr) : (s.setPending v).pln = s.pln := rfl
@[simp] theorem State.setPending_seq (s : State) (v : List Instr) : (s.setPending v).seq = s.seq := rfl
@[simp] theorem State.setPending_link (s : State) (v : List Instr) : (s.setPending v).link = s.link := rfl
@[simp] theorem State.setPending_scn (s : State) (v : List Instr) : (s.setPending v).scn = s.scn := rfl
@[simp] theorem State.setPending_wip (s : State) (v : List Instr) : (s.setPending v).wip = s.wip := rfl
@[simp] theorem State.setPending_bus (s : State) (v : List Instr) : (s.setPending v).bus = s.bus := rfl
@[simp] theorem State.setPending_cmd (s : State) (v : List Instr) : (s.setPending v).cmd = s.cmd := rfl

@[simp] theorem State.setHold_pending (s : State) (v : ResetHold) : (s.setHold v).pending = s.pending := rfl
@[simp] theorem State.setHold_serial (s : State) (v : ResetHold) : (s.setHold v).serial = s.serial := rfl
@[simp] theorem State.setHold_hold (s : State) (v : ResetHold) : (s.setHold v).hold = v := rfl
@[simp] theorem State.setHold_ctl (s : State) (v : ResetHold) : (s.setHold v).ctl = s.ctl := rfl
@[simp] theorem State.setHold_ldr (s : State) (v : ResetHold) : (s.setHold v).ldr = s.ldr := rfl
@[simp] theorem State.setHold_trk (s : State) (v : ResetHold) : (s.setHold v).trk = s.trk := rfl
@[simp] theorem State.setHold_ros (s : State) (v : ResetHold) : (s.setHold v).ros = s.ros := rfl
@[simp] theorem State.setHold_pln (s : State) (v : ResetHold) : (s.setHold v).pln = s.pln := rfl
@[simp] theorem State.setHold_seq (s : State) (v : ResetHold) : (s.setHold v).seq = s.seq := rfl
@[simp] theorem State.setHold_link (s : State) (v : ResetHold) : (s.setHold v).link = s.link := rfl
@[simp] theorem State.setHold_scn (s : State) (v : ResetHold) : (s.setHold v).scn = s.scn := rfl
@[simp] theorem State.setHold_wip (s : State) (v : ResetHold) : (s.setHold v).wip = s.wip := rfl
@[simp] theorem State.setHold_bus (s : State) (v : ResetHold) : (s.setHold v).bus = s.bus := rfl
@[simp] theorem State.setHold_cmd (s : State) (v : ResetHold) : (s.setHold v).cmd = s.cmd := rfl

@[simp] theorem State.setCtl_pending (s : State) (v : Control) : (s.setCtl v).pending = s.pending := rfl
@[simp] theorem State.setCtl_serial (s : State) (v : Control) : (s.setCtl v).serial = s.serial := rfl
@[simp] theorem State.setCtl_hold (s : State) (v : Control) : (s.setCtl v).hold = s.hold := rfl
@[simp] theorem State.setCtl_ctl (s : State) (v : Control) : (s.setCtl v).ctl = v := rfl
@[simp] theorem State.setCtl_ldr (s : State) (v : Control) : (s.setCtl v).ldr = s.ldr := rfl
@[simp] theorem State.setCtl_trk (s : State) (v : Control) : (s.setCtl v).trk = s.trk := rfl
@[simp] theorem State.setCtl_ros (s : State) (v : Control) : (s.setCtl v).ros = s.ros := rfl
@[simp] theorem State.setCtl_pln (s : State) (v : Control) : (s.setCtl v).pln = s.pln := rfl
@[simp] theorem State.setCtl_seq (s : State) (v : Control) : (s.setCtl v).seq = s.seq := rfl
@[simp] theorem State.setCtl_link (s : State) (v : Control) : (s.setCtl v).link = s.link := rfl
@[simp] theorem State.setCtl_scn (s : State) (v : Control) : (s.setCtl v).scn = s.scn := rfl
@[simp] theorem State.setCtl_wip (s : State) (v : Control) : (s.setCtl v).wip = s.wip := rfl
@[simp] theorem State.setCtl_bus (s : State) (v : Control) : (s.setCtl v).bus = s.bus := rfl
@[simp] theorem State.setCtl_cmd (s : State) (v : Control) : (s.setCtl v).cmd = s.cmd := rfl

@[simp] theorem State.setLdr_pending (s : State) (v : Loader) : (s.setLdr v).pending = s.pending := rfl
@[simp] theorem State.setLdr_serial (s : State) (v : Loader) : (s.setLdr v).serial = s.serial := rfl
@[simp] theorem State.setLdr_hold (s : State) (v : Loader) : (s.setLdr v).hold = s.hold := rfl
@[simp] theorem State.setLdr_ctl (s : State) (v : Loader) : (s.setLdr v).ctl = s.ctl := rfl
@[simp] theorem State.setLdr_ldr (s : State) (v : Loader) : (s.setLdr v).ldr = v := rfl
@[simp] theorem State.setLdr_trk (s : State) (v : Loader) : (s.setLdr v).trk = s.trk := rfl
@[simp] theorem State.setLdr_ros (s : State) (v : Loader) : (s.setLdr v).ros = s.ros := rfl
@[simp] theorem State.setLdr_pln (s : State) (v : Loader) : (s.setLdr v).pln = s.pln := rfl
@[simp] theorem State.setLdr_seq (s : State) (v : Loader) : (s.setLdr v).seq = s.seq := rfl
@[simp] theorem State.setLdr_link (s : State) (v : Loader) : (s.setLdr v).link = s.link := rfl
@[simp] theorem State.setLdr_scn (s : State) (v : Loader) : (s.setLdr v).scn = s.scn := rfl
@[simp] theorem State.setLdr_wip (s : State) (v : Loader) : (s.setLdr v).wip = s.wip := rfl
@[simp] theorem State.setLdr_bus (s : State) (v : Loader) : (s.setLdr v).bus = s.bus := rfl
@[simp] theorem State.setLdr_cmd (s : State) (v : Loader) : (s.setLdr v).cmd = s.cmd := rfl

@[simp] theorem State.setTrk_pending (s : State) (v : Tracker) : (s.setTrk v).pending = s.pending := rfl
@[simp] theorem State.setTrk_serial (s : State) (v : Tracker) : (s.setTrk v).serial = s.serial := rfl
@[simp] theorem State.setTrk_hold (s : State) (v : Tracker) : (s.setTrk v).hold = s.hold := rfl
@[simp] theorem State.setTrk_ctl (s : State) (v : Tracker) : (s.setTrk v).ctl = s.ctl := rfl
@[simp] theorem State.setTrk_ldr (s : State) (v : Tracker) : (s.setTrk v).ldr = s.ldr := rfl
@[simp] theorem State.setTrk_trk (s : State) (v : Tracker) : (s.setTrk v).trk = v := rfl
@[simp] theorem State.setTrk_ros (s : State) (v : Tracker) : (s.setTrk v).ros = s.ros := rfl
@[simp] theorem State.setTrk_pln (s : State) (v : Tracker) : (s.setTrk v).pln = s.pln := rfl
@[simp] theorem State.setTrk_seq (s : State) (v : Tracker) : (s.setTrk v).seq = s.seq := rfl
@[simp] theorem State.setTrk_link (s : State) (v : Tracker) : (s.setTrk v).link = s.link := rfl
@[simp] theorem State.setTrk_scn (s : State) (v : Tracker) : (s.setTrk v).scn = s.scn := rfl
@[simp] theorem State.setTrk_wip (s : State) (v : Tracker) : (s.setTrk v).wip = s.wip := rfl
@[simp] theorem State.setTrk_bus (s : State) (v : Tracker) : (s.setTrk v).bus = s.bus := rfl
@[simp] theorem State.setTrk_cmd (s : State) (v : Tracker) : (s.setTrk v).cmd = s.cmd := rfl

@[simp] theorem State.setRos_pending (s : State) (v : Roster) : (s.setRos v).pending = s.pending := rfl
@[simp] theorem State.setRos_serial (s : State) (v : Roster) : (s.setRos v).serial = s.serial := rfl
@[simp] theorem State.setRos_hold (s : State) (v : Roster) : (s.setRos v).hold = s.hold := rfl
@[simp] theorem State.setRos_ctl (s : State) (v : Roster) : (s.setRos v).ctl = s.ctl := rfl
@[simp] theorem State.setRos_ldr (s : State) (v : Roster) : (s.setRos v).ldr = s.ldr := rfl
@[simp] theorem State.setRos_trk (s : State) (v : Roster) : (s.setRos v).trk = s.trk := rfl
@[simp] theorem State.setRos_ros (s : State) (v : Roster) : (s.setRos v).ros = v := rfl
@[simp] theorem State.setRos_pln (s : State) (v : Roster) : (s.setRos v).pln = s.pln := rfl
@[simp] theorem State.setRos_seq (s : State) (v : Roster) : (s.setRos v).seq = s.seq := rfl
@[simp] theorem State.setRos_link (s : State) (v : Roster) : (s.setRos v).link = s.link := rfl
@[simp] theorem State.setRos_scn (s : State) (v : Roster) : (s.setRos v).scn = s.scn := rfl
@[simp] theorem State.setRos_wip (s : State) (v : Roster) : (s.setRos v).wip = s.wip := rfl
@[simp] theorem State.setRos_bus (s : State) (v : Roster) : (s.setRos v).bus = s.bus := rfl
@[simp] theorem State.setRos_cmd (s : State) (v : Roster) : (s.setRos v).cmd = s.cmd := rfl

@[simp] theorem State.setPln_pending (s : State) (v : Planner) : (s.setPln v).pending = s.pending := rfl
@[simp] theorem State.setPln_serial (s : State) (v : Planner) : (s.setPln v).serial = s.serial := rfl
@[simp] theorem State.setPln_hold (s : State) (v : Planner) : (s.setPln v).hold = s.hold := rfl
@[simp] theorem State.setPln_ctl (s : State) (v : Planner) : (s.setPln v).ctl = s.ctl := rfl
@[simp] theorem State.setPln_ldr (s : State) (v : Planner) : (s.setPln v).ldr = s.ldr := rfl
@[simp] theorem State.setPln_trk (s : State) (v : Planner) : (s.setPln v).trk = s.trk := rfl
@[simp] theorem State.setPln_ros (s : State) (v : Planner) : (s.setPln v).ros = s.ros := rfl
@[simp] theorem State.setPln_pln (s : State) (v : Planner) : (s.setPln v).pln = v := rfl
@[simp] theorem State.setPln_seq (s : State) (v : Planner) : (s.setPln v).seq = s.seq := rfl
@[simp] theorem State.setPln_link (s : State) (v : Planner) : (s.setPln v).link = s.link := rfl
@[simp] theorem State.setPln_scn (s : State) (v : Planner) : (s.setPln v).scn = s.scn := rfl
@[simp] theorem State.setPln_wip (s : State) (v : Planner) : (s.setPln v).wip = s.wip := rfl
@[simp] theorem State.setPln_bus (s : State) (v : Planner) : (s.setPln v).bus = s.bus := rfl
@[simp] theorem State.setPln_cmd (s : State) (v : Planner) : (s.setPln v).cmd = s.cmd := rfl

@[simp] theorem State.setSeq_pending (s : State) (v : Sequencer) : (s.setSeq v).pending = s.pending := rfl
@[simp] theorem State.setSeq_serial (s : State) (v : Sequencer) : (s.setSeq v).serial = s.serial := rfl
@[simp] theorem State.setSeq_hold (s : State) (v : Sequencer) : (s.setSeq v).hold = s.hold := rfl
@[simp] theorem State.setSeq_ctl (s : State) (v : Sequencer) : (s.setSeq v).ctl = s.ctl := rfl
@[simp] theorem State.setSeq_ldr (s : State) (v : Sequencer) : (s.setSeq v).ldr = s.ldr := rfl
@[simp] theorem State.setSeq_trk (s : State) (v : Sequencer) : (s.setSeq v).trk = s.trk := rfl
@[simp] theorem State.setSeq_ros (s : State) (v : Sequencer) : (s.setSeq v).ros = s.ros := rfl
@[simp] theorem State.setSeq_pln (s : State) (v : Sequencer) : (s.setSeq v).pln = s.pln := rfl
@[simp] theorem State.setSeq_seq (s : State) (v : Sequencer) : (s.setSeq v).seq = v := rfl
@[simp] theorem State.setSeq_link (s : State) (v : Sequencer) : (s.setSeq v).link = s.link := rfl
@[simp] theorem State.setSeq_scn (s : State) (v : Sequencer) : (s.setSeq v).scn = s.scn := rfl
@[simp] theorem State.setSeq_wip (s : State) (v : Sequencer) : (s.setSeq v).wip = s.wip := rfl
@[simp] theorem State.setSeq_bus (s : State) (v : Sequencer) : (s.setSeq v).bus = s.bus := rfl
@[simp] theorem State.setSeq_cmd (s : State) (v : Sequencer) : (s.setSeq v).cmd = s.cmd := rfl

@[simp] theorem State.setLink_pending (s : State) (v : Link) : (s.setLink v).pending = s.pending := rfl
@[simp] theorem State.setLink_serial (s : State) (v : Link) : (s.setLink v).serial = s.serial := rfl
@[simp] theorem State.setLink_hold (s : State) (v : Link) : (s.setLink v).hold = s.hold := rfl
@[simp] theorem State.setLink_ctl (s : State) (v : Link) : (s.setLink v).ctl = s.ctl := rfl
@[simp] theorem State.setLink_ldr (s : State) (v : Link) : (s.setLink v).ldr = s.ldr := rfl
@[simp] theorem State.setLink_trk (s : State) (v : Link) : (s.setLink v).trk = s.trk := rfl
@[simp] theorem State.setLink_ros (s : State) (v : Link) : (s.setLink v).ros = s.ros := rfl
@[simp] theorem State.setLink_pln (s : State) (v : Link) : (s.setLink v).pln = s.pln := rfl
@[simp] theorem State.setLink_seq (s : State) (v : Link) : (s.setLink v).seq = s.seq := rfl
@[simp] theorem State.setLink_link (s : State) (v : Link) : (s.setLink v).link = v := rfl
@[simp] theorem State.setLink_scn (s : State) (v : Link) : (s.setLink v).scn = s.scn := rfl
@[simp] theorem State.setLink_wip (s : State) (v : Link) : (s.setLink v).wip = s.wip := rfl
@[simp] theorem State.setLink_bus (s : State) (v : Link) : (s.setLink v).bus = s.bus := rfl
@[simp] theorem State.setLink_cmd (s : State) (v : Link) : (s.setLink v).cmd = s.cmd := rfl

@[simp] theorem State.setScn_pending (s : State) (v : Scanner) : (s.setScn v).pending = s.pending := rfl
@[simp] theorem State.setScn_serial (s : State) (v : Scanner) : (s.setScn v).serial = s.serial := rfl
@[simp] theorem State.setScn_hold (s : State) (v : Scanner) : (s.setScn v).hold = s.hold := rfl
@[simp] theorem State.setScn_ctl (s : State) (v : Scanner) : (s.setScn v).ctl = s.ctl := rfl
@[simp] theorem State.setScn_ldr (s : State) (v : Scanner) : (s.setScn v).ldr = s.ldr := rfl
@[simp] theorem State.setScn_trk (s : State) (v : Scanner) : (s.setScn v).trk = s.trk := rfl
@[simp] theorem State.setScn_ros (s : State) (v : Scanner) : (s.setScn v).ros = s.ros := rfl
@[simp] theorem State.setScn_pln (s : State) (v : Scanner) : (s.setScn v).pln = s.pln := rfl
@[simp] theorem State.setScn_seq (s : State) (v : Scanner) : (s.setScn v).seq = s.seq := rfl
@[simp] theorem State.setScn_link (s : State) (v : Scanner) : (s.setScn v).link = s.link := rfl
@[simp] theorem State.setScn_scn (s : State) (v : Scanner) : (s.setScn v).scn = v := rfl
@[simp] theorem State.setScn_wip (s : State) (v : Scanner) : (s.setScn v).wip = s.wip := rfl
@[simp] theorem State.setScn_bus (s : State) (v : Scanner) : (s.setScn v).bus = s.bus := rfl
@[simp] theorem State.setScn_cmd (s : State) (v : Scanner) : (s.setScn v).cmd = s.cmd := rfl

@[simp] theorem State.setWip_pending (s : State) (v : Wiper) : (s.setWip v).pending = s.pending := rfl
@[simp] theorem State.setWip_serial (s : State) (v : Wiper) : (s.setWip v).serial = s.serial := rfl
@[simp] theorem State.setWip_hold (s : State) (v : Wiper) : (s.setWip v).hold = s.hold := rfl
@[simp] theorem State.setWip_ctl (s : State) (v : Wiper) : (s.setWip v).ctl = s.ctl := rfl
@[simp] theorem State.setWip_ldr (s : State) (v : Wiper) : (s.setWip v).ldr = s.ldr := rfl
@[simp] theorem State.setWip_trk (s : State) (v : Wiper) : (s.setWip v).trk = s.trk := rfl
@[simp] theorem State.setWip_ros (s : State) (v : Wiper) : (s.setWip v).ros = s.ros := rfl
@[simp] theorem State.setWip_pln (s : State) (v : Wiper) : (s.setWip v).pln = s.pln := rfl
@[simp] theorem State.setWip_seq (s : State) (v : Wiper) : (s.setWip v).seq = s.seq := rfl
@[simp] theorem State.setWip_link (s : State) (v : Wiper) : (s.setWip v).link = s.link := rfl
@[simp] theorem State.setWip_scn (s : State) (v : Wiper) : (s.setWip v).scn = s.scn := rfl
@[simp] theorem State.setWip_wip (s : State) (v : Wiper) : (s.setWip v).wip = v := rfl
@[simp] theorem State.setWip_bus (s : State) (v : Wiper) : (s.setWip v).bus = s.bus := rfl
@[simp] theorem State.setWip_cmd (s : State) (v : Wiper) : (s.setWip v).cmd = s.cmd := rfl

@[simp] theorem State.setBus_pending (s : State) (v : Bus) : (s.setBus v).pending = s.pending := rfl
@[simp] theorem State.setBus_serial (s : State) (v : Bus) : (s.setBus v).serial = s.serial := rfl
@[simp] theorem State.setBus_hold (s : State) (v : Bus) : (s.setBus v).hold = s.hold := rfl
@[simp] theorem State.setBus_ctl (s : State) (v : Bus) : (s.setBus v).ctl = s.ctl := rfl
@[simp] theorem State.setBus_ldr (s : State) (v : Bus) : (s.setBus v).ldr = s.ldr := rfl
@[simp] theorem State.setBus_trk (s : State) (v : Bus) : (s.setBus v).trk = s.trk := rfl
@[simp] theorem State.setBus_ros (s : State) (v : Bus) : (s.setBus v).ros = s.ros := rfl
@[simp] theorem State.setBus_pln (s : State) (v : Bus) : (s.setBus v).pln = s.pln := rfl
@[simp] theorem State.setBus_seq (s : State) (v : Bus) : (s.setBus v).seq = s.seq := rfl
@[simp] theorem State.setBus_link (s : State) (v : Bus) : (s.setBus v).link = s.link := rfl
@[simp] theorem State.setBus_scn (s : State) (v : Bus) : (s.setBus v).scn = s.scn := rfl
@[simp] theorem State.setBus_wip (s : State) (v : Bus) : (s.setBus v).wip = s.wip := rfl
@[simp] theorem State.setBus_bus (s : State) (v : Bus) : (s.setBus v).bus = v := rfl
@[simp] theorem State.setBus_cmd (s : State) (v : Bus) : (s.setBus v).cmd = s.cmd := rfl

@[simp] theorem State.setCmd_pending (s : State) (v : Handler) : (s.setCmd v).pending = s.pending := rfl
@[simp] theorem State.setCmd_serial (s : State) (v : Handler) : (s.setCmd v).serial = s.serial := rfl
@[simp] theorem State.setCmd_hold (s : State) (v : Handler) : (s.setCmd v).hold = s.hold := rfl
@[simp] theorem State.setCmd_ctl (s : State) (v : Handler) : (s.setCmd v).ctl = s.ctl := rfl
@[simp] theorem State.setCmd_ldr (s : State) (v : Handler) : (s.setCmd v).ldr = s.ldr := rfl
@[simp] theorem State.setCmd_trk (s : State) (v : Handler) : (s.setCmd v).trk = s.trk := rfl
@[simp] theorem State.setCmd_ros (s : State) (v : Handler) : (s.setCmd v).ros = s.ros := rfl
@[simp] theorem State.setCmd_pln (s : State) (v : Handler) : (s.setCmd v).pln = s.pln := rfl
@[simp] theorem State.setCmd_seq (s : State) (v : Handler) : (s.setCmd v).seq = s.seq := rfl
@[simp] theorem State.setCmd_link (s : State) (v : Handler) : (s.setCmd v).link = s.link := rfl
@[simp] theorem State.setCmd_scn (s : State) (v : Handler) : (s.setCmd v).scn = s.scn := rfl
@[simp] theorem State.setCmd_wip (s : State) (v : Handler) : (s.setCmd v).wip = s.wip := rfl
@[simp] theorem State.setCmd_bus (s : State) (v : Handler) : (s.setCmd v).bus = s.bus := rfl
@[simp] theorem State.setCmd_cmd (s : State) (v : Handler) : (s.setCmd v).cmd = v := rfl

/-! ### A block replaced twice holds the second value -/

@[simp] theorem State.setPending_twice (s : State) (v w : List Instr) : (s.setPending v).setPending w = s.setPending w := rfl
@[simp] theorem State.setHold_twice (s : State) (v w : ResetHold) : (s.setHold v).setHold w = s.setHold w := rfl
@[simp] theorem State.setCtl_twice (s : State) (v w : Control) : (s.setCtl v).setCtl w = s.setCtl w := rfl
@[simp] theorem State.setLdr_twice (s : State) (v w : Loader) : (s.setLdr v).setLdr w = s.setLdr w := rfl
@[simp] theorem State.setTrk_twice (s : State) (v w : Tracker) : (s.setTrk v).setTrk w = s.setTrk w := rfl
@[simp] theorem State.setRos_twice (s : State) (v w : Roster) : (s.setRos v).setRos w = s.setRos w := rfl
@[simp] theorem State.setPln_twice (s : State) (v w : Planner) : (s.setPln v).setPln w = s.setPln w := rfl
@[simp] theorem State.setSeq_twice (s : State) (v w : Sequencer) : (s.setSeq v).setSeq w = s.setSeq w := rfl
@[simp] theorem State.setLink_twice (s : State) (v w : Link) : (s.setLink v).setLink w = s.setLink w := rfl
@[simp] theorem State.setScn_twice (s : State) (v w : Scanner) : (s.setScn v).setScn w = s.setScn w := rfl
@[simp] theorem State.setWip_twice (s : State) (v w : Wiper) : (s.setWip v).setWip w = s.setWip w := rfl
@[simp] theorem State.setBus_twice (s : State) (v w : Bus) : (s.setBus v).setBus w = s.setBus w := rfl
@[simp] theorem State.setCmd_twice (s : State) (v w : Handler) : (s.setCmd v).setCmd w = s.setCmd w := rfl

end Sys2Proof.Machine
end

