-- ==== Sys2Proof/Laws/Parcels.lean ====
section
/-! SUPPORT. The parcel tracker's operations keep a sound queue: one lemma each. -/

namespace Sys2Proof.Machine

/-! ### Adjacency -/

theorem linked_append (q : List ParcelRec) (r : ParcelRec) (h : linked q = true)
    (ha : ∀ b, q.getLast? = some b → r.firstSeq = b.lastSeq + 1) : linked (q ++ [r]) = true := by
  induction q with
  | nil => simp [linked]
  | cons a q ih =>
    cases q with
    | nil => simpa [linked] using ha a (by simp)
    | cons b q =>
      simp only [linked, Bool.and_eq_true, decide_eq_true_eq] at h
      simp only [List.cons_append, linked, Bool.and_eq_true, decide_eq_true_eq]
      exact ⟨h.1, by simpa using ih h.2 (by simpa using ha)⟩

theorem linked_tail (a : ParcelRec) (q : List ParcelRec) (h : linked (a :: q) = true) : linked q = true := by
  cases q with
  | nil => simp [linked]
  | cons b q => simp only [linked, Bool.and_eq_true] at h; exact h.2

theorem linked_dropWhile (p : ParcelRec → Bool) (q : List ParcelRec) (h : linked q = true) :
    linked (q.dropWhile p) = true := by
  induction q with
  | nil => simpa using h
  | cons a q ih =>
    rw [List.dropWhile_cons]
    split
    · exact ih (linked_tail a q h)
    · exact h

theorem linked_dropLast (q : List ParcelRec) (h : linked q = true) : linked q.dropLast = true := by
  induction q with
  | nil => simpa using h
  | cons a q ih =>
    cases q with
    | nil => simp [linked]
    | cons b q =>
      simp only [linked, Bool.and_eq_true, decide_eq_true_eq] at h
      cases q with
      | nil => simp [linked]
      | cons c q =>
        have := ih h.2
        simp only [List.dropLast_cons_cons, linked, Bool.and_eq_true, decide_eq_true_eq] at this ⊢
        exact ⟨h.1, this⟩

/-- A map that keeps both ends of every range keeps adjacency. -/
theorem linked_map (f : ParcelRec → ParcelRec) (hf : ∀ r, (f r).firstSeq = r.firstSeq ∧ (f r).lastSeq = r.lastSeq)
    (q : List ParcelRec) (h : linked q = true) : linked (q.map f) = true := by
  induction q with
  | nil => simpa using h
  | cons a q ih =>
    cases q with
    | nil => simp [linked]
    | cons b q =>
      simp only [linked, Bool.and_eq_true, decide_eq_true_eq] at h
      simp only [List.map_cons, linked, Bool.and_eq_true, decide_eq_true_eq, hf]
      exact ⟨h.1, by simpa using ih h.2⟩

/-- The newest record replaced by one that begins where it began. -/
theorem linked_replaceLast (q : List ParcelRec) (back r : ParcelRec) (h : linked q = true)
    (hb : q.getLast? = some back) (hr : r.firstSeq = back.firstSeq) : linked (q.dropLast ++ [r]) = true := by
  induction q with
  | nil => simp [linked]
  | cons a q ih =>
    cases q with
    | nil => simp [linked]
    | cons b q =>
      simp only [linked, Bool.and_eq_true, decide_eq_true_eq] at h
      have hi := ih h.2 (by simpa using hb)
      cases q with
      | nil =>
        simp at hb; subst hb
        simp [linked, hr, h.1]
      | cons c q =>
        simp only [List.dropLast_cons_cons, List.cons_append, linked, Bool.and_eq_true, decide_eq_true_eq] at hi ⊢
        exact ⟨h.1, hi⟩

/-! ### Joining (R4, R25) -/

/-- A record brought into line begins one after the back record, with the joining record's end, dose and marks. -/
theorem alignRecord_some {last : Seq} {r r' : ParcelRec} (h : alignRecord last r = some r') :
    r'.firstSeq = last + 1 ∧ r'.lastSeq = r.lastSeq ∧ r'.dose = r.dose ∧ r'.entryMark = r.entryMark ∧
      r'.exitMark = r.exitMark := by
  unfold alignRecord at h
  split at h
  · simp at h; subst h; simp [*]
  · split at h
    · simp at h; subst h; simp
    · split at h
      · simp at h; subst h; simp
      · simp at h

theorem Tracker.join_sound (t : Tracker) (z : Nat) (r : ParcelRec) (h : t.sound z) (hd : r.dose ≤ 999999) :
    (t.join z r).sound z := by
  obtain ⟨h16, hl, hs, hn⟩ := h
  unfold Tracker.join
  cases hb : t.queue.getLast? with
  | none =>
    refine ⟨by simp, by simp [linked], ?_, by simp⟩
    simp [Tracker.marked, ParcelRec.sound, hd]
  | some back =>
    simp only
    cases ha : alignRecord back.lastSeq (t.marked z r) with
    | none => exact ⟨h16, hl, hs, hn⟩
    | some r' =>
      obtain ⟨a1, a2, a3, a4, a5⟩ := alignRecord_some ha
      have hr' : r'.sound z = true := by simp [ParcelRec.sound, a3, a4, a5, Tracker.marked, hd]
      have hbs : back.sound z = true := List.all_eq_true.mp hs back (List.mem_of_getLast? hb)
      refine ⟨?_, ?_, ?_, by simp⟩ <;> simp only [appendRecord]
      · split
        · rename_i hq; simp [queueCap] at hq; simp; omega
        · simp only [hb, List.length_append, List.length_dropLast, List.length_singleton]; omega
      · split
        · exact linked_append _ _ hl (by rw [hb]; rintro b ⟨⟩; exact a1)
        · simp only [hb]
          exact linked_replaceLast _ back _ hl hb (by simp [mergeRecord])
      · split
        · simp [hs, hr']
        · simp only [hb, List.all_append, Bool.and_eq_true]
          refine ⟨List.all_eq_true.mpr fun x hx => List.all_eq_true.mp hs x (List.mem_of_mem_dropLast hx), ?_⟩
          simp only [ParcelRec.sound, Bool.and_eq_true, decide_eq_true_eq] at hbs
          simp [mergeRecord, ParcelRec.sound, hbs.1, hbs.2]

/-- A sound tracker with other counts, watermark, break or marks is sound. -/
theorem Tracker.sound_of_same {t u : Tracker} {z : Nat} (h : t.sound z) (hq : u.queue = t.queue)
    (hn : u.nextExpected = t.nextExpected) : u.sound z := by
  unfold Tracker.sound at *; rw [hq, hn]; exact h

theorem Tracker.joinPlaceholder_sound (t : Tracker) (z own : Nat) (a b : Seq) (h : t.sound z) :
    (t.joinPlaceholder z own a b).sound z :=
  Tracker.sound_of_same (t.join_sound z (placeholder own a b) h (by simp [placeholder])) rfl rfl

theorem Tracker.accept_sound (t : Tracker) (z own : Nat) (r : ParcelRec) (h : t.sound z) (hd : r.dose ≤ 999999) :
    (t.accept z own r).sound z := by
  unfold Tracker.accept
  cases hne : t.nextExpected with
  | none => exact t.join_sound z r h hd
  | some ne =>
    simp only
    split
    · exact t.join_sound z r h hd
    split
    · exact Tracker.join_sound _ z r (Tracker.sound_of_same h rfl hne.symm) hd
    split
    · exact Tracker.join_sound _ z r (t.joinPlaceholder_sound z own _ _ h) hd
    split
    · exact Tracker.join_sound _ z _ (Tracker.sound_of_same h rfl hne.symm) hd
    split
    · exact Tracker.sound_of_same h rfl hne.symm
    · exact Tracker.join_sound _ z _ (Tracker.sound_of_same h rfl hne.symm) hd

theorem Tracker.adopt_sound (t : Tracker) (z own : Nat) (r : ParcelRec) (h : t.sound z) (hd : r.dose ≤ 999999) :
    (t.adopt z own r).sound z := by
  unfold Tracker.adopt
  split
  · exact Tracker.accept_sound _ _ _ _ h hd
  · exact Tracker.accept_sound _ _ _ _ (Tracker.sound_of_same h rfl rfl) hd

/-! ### The four steps of an expiry (R10) -/

theorem Tracker.count_sound (t : Tracker) (z q : Nat) (h : t.sound z) : (t.count q).sound z :=
  Tracker.sound_of_same h rfl rfl

theorem Tracker.create_sound (t : Tracker) (z own vP : Nat) (h : t.sound z) : (t.create z own vP).sound z := by
  unfold Tracker.create
  split
  · split
    · exact h
    · exact Tracker.sound_of_same (t.join_sound z _ h (by simp [createdRecord])) rfl rfl
  · exact h

theorem Tracker.credit_sound (t : Tracker) (z f : Nat) (c : Byte) (h : t.sound z) : (t.credit f c).sound z := by
  obtain ⟨h16, hl, hs, hn⟩ := h
  refine ⟨by simpa [Tracker.credit] using h16, ?_, ?_, ?_⟩
  · refine linked_map _ (fun r => ?_) _ hl
    unfold creditRecord; split <;> simp
  · simp only [Tracker.credit, List.all_map, List.all_eq_true] at hs ⊢
    intro r hr
    have := hs r hr
    simp only [Function.comp, creditRecord]
    split
    · exact this
    · simp only [ParcelRec.sound, Bool.and_eq_true, decide_eq_true_eq] at this ⊢
      exact ⟨this.1, by omega⟩
  · intro hne; simp [Tracker.credit, hn hne]

theorem Tracker.exit_sound (t : Tracker) (z : Nat) (h : t.sound z) : t.exit.sound z := by
  obtain ⟨h16, hl, hs, hn⟩ := h
  refine ⟨?_, linked_dropWhile _ _ hl, ?_, ?_⟩
  · exact le_trans (List.dropWhile_sublist _).length_le h16
  · exact List.all_eq_true.mpr fun r hr => List.all_eq_true.mp hs r ((List.dropWhile_sublist _).subset hr)
  · intro hne; simp [Tracker.exit, hn hne]

/-! ### Creation begins and stops; isolation -/

theorem Tracker.expectFrom_sound (t : Tracker) (z : Nat) (s : Seq) (h : t.sound z) : (t.expectFrom s).sound z := by
  obtain ⟨h16, hl, hs, hn⟩ := h
  unfold Tracker.expectFrom
  cases hne : t.nextExpected with
  | none => exact ⟨h16, hl, hs, by simp⟩
  | some ne =>
    simp only
    split
    · exact ⟨h16, hl, hs, hn⟩
    · exact ⟨h16, hl, hs, by simp⟩

theorem Tracker.takeOverByLoss_sound (t : Tracker) (z own : Nat) (h : t.sound z) :
    (t.takeOverByLoss z own).sound z := by
  unfold Tracker.takeOverByLoss
  split
  · simp only
    split
    · exact Tracker.expectFrom_sound _ _ _ (t.joinPlaceholder_sound _ _ _ _ h)
    · split
      · exact Tracker.expectFrom_sound _ _ _ (Tracker.sound_of_same h rfl rfl)
      · exact h
  · exact h
  · exact t.expectFrom_sound z _ h
  · exact t.expectFrom_sound z _ h

theorem Tracker.begin_sound (t : Tracker) (z own : Nat) (w : HeadWay) (h : t.sound z) :
    (t.begin z own w).sound z := by
  unfold Tracker.begin
  cases w with
  | byJoining s => exact Tracker.expectFrom_sound _ _ _ (Tracker.sound_of_same h rfl rfl)
  | onReturn => exact Tracker.expectFrom_sound _ _ _ (Tracker.sound_of_same h rfl rfl)
  | byLoss => exact Tracker.takeOverByLoss_sound _ _ _ (Tracker.sound_of_same h rfl rfl)

theorem Tracker.stop_sound (t : Tracker) (z : Nat) (h : t.sound z) : t.stop.sound z :=
  Tracker.sound_of_same h rfl rfl

theorem Tracker.isolate_empty (t : Tracker) : t.isolate.queue = [] ∧ t.isolate.nextExpected = none := ⟨rfl, rfl⟩

theorem Tracker.isolate_sound (t : Tracker) (z : Nat) : t.isolate.sound z := by
  simp [Tracker.sound, Tracker.isolate, linked]

end Sys2Proof.Machine
end

