-- ==== Sys2Proof/Laws/Ops.lean ====
section
/-! SUPPORT. What the shared operations leave alone, one lemma each, and what posting does to the poster's state. -/

namespace Sys2Proof.Machine

@[simp] theorem giveUp_keeps (s : State) (f : Frame) :
    (giveUp s f).pending = s.pending ∧ (giveUp s f).serial = s.serial ∧ (giveUp s f).hold = s.hold ∧
    (giveUp s f).ctl = s.ctl ∧ (giveUp s f).ldr = s.ldr ∧ (giveUp s f).trk = s.trk ∧ (giveUp s f).ros = s.ros ∧
    (giveUp s f).pln = s.pln ∧ (giveUp s f).seq = s.seq ∧ (giveUp s f).link = s.link ∧ (giveUp s f).scn = s.scn := by
  simp [giveUp]

@[simp] theorem giveUpAll_keeps (s : State) (fs : List Frame) :
    (giveUpAll s fs).pending = s.pending ∧ (giveUpAll s fs).serial = s.serial ∧
    (giveUpAll s fs).hold = s.hold ∧ (giveUpAll s fs).ctl = s.ctl ∧ (giveUpAll s fs).ldr = s.ldr ∧
    (giveUpAll s fs).trk = s.trk ∧ (giveUpAll s fs).ros = s.ros ∧ (giveUpAll s fs).pln = s.pln ∧
    (giveUpAll s fs).seq = s.seq ∧ (giveUpAll s fs).link = s.link ∧ (giveUpAll s fs).scn = s.scn := by
  unfold giveUpAll
  induction fs generalizing s with
  | nil => simp
  | cons f fs ih => simp [ih]

@[simp] theorem post_keeps (s : State) (b : Body) :
    (post s b).pending = s.pending ∧ (post s b).serial = s.serial ∧ (post s b).hold = s.hold ∧
    (post s b).ctl = s.ctl ∧ (post s b).ldr = s.ldr ∧ (post s b).trk = s.trk ∧ (post s b).ros = s.ros ∧
    (post s b).pln = s.pln ∧ (post s b).seq = s.seq ∧ (post s b).link = s.link ∧ (post s b).scn = s.scn := by
  simp [post]

@[simp] theorem postAll_keeps (s : State) (bs : List Body) :
    (postAll s bs).pending = s.pending ∧ (postAll s bs).serial = s.serial ∧ (postAll s bs).hold = s.hold ∧
    (postAll s bs).ctl = s.ctl ∧ (postAll s bs).ldr = s.ldr ∧ (postAll s bs).trk = s.trk ∧
    (postAll s bs).ros = s.ros ∧ (postAll s bs).pln = s.pln ∧ (postAll s bs).seq = s.seq ∧
    (postAll s bs).link = s.link ∧ (postAll s bs).scn = s.scn := by
  unfold postAll
  induction bs generalizing s with
  | nil => simp
  | cons b bs ih => simp [ih]

@[simp] theorem startSourceTimers_keeps (s : State) :
    (startSourceTimers s).pending = s.pending ∧ (startSourceTimers s).serial = s.serial ∧
    (startSourceTimers s).hold = s.hold ∧ (startSourceTimers s).ctl = s.ctl ∧
    (startSourceTimers s).ldr = s.ldr ∧ (startSourceTimers s).trk = s.trk ∧ (startSourceTimers s).ros = s.ros ∧
    (startSourceTimers s).seq = s.seq ∧ (startSourceTimers s).link = s.link ∧
    (startSourceTimers s).scn = s.scn ∧ (startSourceTimers s).wip = s.wip ∧ (startSourceTimers s).bus = s.bus ∧
    (startSourceTimers s).cmd = s.cmd := by
  simp [startSourceTimers]

@[simp] theorem restartScan_keeps (s : State) :
    (restartScan s).pending = s.pending ∧ (restartScan s).serial = s.serial ∧ (restartScan s).hold = s.hold ∧
    (restartScan s).ctl = s.ctl ∧ (restartScan s).ldr = s.ldr ∧ (restartScan s).trk = s.trk ∧
    (restartScan s).ros = s.ros ∧ (restartScan s).pln = s.pln ∧ (restartScan s).seq = s.seq ∧
    (restartScan s).link = s.link ∧ (restartScan s).wip = s.wip ∧ (restartScan s).bus = s.bus ∧
    (restartScan s).cmd = s.cmd := by
  simp [restartScan]

@[simp] theorem judgeRoster_keeps (s : State) :
    (judgeRoster s).pending = s.pending ∧ (judgeRoster s).serial = s.serial ∧ (judgeRoster s).hold = s.hold ∧
    (judgeRoster s).ldr = s.ldr ∧ (judgeRoster s).trk = s.trk ∧ (judgeRoster s).pln = s.pln ∧
    (judgeRoster s).seq = s.seq ∧ (judgeRoster s).link = s.link ∧ (judgeRoster s).scn = s.scn ∧
    (judgeRoster s).wip = s.wip ∧ (judgeRoster s).bus = s.bus ∧ (judgeRoster s).cmd = s.cmd := by
  simp [judgeRoster]

/-! ### A frame given up changes of the wiper its claim alone, and of the handler the reply and the restart -/

theorem Wiper.claimGone_keeps (w : Wiper) (t : Nat) :
    (w.claimGone t).whome = w.whome ∧ (w.claimGone t).wend = w.wend ∧ (w.claimGone t).stroke = w.stroke ∧
      (w.claimGone t).release = w.release ∧ (w.claimGone t).interval = w.interval ∧
      (w.claimGone t).window = w.window ∧ (w.claimGone t).wait = w.wait ∧ (w.claimGone t).owed = w.owed ∧
      (w.claimGone t).strokes = w.strokes ∧ (w.claimGone t).faults = w.faults ∧
      (w.claimGone t).withdrawals = w.withdrawals := by
  unfold Wiper.claimGone; split <;> simp

/-- A wiper outside CLAIMING is told of no claim. -/
theorem Wiper.claimGone_of_ne (w : Wiper) (t : Nat) (h : w.state ≠ .claiming) : w.claimGone t = w := by
  unfold Wiper.claimGone; simp [h]

theorem giveUpAll_wip_of_ne (s : State) (fs : List Frame) (h : s.wip.state ≠ .claiming) :
    (giveUpAll s fs).wip = s.wip := by
  unfold giveUpAll
  induction fs generalizing s with
  | nil => rfl
  | cons f fs ih =>
    have hg : (giveUp s f).wip = s.wip := by simp [giveUp, Wiper.claimGone_of_ne _ _ h]
    rw [List.foldl_cons, ih _ (by rw [hg]; exact h), hg]

/-- Posting leaves a wiper outside CLAIMING alone. -/
theorem post_wip_of_ne (s : State) (b : Body) (h : s.wip.state ≠ .claiming) : (post s b).wip = s.wip := by
  unfold post; rw [giveUpAll_wip_of_ne] <;> simp [h]

/-- Posting changes of the wiper its state and its claim alone. -/
theorem giveUpAll_wip_keeps (s : State) (fs : List Frame) :
    (giveUpAll s fs).wip.whome = s.wip.whome ∧ (giveUpAll s fs).wip.wend = s.wip.wend ∧
      (giveUpAll s fs).wip.stroke = s.wip.stroke ∧ (giveUpAll s fs).wip.release = s.wip.release ∧
      (giveUpAll s fs).wip.interval = s.wip.interval ∧ (giveUpAll s fs).wip.window = s.wip.window ∧
      (giveUpAll s fs).wip.wait = s.wip.wait ∧ (giveUpAll s fs).wip.owed = s.wip.owed ∧
      (giveUpAll s fs).wip.strokes = s.wip.strokes ∧ (giveUpAll s fs).wip.faults = s.wip.faults ∧
      (giveUpAll s fs).wip.withdrawals = s.wip.withdrawals := by
  unfold giveUpAll
  induction fs generalizing s with
  | nil => simp
  | cons f fs ih =>
    have hk := Wiper.claimGone_keeps s.wip f.ticket
    simp only [List.foldl_cons, ih]
    simpa [giveUp] using hk

theorem post_wip_keeps (s : State) (b : Body) :
    (post s b).wip.whome = s.wip.whome ∧ (post s b).wip.wend = s.wip.wend ∧
      (post s b).wip.stroke = s.wip.stroke ∧ (post s b).wip.release = s.wip.release ∧
      (post s b).wip.interval = s.wip.interval ∧ (post s b).wip.window = s.wip.window ∧
      (post s b).wip.wait = s.wip.wait ∧ (post s b).wip.owed = s.wip.owed ∧
      (post s b).wip.strokes = s.wip.strokes ∧ (post s b).wip.faults = s.wip.faults ∧
      (post s b).wip.withdrawals = s.wip.withdrawals := by
  have h := giveUpAll_wip_keeps
    (s.setBus ({ s.bus with nextTicket := s.bus.nextTicket + 1 }.post (ownFrame s b)).bus)
    ({ s.bus with nextTicket := s.bus.nextTicket + 1 }.post (ownFrame s b)).givenUp
  simpa [post] using h

theorem Handler.frameGone_keeps (h : Handler) (t : Nat) :
    (h.frameGone t).ignored = h.ignored ∧ (h.frameGone t).restart.isSome = h.restart.isSome := by
  simp [Handler.frameGone]

@[simp] theorem giveUpAll_cmd_keeps (s : State) (fs : List Frame) :
    (giveUpAll s fs).cmd.ignored = s.cmd.ignored ∧
      (giveUpAll s fs).cmd.restart.isSome = s.cmd.restart.isSome := by
  unfold giveUpAll
  induction fs generalizing s with
  | nil => simp
  | cons f fs ih =>
    have hk := Handler.frameGone_keeps s.cmd f.ticket
    simp only [List.foldl_cons, ih]
    simpa [giveUp] using hk

@[simp] theorem post_cmd_keeps (s : State) (b : Body) :
    (post s b).cmd.ignored = s.cmd.ignored ∧ (post s b).cmd.restart.isSome = s.cmd.restart.isSome := by
  simp [post]

/-! ### A queue with room -/

/-- A queue with fewer than 12 frames takes what is posted, and nothing else changes (R180, R181). -/
theorem post_of_room (s : State) (b : Body) (h : s.bus.queue.length < transmitCap) :
    post s b = s.setBus { s.bus with
      nextTicket := s.bus.nextTicket + 1
      queue := if s.bus.queue.any (sameRenewable b) then renew (ownFrame s b) s.bus.queue
        else enqueue (ownFrame s b) s.bus.queue } := by
  have hb : (ownFrame s b).body = b := rfl
  unfold post Bus.post
  simp only [hb]
  by_cases hr : s.bus.queue.any (sameRenewable b)
  · simp [hr, giveUpAll]
  · simp [hr, h, giveUpAll]

/-! ### What has not stood long enough changes nothing; what has is the event -/

theorem onceStood_of_lt {least stood : Nat} (s : State) (f : State → State) (h : stood < least) :
    onceStood least stood s f = s := by
  simp [onceStood, h]

theorem onceStood_of_le {least stood : Nat} (s : State) (f : State → State) (h : least ≤ stood) :
    onceStood least stood s f = f s := by
  simp [onceStood, Nat.not_lt.mpr h]

/-- What holds before and after the event holds after the command, however long its level has stood. -/
theorem onceStood_keeps {P : State → Prop} {least stood : Nat} {s : State} {f : State → State} (h : P s)
    (hf : P (f s)) : P (onceStood least stood s f) := by
  unfold onceStood; split <;> assumption

/-! ### Outside reset, with no restart pending, an event is its own effect -/

theorem restartDue_of_none {s : State} (h : s.cmd.restart = none) : restartDue s = false := by
  simp [restartDue, h]

theorem closeRestart_of_none {s : State} (h : s.cmd.restart = none) : closeRestart s = s := by
  simp [closeRestart, restartDue_of_none h]

theorem outsideReset_of_run {s : State} (f : State → State) (h : s.hold.held = false) : outsideReset s f = f s := by
  simp [outsideReset, h]

/-- The one lemma about `event`. -/
theorem event_of_run {s : State} (f : State → State) (h : s.hold.held = false) (hr : (f s).cmd.restart = none) :
    event s f = f s := by
  simp [event, outsideReset, h, closeRestart_of_none hr]

theorem event_of_held {s : State} (f : State → State) (h : s.hold.held = true) : event s f = s := by
  simp [event, outsideReset, h]

/-- Taking a reset keeps the command queue, the serial number, the cause, the straps and what the supply monitor holds. -/
@[simp] theorem takeReset_keeps (s : State) (h : ResetHold) :
    (takeReset s h).pending = s.pending ∧ (takeReset s h).serial = s.serial ∧ (takeReset s h).hold.held = true ∧
      (takeReset s h).ldr.straps = s.ldr.straps ∧ (takeReset s h).ldr.supply = s.ldr.supply ∧
      (takeReset s h).hold = { h with held := true } ∧ (takeReset s h).ctl.resetCause = s.ctl.resetCause ∧
      (takeReset s h).trk = State.reset.trk ∧ (takeReset s h).ros = State.reset.ros ∧
      (takeReset s h).pln = State.reset.pln ∧ (takeReset s h).link = State.reset.link ∧
      (takeReset s h).scn = State.reset.scn ∧ (takeReset s h).wip = State.reset.wip ∧
      (takeReset s h).bus = State.reset.bus ∧ (takeReset s h).cmd = State.reset.cmd := by
  simp [takeReset]

@[simp] theorem closeRestart_pending (s : State) : (closeRestart s).pending = s.pending := by
  unfold closeRestart; split <;> simp [takeRestart]

@[simp] theorem closeRestart_serial (s : State) : (closeRestart s).serial = s.serial := by
  unfold closeRestart; split <;> simp [takeRestart]

end Sys2Proof.Machine
end

