-- ==== Sys2Proof/Laws/Lamps.lean ====
section
/-! SUPPORT. What the operations of the lamp sequencer and the ballast link leave alone, one lemma each. -/

namespace Sys2Proof.Machine

@[simp] theorem setLamps_keeps (s : State) (ls : List Lamp) :
    (setLamps s ls).pending = s.pending ∧ (setLamps s ls).serial = s.serial ∧ (setLamps s ls).hold = s.hold ∧
    (setLamps s ls).ctl = s.ctl ∧ (setLamps s ls).ldr = s.ldr ∧ (setLamps s ls).trk = s.trk ∧
    (setLamps s ls).ros = s.ros ∧ (setLamps s ls).pln = s.pln ∧ (setLamps s ls).link = s.link ∧
    (setLamps s ls).scn = s.scn ∧ (setLamps s ls).wip = s.wip ∧ (setLamps s ls).bus = s.bus ∧
    (setLamps s ls).cmd = s.cmd := by
  simp [setLamps]

@[simp] theorem mapLamp_keeps (s : State) (i : Nat) (f : Lamp → Lamp) :
    (mapLamp s i f).pending = s.pending ∧ (mapLamp s i f).serial = s.serial ∧ (mapLamp s i f).hold = s.hold ∧
    (mapLamp s i f).ctl = s.ctl ∧ (mapLamp s i f).ldr = s.ldr ∧ (mapLamp s i f).trk = s.trk ∧
    (mapLamp s i f).ros = s.ros ∧ (mapLamp s i f).pln = s.pln ∧ (mapLamp s i f).link = s.link ∧
    (mapLamp s i f).scn = s.scn ∧ (mapLamp s i f).wip = s.wip ∧ (mapLamp s i f).bus = s.bus ∧
    (mapLamp s i f).cmd = s.cmd := by
  simp [mapLamp]

@[simp] theorem mapLamps_keeps (s : State) (p : Lamp → Bool) (f : Lamp → Lamp) :
    (mapLamps s p f).pending = s.pending ∧ (mapLamps s p f).serial = s.serial ∧
    (mapLamps s p f).hold = s.hold ∧ (mapLamps s p f).ctl = s.ctl ∧ (mapLamps s p f).ldr = s.ldr ∧
    (mapLamps s p f).trk = s.trk ∧ (mapLamps s p f).ros = s.ros ∧ (mapLamps s p f).pln = s.pln ∧
    (mapLamps s p f).link = s.link ∧ (mapLamps s p f).scn = s.scn ∧ (mapLamps s p f).wip = s.wip ∧
    (mapLamps s p f).bus = s.bus ∧ (mapLamps s p f).cmd = s.cmd := by
  simp [mapLamps]

@[simp] theorem enterLamp_keeps (s : State) (i : Nat) (st : LampState) :
    (enterLamp s i st).pending = s.pending ∧ (enterLamp s i st).serial = s.serial ∧
    (enterLamp s i st).hold = s.hold ∧ (enterLamp s i st).ctl = s.ctl ∧ (enterLamp s i st).ldr = s.ldr ∧
    (enterLamp s i st).trk = s.trk ∧ (enterLamp s i st).ros = s.ros ∧ (enterLamp s i st).pln = s.pln ∧
    (enterLamp s i st).link = s.link ∧ (enterLamp s i st).scn = s.scn ∧ (enterLamp s i st).wip = s.wip ∧
    (enterLamp s i st).bus = s.bus ∧ (enterLamp s i st).cmd = s.cmd := by
  simp [enterLamp]

@[simp] theorem requestUrgent_keeps (s : State) (b : Nat) :
    (requestUrgent s b).pending = s.pending ∧ (requestUrgent s b).serial = s.serial ∧
    (requestUrgent s b).hold = s.hold ∧ (requestUrgent s b).ctl = s.ctl ∧ (requestUrgent s b).ldr = s.ldr ∧
    (requestUrgent s b).trk = s.trk ∧ (requestUrgent s b).ros = s.ros ∧ (requestUrgent s b).pln = s.pln ∧
    (requestUrgent s b).seq = s.seq ∧ (requestUrgent s b).scn = s.scn ∧ (requestUrgent s b).wip = s.wip ∧
    (requestUrgent s b).bus = s.bus ∧ (requestUrgent s b).cmd = s.cmd := by
  simp [requestUrgent]

@[simp] theorem failLamp_keeps (s : State) (i : Nat) (c : FailCause) :
    (failLamp s i c).pending = s.pending ∧ (failLamp s i c).serial = s.serial ∧
    (failLamp s i c).hold = s.hold ∧ (failLamp s i c).ctl = s.ctl ∧ (failLamp s i c).ldr = s.ldr ∧
    (failLamp s i c).trk = s.trk ∧ (failLamp s i c).ros = s.ros ∧ (failLamp s i c).pln = s.pln ∧
    (failLamp s i c).scn = s.scn ∧ (failLamp s i c).wip = s.wip ∧ (failLamp s i c).bus = s.bus ∧
    (failLamp s i c).cmd = s.cmd := by
  simp [failLamp]

@[simp] theorem failBallast_keeps (s : State) (b : Nat) (c : FailCause) :
    (failBallast s b c).pending = s.pending ∧ (failBallast s b c).serial = s.serial ∧
    (failBallast s b c).hold = s.hold ∧ (failBallast s b c).ctl = s.ctl ∧ (failBallast s b c).ldr = s.ldr ∧
    (failBallast s b c).trk = s.trk ∧ (failBallast s b c).ros = s.ros ∧ (failBallast s b c).pln = s.pln ∧
    (failBallast s b c).scn = s.scn ∧ (failBallast s b c).wip = s.wip ∧ (failBallast s b c).bus = s.bus ∧
    (failBallast s b c).cmd = s.cmd := by
  unfold failBallast; split <;> simp

@[simp] theorem strikeLamp_keeps (s : State) (l : Lamp) :
    (strikeLamp s l).pending = s.pending ∧ (strikeLamp s l).serial = s.serial ∧
    (strikeLamp s l).hold = s.hold ∧ (strikeLamp s l).ctl = s.ctl ∧ (strikeLamp s l).ldr = s.ldr ∧
    (strikeLamp s l).trk = s.trk ∧ (strikeLamp s l).ros = s.ros ∧ (strikeLamp s l).pln = s.pln ∧
    (strikeLamp s l).link = s.link ∧ (strikeLamp s l).scn = s.scn ∧ (strikeLamp s l).wip = s.wip ∧
    (strikeLamp s l).bus = s.bus ∧ (strikeLamp s l).cmd = s.cmd := by
  simp [strikeLamp]

@[simp] theorem judgeStrike_keeps (s : State) :
    (judgeStrike s).pending = s.pending ∧ (judgeStrike s).serial = s.serial ∧ (judgeStrike s).hold = s.hold ∧
    (judgeStrike s).ctl = s.ctl ∧ (judgeStrike s).ldr = s.ldr ∧ (judgeStrike s).trk = s.trk ∧
    (judgeStrike s).ros = s.ros ∧ (judgeStrike s).pln = s.pln ∧ (judgeStrike s).link = s.link ∧
    (judgeStrike s).scn = s.scn ∧ (judgeStrike s).wip = s.wip ∧ (judgeStrike s).bus = s.bus ∧
    (judgeStrike s).cmd = s.cmd := by
  unfold judgeStrike; split <;> [split; skip] <;> simp

@[simp] theorem judgeHoldoff_keeps (s : State) :
    (judgeHoldoff s).pending = s.pending ∧ (judgeHoldoff s).serial = s.serial ∧
    (judgeHoldoff s).hold = s.hold ∧ (judgeHoldoff s).ctl = s.ctl ∧ (judgeHoldoff s).ldr = s.ldr ∧
    (judgeHoldoff s).trk = s.trk ∧ (judgeHoldoff s).ros = s.ros ∧ (judgeHoldoff s).pln = s.pln ∧
    (judgeHoldoff s).link = s.link ∧ (judgeHoldoff s).scn = s.scn ∧ (judgeHoldoff s).wip = s.wip ∧
    (judgeHoldoff s).bus = s.bus ∧ (judgeHoldoff s).cmd = s.cmd := by
  simp [judgeHoldoff]

@[simp] theorem judgeLevel_keeps (s : State) :
    (judgeLevel s).pending = s.pending ∧ (judgeLevel s).serial = s.serial ∧ (judgeLevel s).hold = s.hold ∧
    (judgeLevel s).ctl = s.ctl ∧ (judgeLevel s).ldr = s.ldr ∧ (judgeLevel s).trk = s.trk ∧
    (judgeLevel s).ros = s.ros ∧ (judgeLevel s).pln = s.pln ∧ (judgeLevel s).link = s.link ∧
    (judgeLevel s).scn = s.scn ∧ (judgeLevel s).wip = s.wip ∧ (judgeLevel s).bus = s.bus ∧
    (judgeLevel s).cmd = s.cmd := by
  simp [judgeLevel]

@[simp] theorem judgeLamps_keeps (s : State) :
    (judgeLamps s).pending = s.pending ∧ (judgeLamps s).serial = s.serial ∧ (judgeLamps s).hold = s.hold ∧
    (judgeLamps s).ctl = s.ctl ∧ (judgeLamps s).ldr = s.ldr ∧ (judgeLamps s).trk = s.trk ∧
    (judgeLamps s).ros = s.ros ∧ (judgeLamps s).pln = s.pln ∧ (judgeLamps s).link = s.link ∧
    (judgeLamps s).scn = s.scn ∧ (judgeLamps s).wip = s.wip ∧ (judgeLamps s).bus = s.bus ∧
    (judgeLamps s).cmd = s.cmd := by
  unfold judgeLamps; split <;> simp

@[simp] theorem refreshSetpoint_keeps (s : State) :
    (refreshSetpoint s).pending = s.pending ∧ (refreshSetpoint s).serial = s.serial ∧
    (refreshSetpoint s).hold = s.hold ∧ (refreshSetpoint s).ctl = s.ctl ∧ (refreshSetpoint s).ldr = s.ldr ∧
    (refreshSetpoint s).trk = s.trk ∧ (refreshSetpoint s).ros = s.ros ∧ (refreshSetpoint s).seq = s.seq ∧
    (refreshSetpoint s).link = s.link ∧ (refreshSetpoint s).scn = s.scn ∧ (refreshSetpoint s).wip = s.wip ∧
    (refreshSetpoint s).bus = s.bus ∧ (refreshSetpoint s).cmd = s.cmd := by
  unfold refreshSetpoint; split <;> simp

@[simp] theorem beginVisit_keeps (s : State) (b : Nat) :
    (beginVisit s b).pending = s.pending ∧ (beginVisit s b).serial = s.serial ∧
    (beginVisit s b).hold = s.hold ∧ (beginVisit s b).ctl = s.ctl ∧ (beginVisit s b).ldr = s.ldr ∧
    (beginVisit s b).trk = s.trk ∧ (beginVisit s b).ros = s.ros ∧ (beginVisit s b).pln = s.pln ∧
    (beginVisit s b).seq = s.seq ∧ (beginVisit s b).scn = s.scn ∧ (beginVisit s b).wip = s.wip ∧
    (beginVisit s b).bus = s.bus ∧ (beginVisit s b).cmd = s.cmd := by
  simp [beginVisit]

@[simp] theorem visitCursor_keeps (s : State) :
    (visitCursor s).pending = s.pending ∧ (visitCursor s).serial = s.serial ∧ (visitCursor s).hold = s.hold ∧
    (visitCursor s).ctl = s.ctl ∧ (visitCursor s).ldr = s.ldr ∧ (visitCursor s).trk = s.trk ∧
    (visitCursor s).ros = s.ros ∧ (visitCursor s).pln = s.pln ∧ (visitCursor s).seq = s.seq ∧
    (visitCursor s).scn = s.scn ∧ (visitCursor s).wip = s.wip ∧ (visitCursor s).bus = s.bus ∧
    (visitCursor s).cmd = s.cmd := by
  simp [visitCursor]

@[simp] theorem pump_keeps (s : State) :
    (pump s).pending = s.pending ∧ (pump s).serial = s.serial ∧ (pump s).hold = s.hold ∧ (pump s).ctl = s.ctl ∧
    (pump s).ldr = s.ldr ∧ (pump s).trk = s.trk ∧ (pump s).ros = s.ros ∧ (pump s).pln = s.pln ∧
    (pump s).seq = s.seq ∧ (pump s).scn = s.scn ∧ (pump s).wip = s.wip ∧ (pump s).bus = s.bus ∧
    (pump s).cmd = s.cmd := by
  unfold pump
  split
  · simp only
    split <;> split <;> (try split) <;> (try split) <;> (try split) <;> simp
  · simp

@[simp] theorem lampEvent_keeps (s : State) :
    (lampEvent s).pending = s.pending ∧ (lampEvent s).serial = s.serial ∧ (lampEvent s).hold = s.hold ∧
    (lampEvent s).ctl = s.ctl ∧ (lampEvent s).ldr = s.ldr ∧ (lampEvent s).trk = s.trk ∧
    (lampEvent s).ros = s.ros ∧ (lampEvent s).scn = s.scn ∧ (lampEvent s).wip = s.wip ∧
    (lampEvent s).bus = s.bus ∧ (lampEvent s).cmd = s.cmd := by
  simp [lampEvent]

@[simp] theorem statusEvent_keeps (s : State) (i : Nat) (st : LampStatus) :
    (statusEvent s i st).pending = s.pending ∧ (statusEvent s i st).serial = s.serial ∧
    (statusEvent s i st).hold = s.hold ∧ (statusEvent s i st).ctl = s.ctl ∧ (statusEvent s i st).ldr = s.ldr ∧
    (statusEvent s i st).trk = s.trk ∧ (statusEvent s i st).ros = s.ros ∧ (statusEvent s i st).pln = s.pln ∧
    (statusEvent s i st).scn = s.scn ∧ (statusEvent s i st).wip = s.wip ∧ (statusEvent s i st).bus = s.bus ∧
    (statusEvent s i st).cmd = s.cmd := by
  unfold statusEvent
  simp only
  repeat' split
  all_goals simp

@[simp] theorem replyEvent_keeps (s : State) (b : Nat) (r : BallastReply) :
    (replyEvent s b r).pending = s.pending ∧ (replyEvent s b r).serial = s.serial ∧
    (replyEvent s b r).hold = s.hold ∧ (replyEvent s b r).ctl = s.ctl ∧ (replyEvent s b r).ldr = s.ldr ∧
    (replyEvent s b r).trk = s.trk ∧ (replyEvent s b r).ros = s.ros ∧ (replyEvent s b r).pln = s.pln ∧
    (replyEvent s b r).scn = s.scn ∧ (replyEvent s b r).wip = s.wip ∧ (replyEvent s b r).bus = s.bus ∧
    (replyEvent s b r).cmd = s.cmd := by
  unfold replyEvent
  simp only
  split <;> simp

@[simp] theorem endVisit_keeps (s : State) :
    (endVisit s).pending = s.pending ∧ (endVisit s).serial = s.serial ∧ (endVisit s).hold = s.hold ∧
    (endVisit s).ctl = s.ctl ∧ (endVisit s).ldr = s.ldr ∧ (endVisit s).trk = s.trk ∧ (endVisit s).ros = s.ros ∧
    (endVisit s).pln = s.pln ∧ (endVisit s).seq = s.seq ∧ (endVisit s).scn = s.scn ∧ (endVisit s).wip = s.wip ∧
    (endVisit s).bus = s.bus ∧ (endVisit s).cmd = s.cmd := by
  simp [endVisit]

@[simp] theorem completeReadback_keeps (s : State) (fs : List (Option BallastReply)) :
    (completeReadback s fs).pending = s.pending ∧ (completeReadback s fs).serial = s.serial ∧
    (completeReadback s fs).hold = s.hold ∧ (completeReadback s fs).ctl = s.ctl ∧
    (completeReadback s fs).ldr = s.ldr ∧ (completeReadback s fs).trk = s.trk ∧
    (completeReadback s fs).ros = s.ros ∧ (completeReadback s fs).scn = s.scn ∧
    (completeReadback s fs).wip = s.wip ∧ (completeReadback s fs).bus = s.bus ∧
    (completeReadback s fs).cmd = s.cmd := by
  simp [completeReadback]

@[simp] theorem advanceReadback_keeps (s : State) (fs : List (Option BallastReply)) :
    (advanceReadback s fs).pending = s.pending ∧ (advanceReadback s fs).serial = s.serial ∧
    (advanceReadback s fs).hold = s.hold ∧ (advanceReadback s fs).ctl = s.ctl ∧
    (advanceReadback s fs).ldr = s.ldr ∧ (advanceReadback s fs).trk = s.trk ∧
    (advanceReadback s fs).ros = s.ros ∧ (advanceReadback s fs).scn = s.scn ∧
    (advanceReadback s fs).wip = s.wip ∧ (advanceReadback s fs).bus = s.bus ∧ (advanceReadback s fs).cmd = s.cmd := by
  unfold advanceReadback; split <;> simp

@[simp] theorem startReadback_keeps (s : State) (n : Nat) :
    (startReadback s n).pending = s.pending ∧ (startReadback s n).serial = s.serial ∧
    (startReadback s n).hold = s.hold ∧ (startReadback s n).ctl = s.ctl ∧ (startReadback s n).ldr = s.ldr ∧
    (startReadback s n).trk = s.trk ∧ (startReadback s n).ros = s.ros ∧ (startReadback s n).pln = s.pln ∧
    (startReadback s n).seq = s.seq ∧ (startReadback s n).scn = s.scn ∧ (startReadback s n).wip = s.wip ∧
    (startReadback s n).bus = s.bus ∧ (startReadback s n).cmd = s.cmd := by
  simp [startReadback]

end Sys2Proof.Machine
end

