-- ==== Sys2Proof/Laws/Planner.lean ====
section
/-! SUPPORT. What the operations of the dose planner leave alone, one lemma each. -/

namespace Sys2Proof.Machine

@[simp] theorem offerFlow_keeps (s : State) (p : Nat) (st : OfferState) (v : Nat) :
    (offerFlow s p st v).pending = s.pending ∧ (offerFlow s p st v).serial = s.serial ∧
    (offerFlow s p st v).hold = s.hold ∧ (offerFlow s p st v).ctl = s.ctl ∧ (offerFlow s p st v).ldr = s.ldr ∧
    (offerFlow s p st v).trk = s.trk ∧ (offerFlow s p st v).ros = s.ros ∧ (offerFlow s p st v).seq = s.seq ∧
    (offerFlow s p st v).link = s.link ∧ (offerFlow s p st v).scn = s.scn ∧ (offerFlow s p st v).wip = s.wip ∧
    (offerFlow s p st v).bus = s.bus ∧ (offerFlow s p st v).cmd = s.cmd := by
  simp [offerFlow]

@[simp] theorem offerUvt_keeps (s : State) (p : Nat) (st : OfferState) (v : Nat) :
    (offerUvt s p st v).pending = s.pending ∧ (offerUvt s p st v).serial = s.serial ∧
    (offerUvt s p st v).hold = s.hold ∧ (offerUvt s p st v).ctl = s.ctl ∧ (offerUvt s p st v).ldr = s.ldr ∧
    (offerUvt s p st v).trk = s.trk ∧ (offerUvt s p st v).ros = s.ros ∧ (offerUvt s p st v).seq = s.seq ∧
    (offerUvt s p st v).link = s.link ∧ (offerUvt s p st v).scn = s.scn ∧ (offerUvt s p st v).wip = s.wip ∧
    (offerUvt s p st v).bus = s.bus ∧ (offerUvt s p st v).cmd = s.cmd := by
  simp [offerUvt]

@[simp] theorem judgeHold_keeps (s : State) :
    (judgeHold s).pending = s.pending ∧ (judgeHold s).serial = s.serial ∧ (judgeHold s).hold = s.hold ∧
    (judgeHold s).ctl = s.ctl ∧ (judgeHold s).ldr = s.ldr ∧ (judgeHold s).trk = s.trk ∧
    (judgeHold s).ros = s.ros ∧ (judgeHold s).seq = s.seq ∧ (judgeHold s).link = s.link ∧
    (judgeHold s).scn = s.scn ∧ (judgeHold s).wip = s.wip ∧ (judgeHold s).bus = s.bus ∧
    (judgeHold s).cmd = s.cmd := by
  simp [judgeHold]

@[simp] theorem computePlan_keeps (s : State) (q : Nat) :
    (computePlan s q).pending = s.pending ∧ (computePlan s q).serial = s.serial ∧
    (computePlan s q).hold = s.hold ∧ (computePlan s q).ctl = s.ctl ∧ (computePlan s q).ldr = s.ldr ∧
    (computePlan s q).trk = s.trk ∧ (computePlan s q).ros = s.ros ∧ (computePlan s q).seq = s.seq ∧
    (computePlan s q).link = s.link ∧ (computePlan s q).scn = s.scn ∧ (computePlan s q).wip = s.wip ∧
    (computePlan s q).bus = s.bus ∧ (computePlan s q).cmd = s.cmd := by
  unfold computePlan; split <;> [split; skip] <;> simp

@[simp] theorem heldSetpoint_keeps (s : State) :
    (heldSetpoint s).pending = s.pending ∧ (heldSetpoint s).serial = s.serial ∧
    (heldSetpoint s).hold = s.hold ∧ (heldSetpoint s).ctl = s.ctl ∧ (heldSetpoint s).ldr = s.ldr ∧
    (heldSetpoint s).trk = s.trk ∧ (heldSetpoint s).ros = s.ros ∧ (heldSetpoint s).seq = s.seq ∧
    (heldSetpoint s).link = s.link ∧ (heldSetpoint s).scn = s.scn ∧ (heldSetpoint s).wip = s.wip ∧
    (heldSetpoint s).bus = s.bus ∧ (heldSetpoint s).cmd = s.cmd := by
  simp [heldSetpoint]

@[simp] theorem computed_keeps (s : State) (v : Nat) :
    (computed s v).pending = s.pending ∧ (computed s v).serial = s.serial ∧ (computed s v).hold = s.hold ∧
    (computed s v).ctl = s.ctl ∧ (computed s v).ldr = s.ldr ∧ (computed s v).trk = s.trk ∧
    (computed s v).ros = s.ros ∧ (computed s v).seq = s.seq ∧ (computed s v).link = s.link ∧
    (computed s v).scn = s.scn ∧ (computed s v).wip = s.wip ∧ (computed s v).bus = s.bus ∧
    (computed s v).cmd = s.cmd := by
  simp [computed]

@[simp] theorem computeSetpoint_keeps (s : State) (q : Nat) :
    (computeSetpoint s q).pending = s.pending ∧ (computeSetpoint s q).serial = s.serial ∧
    (computeSetpoint s q).hold = s.hold ∧ (computeSetpoint s q).ctl = s.ctl ∧
    (computeSetpoint s q).ldr = s.ldr ∧ (computeSetpoint s q).trk = s.trk ∧ (computeSetpoint s q).ros = s.ros ∧
    (computeSetpoint s q).seq = s.seq ∧ (computeSetpoint s q).link = s.link ∧
    (computeSetpoint s q).scn = s.scn ∧ (computeSetpoint s q).wip = s.wip ∧ (computeSetpoint s q).bus = s.bus ∧
    (computeSetpoint s q).cmd = s.cmd := by
  unfold computeSetpoint
  split
  · split <;> simp
  · split <;> [split; skip] <;> simp
  · simp

/-- What a computation leaves is the setpoint; without one it stays (R86, R89). -/
theorem computeSetpoint_lastReq (s : State) (q : Nat) :
    (computeSetpoint s q).pln.lastReq =
      if s.ctl.mode.doses = true ∧ q ≠ 0 then some (computeSetpoint s q).pln.fReq else s.pln.lastReq := by
  unfold computeSetpoint
  cases hm : s.ctl.mode <;> by_cases hq : q = 0 <;> simp [hq, BankMode.doses, heldSetpoint, computed]
  split <;> simp

end Sys2Proof.Machine
end

