-- ==== Sys2Proof/Laws/Wiper.lean ====
section
/-! SUPPORT. What the operations of the wiper controller leave alone, one lemma each. -/

namespace Sys2Proof.Machine

@[simp] theorem postClaim_keeps (s : State) :
    (postClaim s).pending = s.pending ∧ (postClaim s).serial = s.serial ∧ (postClaim s).hold = s.hold ∧
    (postClaim s).ctl = s.ctl ∧ (postClaim s).ldr = s.ldr ∧ (postClaim s).trk = s.trk ∧
    (postClaim s).ros = s.ros ∧ (postClaim s).pln = s.pln ∧ (postClaim s).seq = s.seq ∧
    (postClaim s).link = s.link ∧ (postClaim s).scn = s.scn := by
  simp [postClaim]

@[simp] theorem judgeAdmission_keeps (s : State) :
    (judgeAdmission s).pending = s.pending ∧ (judgeAdmission s).serial = s.serial ∧
    (judgeAdmission s).hold = s.hold ∧ (judgeAdmission s).ctl = s.ctl ∧ (judgeAdmission s).ldr = s.ldr ∧
    (judgeAdmission s).trk = s.trk ∧ (judgeAdmission s).ros = s.ros ∧ (judgeAdmission s).pln = s.pln ∧
    (judgeAdmission s).seq = s.seq ∧ (judgeAdmission s).link = s.link ∧ (judgeAdmission s).scn = s.scn := by
  unfold judgeAdmission; split <;> simp

@[simp] theorem wantWipe_keeps (s : State) :
    (wantWipe s).pending = s.pending ∧ (wantWipe s).serial = s.serial ∧ (wantWipe s).hold = s.hold ∧
    (wantWipe s).ctl = s.ctl ∧ (wantWipe s).ldr = s.ldr ∧ (wantWipe s).trk = s.trk ∧ (wantWipe s).ros = s.ros ∧
    (wantWipe s).pln = s.pln ∧ (wantWipe s).seq = s.seq ∧ (wantWipe s).link = s.link ∧ (wantWipe s).scn = s.scn := by
  simp [wantWipe]

@[simp] theorem requestWipe_keeps (s : State) :
    (requestWipe s).pending = s.pending ∧ (requestWipe s).serial = s.serial ∧ (requestWipe s).hold = s.hold ∧
    (requestWipe s).ctl = s.ctl ∧ (requestWipe s).ldr = s.ldr ∧ (requestWipe s).trk = s.trk ∧
    (requestWipe s).ros = s.ros ∧ (requestWipe s).pln = s.pln ∧ (requestWipe s).seq = s.seq ∧
    (requestWipe s).link = s.link ∧ (requestWipe s).scn = s.scn := by
  unfold requestWipe; split <;> simp

@[simp] theorem takeBackClaim_keeps (s : State) :
    (takeBackClaim s).pending = s.pending ∧ (takeBackClaim s).serial = s.serial ∧
    (takeBackClaim s).hold = s.hold ∧ (takeBackClaim s).ctl = s.ctl ∧ (takeBackClaim s).ldr = s.ldr ∧
    (takeBackClaim s).trk = s.trk ∧ (takeBackClaim s).ros = s.ros ∧ (takeBackClaim s).pln = s.pln ∧
    (takeBackClaim s).seq = s.seq ∧ (takeBackClaim s).link = s.link ∧ (takeBackClaim s).scn = s.scn ∧
    (takeBackClaim s).cmd = s.cmd := by
  unfold takeBackClaim; cases s.wip.claim <;> simp

@[simp] theorem releaseClaim_keeps (s : State) :
    (releaseClaim s).pending = s.pending ∧ (releaseClaim s).serial = s.serial ∧
    (releaseClaim s).hold = s.hold ∧ (releaseClaim s).ctl = s.ctl ∧ (releaseClaim s).ldr = s.ldr ∧
    (releaseClaim s).trk = s.trk ∧ (releaseClaim s).ros = s.ros ∧ (releaseClaim s).pln = s.pln ∧
    (releaseClaim s).seq = s.seq ∧ (releaseClaim s).link = s.link ∧ (releaseClaim s).scn = s.scn ∧
    (releaseClaim s).cmd = s.cmd := by
  unfold releaseClaim; split <;> simp

@[simp] theorem waitOn_keeps (s : State) (p : Nat) :
    (waitOn s p).pending = s.pending ∧ (waitOn s p).serial = s.serial ∧ (waitOn s p).hold = s.hold ∧
    (waitOn s p).ctl = s.ctl ∧ (waitOn s p).ldr = s.ldr ∧ (waitOn s p).trk = s.trk ∧ (waitOn s p).ros = s.ros ∧
    (waitOn s p).pln = s.pln ∧ (waitOn s p).seq = s.seq ∧ (waitOn s p).link = s.link ∧
    (waitOn s p).scn = s.scn ∧ (waitOn s p).bus = s.bus ∧ (waitOn s p).cmd = s.cmd := by
  simp [waitOn]

@[simp] theorem yieldTo_keeps (s : State) (p : Nat) :
    (yieldTo s p).pending = s.pending ∧ (yieldTo s p).serial = s.serial ∧ (yieldTo s p).hold = s.hold ∧
    (yieldTo s p).ctl = s.ctl ∧ (yieldTo s p).ldr = s.ldr ∧ (yieldTo s p).trk = s.trk ∧
    (yieldTo s p).ros = s.ros ∧ (yieldTo s p).pln = s.pln ∧ (yieldTo s p).seq = s.seq ∧
    (yieldTo s p).link = s.link ∧ (yieldTo s p).scn = s.scn ∧ (yieldTo s p).cmd = s.cmd := by
  unfold yieldTo; split <;> simp

@[simp] theorem emptyWait_keeps (s : State) :
    (emptyWait s).pending = s.pending ∧ (emptyWait s).serial = s.serial ∧ (emptyWait s).hold = s.hold ∧
    (emptyWait s).ctl = s.ctl ∧ (emptyWait s).ldr = s.ldr ∧ (emptyWait s).trk = s.trk ∧
    (emptyWait s).ros = s.ros ∧ (emptyWait s).pln = s.pln ∧ (emptyWait s).seq = s.seq ∧
    (emptyWait s).link = s.link ∧ (emptyWait s).scn = s.scn := by
  simp [emptyWait]

@[simp] theorem emptyWaitOn_keeps (s : State) (p : Nat) :
    (emptyWaitOn s p).pending = s.pending ∧ (emptyWaitOn s p).serial = s.serial ∧
    (emptyWaitOn s p).hold = s.hold ∧ (emptyWaitOn s p).ctl = s.ctl ∧ (emptyWaitOn s p).ldr = s.ldr ∧
    (emptyWaitOn s p).trk = s.trk ∧ (emptyWaitOn s p).ros = s.ros ∧ (emptyWaitOn s p).pln = s.pln ∧
    (emptyWaitOn s p).seq = s.seq ∧ (emptyWaitOn s p).link = s.link ∧ (emptyWaitOn s p).scn = s.scn := by
  unfold emptyWaitOn; split <;> [split; skip] <;> simp

@[simp] theorem strokeFault_keeps (s : State) :
    (strokeFault s).pending = s.pending ∧ (strokeFault s).serial = s.serial ∧ (strokeFault s).hold = s.hold ∧
    (strokeFault s).ctl = s.ctl ∧ (strokeFault s).ldr = s.ldr ∧ (strokeFault s).trk = s.trk ∧
    (strokeFault s).ros = s.ros ∧ (strokeFault s).pln = s.pln ∧ (strokeFault s).seq = s.seq ∧
    (strokeFault s).link = s.link := by
  simp [strokeFault]

@[simp] theorem armReferences_keeps (s : State) :
    (armReferences s).pending = s.pending ∧ (armReferences s).serial = s.serial ∧
    (armReferences s).hold = s.hold ∧ (armReferences s).ctl = s.ctl ∧ (armReferences s).ldr = s.ldr ∧
    (armReferences s).trk = s.trk ∧ (armReferences s).ros = s.ros ∧ (armReferences s).pln = s.pln ∧
    (armReferences s).seq = s.seq ∧ (armReferences s).link = s.link ∧ (armReferences s).wip = s.wip ∧
    (armReferences s).bus = s.bus ∧ (armReferences s).cmd = s.cmd := by
  simp [armReferences]

@[simp] theorem strokeDone_keeps (s : State) :
    (strokeDone s).pending = s.pending ∧ (strokeDone s).serial = s.serial ∧ (strokeDone s).hold = s.hold ∧
    (strokeDone s).ctl = s.ctl ∧ (strokeDone s).ldr = s.ldr ∧ (strokeDone s).trk = s.trk ∧
    (strokeDone s).ros = s.ros ∧ (strokeDone s).pln = s.pln ∧ (strokeDone s).seq = s.seq ∧
    (strokeDone s).link = s.link := by
  simp [strokeDone]

@[simp] theorem turnBack_keeps (s : State) :
    (turnBack s).pending = s.pending ∧ (turnBack s).serial = s.serial ∧ (turnBack s).hold = s.hold ∧
    (turnBack s).ctl = s.ctl ∧ (turnBack s).ldr = s.ldr ∧ (turnBack s).trk = s.trk ∧ (turnBack s).ros = s.ros ∧
    (turnBack s).pln = s.pln ∧ (turnBack s).seq = s.seq ∧ (turnBack s).link = s.link ∧
    (turnBack s).scn = s.scn ∧ (turnBack s).bus = s.bus ∧ (turnBack s).cmd = s.cmd := by
  simp [turnBack]

@[simp] theorem limitsTogether_keeps (s : State) :
    (limitsTogether s).pending = s.pending ∧ (limitsTogether s).serial = s.serial ∧
    (limitsTogether s).hold = s.hold ∧ (limitsTogether s).ctl = s.ctl ∧ (limitsTogether s).ldr = s.ldr ∧
    (limitsTogether s).trk = s.trk ∧ (limitsTogether s).ros = s.ros ∧ (limitsTogether s).pln = s.pln ∧
    (limitsTogether s).seq = s.seq ∧ (limitsTogether s).link = s.link := by
  unfold limitsTogether
  simp only
  repeat' split
  all_goals simp

@[simp] theorem startStroke_keeps (s : State) :
    (startStroke s).pending = s.pending ∧ (startStroke s).serial = s.serial ∧ (startStroke s).hold = s.hold ∧
    (startStroke s).ctl = s.ctl ∧ (startStroke s).ldr = s.ldr ∧ (startStroke s).trk = s.trk ∧
    (startStroke s).ros = s.ros ∧ (startStroke s).pln = s.pln ∧ (startStroke s).seq = s.seq ∧
    (startStroke s).link = s.link := by
  unfold startStroke
  simp only
  repeat' split
  all_goals simp

@[simp] theorem homed_keeps (s : State) :
    (homed s).pending = s.pending ∧ (homed s).serial = s.serial ∧ (homed s).hold = s.hold ∧
    (homed s).ctl = s.ctl ∧ (homed s).ldr = s.ldr ∧ (homed s).trk = s.trk ∧ (homed s).ros = s.ros ∧
    (homed s).pln = s.pln ∧ (homed s).seq = s.seq ∧ (homed s).link = s.link ∧ (homed s).scn = s.scn := by
  unfold homed; simp only; split <;> simp

@[simp] theorem home_keeps (s : State) :
    (home s).pending = s.pending ∧ (home s).serial = s.serial ∧ (home s).hold = s.hold ∧
    (home s).ctl = s.ctl ∧ (home s).ldr = s.ldr ∧ (home s).trk = s.trk ∧ (home s).ros = s.ros ∧
    (home s).pln = s.pln ∧ (home s).seq = s.seq ∧ (home s).link = s.link ∧ (home s).scn = s.scn := by
  unfold home; split <;> [skip; split] <;> simp

@[simp] theorem claimSent_keeps (s : State) (t : Nat) :
    (claimSent s t).pending = s.pending ∧ (claimSent s t).serial = s.serial ∧ (claimSent s t).hold = s.hold ∧
    (claimSent s t).ctl = s.ctl ∧ (claimSent s t).ldr = s.ldr ∧ (claimSent s t).trk = s.trk ∧
    (claimSent s t).ros = s.ros ∧ (claimSent s t).pln = s.pln ∧ (claimSent s t).seq = s.seq ∧
    (claimSent s t).link = s.link ∧ (claimSent s t).scn = s.scn ∧ (claimSent s t).bus = s.bus ∧
    (claimSent s t).cmd = s.cmd := by
  unfold claimSent; split <;> simp

end Sys2Proof.Machine
end

