-- ==== Sys2Proof/Laws/Station.lean ====
section
/-! SUPPORT. What the operations of the station controller leave alone, one lemma each. -/

namespace Sys2Proof.Machine

@[simp] theorem setMode_keeps (s : State) (m : BankMode) :
    (setMode s m).pending = s.pending ∧ (setMode s m).serial = s.serial ∧ (setMode s m).hold = s.hold ∧
    (setMode s m).ldr = s.ldr ∧ (setMode s m).trk = s.trk ∧ (setMode s m).ros = s.ros ∧
    (setMode s m).pln = s.pln ∧ (setMode s m).seq = s.seq ∧ (setMode s m).link = s.link ∧
    (setMode s m).scn = s.scn ∧ (setMode s m).wip = s.wip ∧ (setMode s m).bus = s.bus ∧
    (setMode s m).cmd = s.cmd := by
  simp [setMode]

@[simp] theorem applyRole_keeps (s : State) (w : HeadWay) :
    (applyRole s w).pending = s.pending ∧ (applyRole s w).serial = s.serial ∧ (applyRole s w).hold = s.hold ∧
    (applyRole s w).ctl = s.ctl ∧ (applyRole s w).ldr = s.ldr ∧ (applyRole s w).pln = s.pln ∧
    (applyRole s w).seq = s.seq ∧ (applyRole s w).link = s.link ∧ (applyRole s w).scn = s.scn ∧
    (applyRole s w).wip = s.wip ∧ (applyRole s w).bus = s.bus ∧ (applyRole s w).cmd = s.cmd := by
  simp [applyRole]

@[simp] theorem emptyParcels_keeps (s : State) :
    (emptyParcels s).pending = s.pending ∧ (emptyParcels s).serial = s.serial ∧
    (emptyParcels s).hold = s.hold ∧ (emptyParcels s).ctl = s.ctl ∧ (emptyParcels s).ldr = s.ldr ∧
    (emptyParcels s).ros = s.ros ∧ (emptyParcels s).pln = s.pln ∧ (emptyParcels s).seq = s.seq ∧
    (emptyParcels s).link = s.link ∧ (emptyParcels s).scn = s.scn ∧ (emptyParcels s).wip = s.wip ∧
    (emptyParcels s).cmd = s.cmd := by
  simp [emptyParcels]

@[simp] theorem enterIsolated_keeps (s : State) :
    (enterIsolated s).pending = s.pending ∧ (enterIsolated s).serial = s.serial ∧
    (enterIsolated s).hold = s.hold ∧ (enterIsolated s).ldr = s.ldr ∧ (enterIsolated s).scn = s.scn := by
  simp [enterIsolated]

@[simp] theorem enterDosing_keeps (s : State) (w : HeadWay) :
    (enterDosing s w).pending = s.pending ∧ (enterDosing s w).serial = s.serial ∧
    (enterDosing s w).hold = s.hold ∧ (enterDosing s w).ldr = s.ldr ∧ (enterDosing s w).seq = s.seq ∧
    (enterDosing s w).link = s.link ∧ (enterDosing s w).scn = s.scn ∧ (enterDosing s w).wip = s.wip ∧
    (enterDosing s w).bus = s.bus ∧ (enterDosing s w).cmd = s.cmd := by
  simp [enterDosing]

@[simp] theorem settle_keeps (s : State) :
    (settle s).pending = s.pending ∧ (settle s).serial = s.serial ∧ (settle s).hold = s.hold ∧
    (settle s).ldr = s.ldr ∧ (settle s).scn = s.scn := by
  unfold settle
  simp only
  split <;> (try split) <;> simp

@[simp] theorem followHold_keeps (s : State) :
    (followHold s).pending = s.pending ∧ (followHold s).serial = s.serial ∧ (followHold s).hold = s.hold ∧
    (followHold s).ldr = s.ldr ∧ (followHold s).scn = s.scn := by
  unfold followHold; split <;> (try split) <;> simp

@[simp] theorem flowChanged_keeps (s : State) :
    (flowChanged s).pending = s.pending ∧ (flowChanged s).serial = s.serial ∧ (flowChanged s).hold = s.hold ∧
    (flowChanged s).ldr = s.ldr ∧ (flowChanged s).scn = s.scn := by
  simp [flowChanged]

@[simp] theorem addSelf_keeps (s : State) :
    (addSelf s).pending = s.pending ∧ (addSelf s).serial = s.serial ∧ (addSelf s).hold = s.hold ∧
    (addSelf s).ctl = s.ctl ∧ (addSelf s).ldr = s.ldr ∧ (addSelf s).trk = s.trk ∧ (addSelf s).pln = s.pln ∧
    (addSelf s).seq = s.seq ∧ (addSelf s).link = s.link ∧ (addSelf s).scn = s.scn ∧ (addSelf s).wip = s.wip ∧
    (addSelf s).bus = s.bus ∧ (addSelf s).cmd = s.cmd := by
  simp [addSelf]

@[simp] theorem startAccrual_keeps (s : State) :
    (startAccrual s).pending = s.pending ∧ (startAccrual s).serial = s.serial ∧
    (startAccrual s).hold = s.hold ∧ (startAccrual s).ctl = s.ctl ∧ (startAccrual s).ldr = s.ldr ∧
    (startAccrual s).ros = s.ros ∧ (startAccrual s).pln = s.pln ∧ (startAccrual s).seq = s.seq ∧
    (startAccrual s).link = s.link ∧ (startAccrual s).scn = s.scn ∧ (startAccrual s).wip = s.wip ∧
    (startAccrual s).bus = s.bus ∧ (startAccrual s).cmd = s.cmd := by
  simp [startAccrual]

@[simp] theorem fitLamps_keeps (s : State) (m : BitVec 24) (e : Nat) :
    (fitLamps s m e).pending = s.pending ∧ (fitLamps s m e).serial = s.serial ∧
    (fitLamps s m e).hold = s.hold ∧ (fitLamps s m e).ctl = s.ctl ∧ (fitLamps s m e).ldr = s.ldr ∧
    (fitLamps s m e).trk = s.trk ∧ (fitLamps s m e).ros = s.ros ∧ (fitLamps s m e).pln = s.pln ∧
    (fitLamps s m e).link = s.link ∧ (fitLamps s m e).scn = s.scn ∧ (fitLamps s m e).wip = s.wip ∧
    (fitLamps s m e).bus = s.bus ∧ (fitLamps s m e).cmd = s.cmd := by
  simp [fitLamps]

@[simp] theorem enterFailsafe_keeps (s : State) (c : LoadFailure) :
    (enterFailsafe s c).pending = s.pending ∧ (enterFailsafe s c).serial = s.serial ∧
    (enterFailsafe s c).hold = s.hold ∧ (enterFailsafe s c).scn = s.scn ∧
    (enterFailsafe s c).ldr.supply = s.ldr.supply := by
  simp [enterFailsafe]

@[simp] theorem enterListen_keeps (s : State) (c : ImageCfg) (d : Digest) :
    (enterListen s c d).pending = s.pending ∧ (enterListen s c d).serial = s.serial ∧
    (enterListen s c d).hold = s.hold ∧ (enterListen s c d).ldr.supply = s.ldr.supply := by
  simp [enterListen]

@[simp] theorem listenOver_keeps (s : State) :
    (listenOver s).pending = s.pending ∧ (listenOver s).serial = s.serial ∧ (listenOver s).hold = s.hold ∧
    (listenOver s).ldr = s.ldr ∧ (listenOver s).scn = s.scn := by
  unfold listenOver; simp only; split <;> simp

end Sys2Proof.Machine
end

