-- ==== Sys2Proof/Laws/Scan.lean ====
section
/-! SUPPORT. What the operations of the sensor scanner leave alone, one lemma each. -/

namespace Sys2Proof.Machine

@[simp] theorem stepSamples_keeps (s : State) (raw : List (BitVec 10)) :
    (stepSamples s raw).pending = s.pending ∧ (stepSamples s raw).serial = s.serial ∧
    (stepSamples s raw).hold = s.hold ∧ (stepSamples s raw).ctl = s.ctl ∧ (stepSamples s raw).ldr = s.ldr ∧
    (stepSamples s raw).trk = s.trk ∧ (stepSamples s raw).ros = s.ros ∧ (stepSamples s raw).pln = s.pln ∧
    (stepSamples s raw).seq = s.seq ∧ (stepSamples s raw).link = s.link ∧ (stepSamples s raw).wip = s.wip ∧
    (stepSamples s raw).bus = s.bus ∧ (stepSamples s raw).cmd = s.cmd := by
  simp [stepSamples]

@[simp] theorem learnModule_keeps (s : State) (m : Nat) :
    (learnModule s m).pending = s.pending ∧ (learnModule s m).serial = s.serial ∧
    (learnModule s m).hold = s.hold ∧ (learnModule s m).ctl = s.ctl ∧ (learnModule s m).ldr = s.ldr ∧
    (learnModule s m).trk = s.trk ∧ (learnModule s m).ros = s.ros ∧ (learnModule s m).pln = s.pln ∧
    (learnModule s m).link = s.link ∧ (learnModule s m).scn = s.scn ∧ (learnModule s m).wip = s.wip ∧
    (learnModule s m).bus = s.bus ∧ (learnModule s m).cmd = s.cmd := by
  unfold learnModule; split <;> simp

@[simp] theorem stepLearn_keeps (s : State) :
    (stepLearn s).pending = s.pending ∧ (stepLearn s).serial = s.serial ∧ (stepLearn s).hold = s.hold ∧
    (stepLearn s).ctl = s.ctl ∧ (stepLearn s).ldr = s.ldr ∧ (stepLearn s).trk = s.trk ∧
    (stepLearn s).ros = s.ros ∧ (stepLearn s).pln = s.pln ∧ (stepLearn s).link = s.link ∧
    (stepLearn s).scn = s.scn ∧ (stepLearn s).wip = s.wip ∧ (stepLearn s).bus = s.bus ∧
    (stepLearn s).cmd = s.cmd := by
  unfold stepLearn
  induction modules s generalizing s with
  | nil => simp
  | cons m ms ih => simp [ih]

@[simp] theorem stepPublish_keeps (s : State) :
    (stepPublish s).pending = s.pending ∧ (stepPublish s).serial = s.serial ∧ (stepPublish s).hold = s.hold ∧
    (stepPublish s).ctl = s.ctl ∧ (stepPublish s).ldr = s.ldr ∧ (stepPublish s).trk = s.trk ∧
    (stepPublish s).ros = s.ros ∧ (stepPublish s).pln = s.pln ∧ (stepPublish s).seq = s.seq ∧
    (stepPublish s).link = s.link ∧ (stepPublish s).wip = s.wip ∧ (stepPublish s).bus = s.bus ∧
    (stepPublish s).cmd = s.cmd := by
  simp [stepPublish]

/-- Publishing moves its one indication and nothing else of the scanner. -/
theorem stepPublish_scn (s : State) :
    (stepPublish s).scn = { s.scn with fEffBegun := s.scn.fEffBegun || lightSeen s } := by
  simp [stepPublish]

@[simp] theorem stepFouling_keeps (s : State) (before : List Input) (raw : List (BitVec 10)) :
    (stepFouling s before raw).pending = s.pending ∧ (stepFouling s before raw).serial = s.serial ∧
    (stepFouling s before raw).hold = s.hold ∧ (stepFouling s before raw).ctl = s.ctl ∧
    (stepFouling s before raw).ldr = s.ldr ∧ (stepFouling s before raw).trk = s.trk ∧
    (stepFouling s before raw).ros = s.ros ∧ (stepFouling s before raw).pln = s.pln ∧
    (stepFouling s before raw).seq = s.seq ∧ (stepFouling s before raw).link = s.link := by
  unfold stepFouling; simp only; split <;> simp

@[simp] theorem handFlow_keeps (s : State) (o : Option Offer) :
    (handFlow s o).pending = s.pending ∧ (handFlow s o).serial = s.serial ∧ (handFlow s o).hold = s.hold ∧
    (handFlow s o).ldr = s.ldr := by
  unfold handFlow; split <;> simp

@[simp] theorem handUvt_keeps (s : State) (o : Option Offer) :
    (handUvt s o).pending = s.pending ∧ (handUvt s o).serial = s.serial ∧ (handUvt s o).hold = s.hold ∧
    (handUvt s o).ctl = s.ctl ∧ (handUvt s o).ldr = s.ldr ∧ (handUvt s o).trk = s.trk ∧
    (handUvt s o).ros = s.ros ∧ (handUvt s o).seq = s.seq ∧ (handUvt s o).link = s.link ∧
    (handUvt s o).wip = s.wip ∧ (handUvt s o).bus = s.bus ∧ (handUvt s o).cmd = s.cmd := by
  unfold handUvt; split <;> simp

@[simp] theorem endScan_keeps (s : State) :
    (endScan s).pending = s.pending ∧ (endScan s).serial = s.serial ∧ (endScan s).hold = s.hold ∧
    (endScan s).ctl = s.ctl ∧ (endScan s).ldr = s.ldr ∧ (endScan s).trk = s.trk ∧ (endScan s).ros = s.ros ∧
    (endScan s).pln = s.pln ∧ (endScan s).seq = s.seq ∧ (endScan s).link = s.link ∧ (endScan s).wip = s.wip ∧
    (endScan s).bus = s.bus ∧ (endScan s).cmd = s.cmd := by
  unfold endScan; split <;> simp

@[simp] theorem completeScan_keeps (s : State) (raw : List (BitVec 10)) (fdir : Bool) :
    (completeScan s raw fdir).pending = s.pending ∧ (completeScan s raw fdir).serial = s.serial ∧
    (completeScan s raw fdir).hold = s.hold ∧ (completeScan s raw fdir).ldr = s.ldr := by
  simp [completeScan]

@[simp] theorem scanFallsDue_keeps (s : State) :
    (scanFallsDue s).pending = s.pending ∧ (scanFallsDue s).serial = s.serial ∧
    (scanFallsDue s).hold = s.hold ∧ (scanFallsDue s).ctl = s.ctl ∧ (scanFallsDue s).ldr = s.ldr ∧
    (scanFallsDue s).trk = s.trk ∧ (scanFallsDue s).ros = s.ros ∧ (scanFallsDue s).pln = s.pln ∧
    (scanFallsDue s).seq = s.seq ∧ (scanFallsDue s).link = s.link ∧ (scanFallsDue s).wip = s.wip ∧
    (scanFallsDue s).bus = s.bus ∧ (scanFallsDue s).cmd = s.cmd := by
  unfold scanFallsDue; split <;> simp

@[simp] theorem clearInput_keeps (s : State) (i : Nat) :
    (clearInput s i).pending = s.pending ∧ (clearInput s i).serial = s.serial ∧
    (clearInput s i).hold = s.hold ∧ (clearInput s i).ctl = s.ctl ∧ (clearInput s i).ldr = s.ldr ∧
    (clearInput s i).trk = s.trk ∧ (clearInput s i).ros = s.ros ∧ (clearInput s i).pln = s.pln ∧
    (clearInput s i).seq = s.seq ∧ (clearInput s i).link = s.link ∧ (clearInput s i).wip = s.wip ∧
    (clearInput s i).bus = s.bus ∧ (clearInput s i).cmd = s.cmd := by
  simp [clearInput]

end Sys2Proof.Machine
end

