-- ==== Sys2Proof/Laws/Handler.lean ====
section
/-! SUPPORT. What the operations of the command handler leave alone, one lemma each. -/

namespace Sys2Proof.Machine

@[simp] theorem setReply_keeps (s : State) (r : Option Reply) :
    (setReply s r).pending = s.pending ∧ (setReply s r).serial = s.serial ∧ (setReply s r).hold = s.hold ∧
    (setReply s r).ctl = s.ctl ∧ (setReply s r).ldr = s.ldr ∧ (setReply s r).trk = s.trk ∧
    (setReply s r).ros = s.ros ∧ (setReply s r).pln = s.pln ∧ (setReply s r).seq = s.seq ∧
    (setReply s r).link = s.link ∧ (setReply s r).scn = s.scn ∧ (setReply s r).wip = s.wip ∧
    (setReply s r).bus = s.bus := by
  simp [setReply]

@[simp] theorem postData_keeps (s : State) (t a c o : Nat) :
    (postData s t a c o).pending = s.pending ∧ (postData s t a c o).serial = s.serial ∧
    (postData s t a c o).hold = s.hold ∧ (postData s t a c o).ctl = s.ctl ∧ (postData s t a c o).ldr = s.ldr ∧
    (postData s t a c o).trk = s.trk ∧ (postData s t a c o).ros = s.ros ∧ (postData s t a c o).pln = s.pln ∧
    (postData s t a c o).seq = s.seq ∧ (postData s t a c o).link = s.link ∧ (postData s t a c o).scn = s.scn := by
  simp [postData]

@[simp] theorem beginReply_keeps (s : State) (t a c : Nat) :
    (beginReply s t a c).pending = s.pending ∧ (beginReply s t a c).serial = s.serial ∧
    (beginReply s t a c).hold = s.hold ∧ (beginReply s t a c).ctl = s.ctl ∧ (beginReply s t a c).ldr = s.ldr ∧
    (beginReply s t a c).trk = s.trk ∧ (beginReply s t a c).ros = s.ros ∧ (beginReply s t a c).pln = s.pln ∧
    (beginReply s t a c).seq = s.seq ∧ (beginReply s t a c).link = s.link ∧ (beginReply s t a c).scn = s.scn := by
  simp [beginReply]

@[simp] theorem nextReply_keeps (s : State) (t a o : Nat) :
    (nextReply s t a o).pending = s.pending ∧ (nextReply s t a o).serial = s.serial ∧
    (nextReply s t a o).hold = s.hold ∧ (nextReply s t a o).ctl = s.ctl ∧ (nextReply s t a o).ldr = s.ldr ∧
    (nextReply s t a o).trk = s.trk ∧ (nextReply s t a o).ros = s.ros ∧ (nextReply s t a o).pln = s.pln ∧
    (nextReply s t a o).seq = s.seq ∧ (nextReply s t a o).link = s.link ∧ (nextReply s t a o).scn = s.scn := by
  unfold nextReply; split <;> simp

@[simp] theorem handlerTold_keeps (s : State) (t : Nat) :
    (handlerTold s t).pending = s.pending ∧ (handlerTold s t).serial = s.serial ∧
    (handlerTold s t).hold = s.hold ∧ (handlerTold s t).ctl = s.ctl ∧ (handlerTold s t).ldr = s.ldr ∧
    (handlerTold s t).trk = s.trk ∧ (handlerTold s t).ros = s.ros ∧ (handlerTold s t).pln = s.pln ∧
    (handlerTold s t).seq = s.seq ∧ (handlerTold s t).link = s.link ∧ (handlerTold s t).scn = s.scn := by
  unfold handlerTold; simp only; split <;> [split; skip] <;> simp

@[simp] theorem releaseHeld_keeps (s : State) :
    (releaseHeld s).pending = s.pending ∧ (releaseHeld s).serial = s.serial ∧ (releaseHeld s).hold = s.hold ∧
    (releaseHeld s).ctl = s.ctl ∧ (releaseHeld s).ldr = s.ldr ∧ (releaseHeld s).trk = s.trk ∧
    (releaseHeld s).ros = s.ros ∧ (releaseHeld s).pln = s.pln ∧ (releaseHeld s).seq = s.seq ∧
    (releaseHeld s).link = s.link ∧ (releaseHeld s).scn = s.scn := by
  unfold releaseHeld; split <;> simp

@[simp] theorem countIgnored_keeps (s : State) :
    (countIgnored s).pending = s.pending ∧ (countIgnored s).serial = s.serial ∧
    (countIgnored s).hold = s.hold ∧ (countIgnored s).ctl = s.ctl ∧ (countIgnored s).ldr = s.ldr ∧
    (countIgnored s).trk = s.trk ∧ (countIgnored s).ros = s.ros ∧ (countIgnored s).pln = s.pln ∧
    (countIgnored s).seq = s.seq ∧ (countIgnored s).link = s.link ∧ (countIgnored s).scn = s.scn ∧
    (countIgnored s).wip = s.wip ∧ (countIgnored s).bus = s.bus := by
  simp [countIgnored]

@[simp] theorem learnSource_keeps (s : State) (a : Src) :
    (learnSource s a).pending = s.pending ∧ (learnSource s a).serial = s.serial ∧
    (learnSource s a).hold = s.hold ∧ (learnSource s a).ldr = s.ldr ∧ (learnSource s a).scn = s.scn := by
  simp [learnSource]

@[simp] theorem answer_keeps (s : State) (c o : Byte) :
    (answer s c o).pending = s.pending ∧ (answer s c o).serial = s.serial ∧ (answer s c o).hold = s.hold ∧
    (answer s c o).ctl = s.ctl ∧ (answer s c o).ldr = s.ldr ∧ (answer s c o).trk = s.trk ∧
    (answer s c o).ros = s.ros ∧ (answer s c o).pln = s.pln ∧ (answer s c o).seq = s.seq ∧
    (answer s c o).link = s.link ∧ (answer s c o).scn = s.scn := by
  unfold answer; split <;> simp

@[simp] theorem clearLamps_keeps (s : State) (i : Nat) :
    (clearLamps s i).pending = s.pending ∧ (clearLamps s i).serial = s.serial ∧
    (clearLamps s i).hold = s.hold ∧ (clearLamps s i).ctl = s.ctl ∧ (clearLamps s i).ldr = s.ldr ∧
    (clearLamps s i).trk = s.trk ∧ (clearLamps s i).ros = s.ros ∧ (clearLamps s i).scn = s.scn ∧
    (clearLamps s i).wip = s.wip ∧ (clearLamps s i).bus = s.bus ∧ (clearLamps s i).cmd = s.cmd := by
  simp [clearLamps]

@[simp] theorem clearBallast_keeps (s : State) (b : Nat) :
    (clearBallast s b).pending = s.pending ∧ (clearBallast s b).serial = s.serial ∧
    (clearBallast s b).hold = s.hold ∧ (clearBallast s b).ctl = s.ctl ∧ (clearBallast s b).ldr = s.ldr ∧
    (clearBallast s b).trk = s.trk ∧ (clearBallast s b).ros = s.ros ∧ (clearBallast s b).pln = s.pln ∧
    (clearBallast s b).seq = s.seq ∧ (clearBallast s b).scn = s.scn ∧ (clearBallast s b).wip = s.wip ∧
    (clearBallast s b).bus = s.bus ∧ (clearBallast s b).cmd = s.cmd := by
  simp [clearBallast]

@[simp] theorem postRestart_keeps (s : State) :
    (postRestart s).pending = s.pending ∧ (postRestart s).serial = s.serial ∧ (postRestart s).hold = s.hold ∧
    (postRestart s).ctl = s.ctl ∧ (postRestart s).ldr = s.ldr ∧ (postRestart s).trk = s.trk ∧
    (postRestart s).ros = s.ros ∧ (postRestart s).pln = s.pln ∧ (postRestart s).seq = s.seq ∧
    (postRestart s).link = s.link ∧ (postRestart s).scn = s.scn := by
  simp [postRestart]

end Sys2Proof.Machine
end

