-- ==== Sys2Proof/Laws/Runs.lean ====
section
/-! SUPPORT. No operation but a RESTART begins a restart, so at a part that runs every event is its own effect and
every accepted frame is handed on. -/

namespace Sys2Proof.Machine

/-- Shorthand of this file: whether a restart is pending. -/
abbrev State.restarting (s : State) : Bool := s.cmd.restart.isSome

/-! ### Operations that leave a pending restart pending and begin none -/

@[simp] theorem giveUpAll_restarting (s : State) (fs : List Frame) :
    (giveUpAll s fs).restarting = s.restarting := (giveUpAll_cmd_keeps s fs).2

@[simp] theorem post_restarting (s : State) (b : Body) : (post s b).restarting = s.restarting :=
  (post_cmd_keeps s b).2

@[simp] theorem postClaim_restarting (s : State) : (postClaim s).restarting = s.restarting := by
  simp [postClaim, State.restarting]

@[simp] theorem judgeAdmission_restarting (s : State) : (judgeAdmission s).restarting = s.restarting := by
  unfold judgeAdmission; split <;> simp

@[simp] theorem wantWipe_restarting (s : State) : (wantWipe s).restarting = s.restarting := by
  simp [wantWipe, State.restarting]

@[simp] theorem requestWipe_restarting (s : State) : (requestWipe s).restarting = s.restarting := by
  unfold requestWipe; split <;> simp [State.restarting]

@[simp] theorem releaseClaim_restarting (s : State) : (releaseClaim s).restarting = s.restarting := by
  unfold releaseClaim; split <;> simp [State.restarting]

@[simp] theorem yieldTo_restarting (s : State) (p : Nat) : (yieldTo s p).restarting = s.restarting := by
  unfold yieldTo; split <;> simp [State.restarting, waitOn]

@[simp] theorem emptyWait_restarting (s : State) : (emptyWait s).restarting = s.restarting := by
  simp [emptyWait, State.restarting]

@[simp] theorem emptyWaitOn_restarting (s : State) (p : Nat) : (emptyWaitOn s p).restarting = s.restarting := by
  unfold emptyWaitOn; split <;> [split; skip] <;> simp

@[simp] theorem strokeFault_restarting (s : State) : (strokeFault s).restarting = s.restarting := by
  simp [strokeFault, State.restarting]

@[simp] theorem strokeDone_restarting (s : State) : (strokeDone s).restarting = s.restarting := by
  simp [strokeDone, armReferences, State.restarting]

@[simp] theorem limitsTogether_restarting (s : State) : (limitsTogether s).restarting = s.restarting := by
  unfold limitsTogether; simp only; repeat' split
  all_goals simp [State.restarting]

@[simp] theorem startStroke_restarting (s : State) : (startStroke s).restarting = s.restarting := by
  unfold startStroke; simp only; repeat' split
  all_goals simp [State.restarting, turnBack]

@[simp] theorem homed_restarting (s : State) : (homed s).restarting = s.restarting := by
  unfold homed; simp only; split <;> simp [State.restarting]

@[simp] theorem home_restarting (s : State) : (home s).restarting = s.restarting := by
  unfold home; split <;> [skip; split] <;> simp [State.restarting]

@[simp] theorem enterIsolated_restarting (s : State) : (enterIsolated s).restarting = s.restarting := by
  simp [enterIsolated, State.restarting]

@[simp] theorem settle_restarting (s : State) : (settle s).restarting = s.restarting := by
  unfold settle; simp only; repeat' split
  all_goals simp [State.restarting]

@[simp] theorem followHold_restarting (s : State) : (followHold s).restarting = s.restarting := by
  unfold followHold; repeat' split
  all_goals simp [State.restarting]

@[simp] theorem flowChanged_restarting (s : State) : (flowChanged s).restarting = s.restarting := by
  simp [flowChanged, State.restarting]

@[simp] theorem learnSource_restarting (s : State) (a : Src) : (learnSource s a).restarting = s.restarting := by
  simp [learnSource, State.restarting]

@[simp] theorem enterFailsafe_restarting (s : State) (c : LoadFailure) :
    (enterFailsafe s c).restarting = s.restarting := by
  simp [enterFailsafe, State.restarting]

@[simp] theorem enterListen_restarting (s : State) (c : ImageCfg) (d : Digest) :
    (enterListen s c d).restarting = s.restarting := by
  simp [enterListen, State.restarting]

@[simp] theorem listenOver_restarting (s : State) : (listenOver s).restarting = s.restarting := by
  unfold listenOver; simp only; split <;> simp [State.restarting]

@[simp] theorem setReply_restarting (s : State) (r : Option Reply) : (setReply s r).restarting = s.restarting := by
  simp [setReply, State.restarting]

@[simp] theorem beginReply_restarting (s : State) (t a c : Nat) :
    (beginReply s t a c).restarting = s.restarting := by
  simp [beginReply, postData, State.restarting, setReply]

@[simp] theorem releaseHeld_restarting (s : State) : (releaseHeld s).restarting = s.restarting := by
  unfold releaseHeld; split <;> simp

@[simp] theorem answer_restarting (s : State) (c o : Byte) : (answer s c o).restarting = s.restarting := by
  unfold answer; split <;> simp

@[simp] theorem sendRecord_restarting (role : Role) (s : State) (r : ParcelRec) :
    (sendRecord role s r).restarting = s.restarting := by
  unfold sendRecord; split <;> simp [State.restarting]

theorem foldl_restarting {α : Type} (f : State → α → State) (hf : ∀ s a, (f s a).restarting = s.restarting)
    (l : List α) (s : State) : (l.foldl f s).restarting = s.restarting := by
  induction l generalizing s with
  | nil => rfl
  | cons a l ih => rw [List.foldl_cons, ih, hf]

@[simp] theorem accrue_restarting (s : State) : (accrue s).restarting = s.restarting := by
  unfold accrue
  split
  · simp only
    rw [foldl_restarting _ fun s a => sendRecord_restarting _ s a]
    simp [State.restarting]
  · rfl

@[simp] theorem closeExpiry_restarting (s : State) (q : Nat) : (closeExpiry s q).restarting = s.restarting := by
  unfold closeExpiry
  rw [judgeAdmission_restarting]
  simp [State.restarting]

@[simp] theorem completeScan_restarting (s : State) (raw : List (BitVec 10)) (d : Bool) :
    (completeScan s raw d).restarting = s.restarting := by
  have h4 : ∀ (s : State) b r, (stepFouling s b r).restarting = s.restarting := by
    intro s b r; unfold stepFouling; simp only; split <;> simp [State.restarting]
  have h5 : ∀ (s : State) o, (handFlow s o).restarting = s.restarting := by
    intro s o; unfold handFlow; split <;> simp [State.restarting]
  have h6 : ∀ (s : State) o, (handUvt s o).restarting = s.restarting := by
    intro s o; unfold handUvt; split <;> simp [State.restarting]
  have h7 : ∀ s : State, (endScan s).cmd = s.cmd := by
    intro s; unfold endScan; split <;> simp
  have h2 : (stepSamples s raw).cmd = s.cmd := by simp [stepSamples]
  unfold completeScan
  simp only [State.restarting] at *
  simp [h5, h4]

/-! ### Events at a part that runs -/

/-- At a part that runs, an event that begins no restart is its own effect. -/
theorem event_of_runs {s : State} (f : State → State) (h : Runs s)
    (hf : (f s).restarting = s.restarting) : event s f = f s := by
  refine event_of_run f h.1 ?_
  have : (f s).cmd.restart.isSome = false := by rw [show (f s).cmd.restart.isSome = _ from hf]; simp [h.2]
  simpa using this

/-- After LOADING an accepted frame is handed on (R173). -/
theorem frameEvent_of_takes {s : State} (f : State → State) (h : TakesFrames s)
    (hf : (f (s.setBus s.bus.frameTaken)).restarting = s.restarting) :
    frameEvent s f = f (s.setBus s.bus.frameTaken) := by
  unfold frameEvent
  have hm : (s.setBus s.bus.frameTaken).ctl.mode ≠ .loading := h.2
  rw [event_of_runs _ h.1]
  · simp only [if_neg hm]
  · simp only [if_neg hm]; exact hf

/-- In LOADING an accepted frame is handed to no block (R173). -/
theorem frameEvent_of_loading {s : State} (f : State → State) (h : Runs s) (hl : s.ctl.mode = .loading) :
    frameEvent s f = s.setBus s.bus.frameTaken := by
  have hm : (s.setBus s.bus.frameTaken).ctl.mode = .loading := hl
  unfold frameEvent
  rw [event_of_runs _ h]
  · simp only [if_pos hm]
  · simp only [if_pos hm]; rfl

theorem learned_restarting (s : State) (a : Src) : (learned s a).restarting = s.restarting := by
  simp [learned, State.restarting]

/-- A COMMAND that passes the screen is applied (R196). -/
theorem commandEvent_of_aimed {s : State} {a : Src} {b : CommandBody} (f : State → State) (h : TakesFrames s)
    (ha : AimedHere s a b) (hf : (f (readied s a)).restarting = s.restarting) :
    commandEvent s a b f = f (readied s a) := by
  have hs : screened (learned s a) a b = true := by
    obtain ⟨h1, h2, h3, h4, h5⟩ := ha
    have hl : (learned s a).ldr = s.ldr := by simp [learned]
    simp [screened, hl, isPlantAddress, h1, h2, h3, h4, h5]
  have hr : (learned s a).cmd.restart.isNone = true := by
    have h1 : (learned s a).cmd.restart.isSome = false := by
      rw [show (learned s a).cmd.restart.isSome = _ from learned_restarting s a]; simp [h.1.2]
    simpa using h1
  unfold commandEvent
  have he : (let s' := learnSource (s.setBus s.bus.frameTaken) a
      if screened s' a b && s'.cmd.restart.isNone then f (setReply s' none) else countIgnored s') =
      f (readied s a) := by
    change (if screened (learned s a) a b && (learned s a).cmd.restart.isNone then f (readied s a)
      else countIgnored (learned s a)) = _
    rw [hs, hr]; rfl
  rw [frameEvent_of_takes _ h]
  · exact he
  · exact (congrArg State.restarting he).trans hf

/-! ### One frame given up -/

/-- What is left when one frame is given up, whole (R183). -/
theorem giveUpAll_givenUp (s : State) (b : Bus) (f : Frame) : GivenUp f b s (giveUpAll (s.setBus b) [f]) := by
  refine ⟨?_, ?_, rfl, ?_⟩
  · intro k hk; cases k <;> simp at hk <;> simp [Block.same]
  · show Bus.countGivenUp b f = _
    unfold Bus.countGivenUp; cases f.body <;> rfl
  · show Handler.frameGone s.cmd f.ticket = _
    unfold Handler.frameGone replyGone Restart.resolve
    cases s.cmd.reply with
    | none => rfl
    | some r => cases r <;> rfl

end Sys2Proof.Machine
end

