-- ==== Sys2Proof/Laws/Settle.lean ====
section
/-! SUPPORT. What the settlement of the roster does to the blocks it reaches, what taking an own reading keeps, and
which commands a tick queues. -/

namespace Sys2Proof.Machine

/-! ### A tick -/

theorem mem_dueIf (c : Bool) (i x : Instr) : x ∈ dueIf c i ↔ c = true ∧ x = i := by
  unfold dueIf; split <;> simp [*]

theorem fallsDue_iff (t : Option Nat) (n : Nat) : fallsDue t (n + 1) = true ↔ t = some n := by
  cases t <;> simp [fallsDue]

/-! ### The settlement -/

/-- The tracker after the role followed the neighbours. -/
theorem applyRole_trk (s : State) (w : HeadWay) :
    (applyRole s w).trk = s.trk ∨ (applyRole s w).trk = s.trk.stop ∨
      (applyRole s w).trk = s.trk.begin s.ldr.cfg.z s.ldr.straps.position w := by
  unfold applyRole
  simp only [State.setRos_trk, State.setTrk_trk]
  generalize (if s.ctl.mode.doses = true then roleOf s.ros.up s.ros.down else Role.noRole) = r
  cases r.numbers <;> cases s.ros.role.numbers <;> simp

theorem Tracker.join_keeps (t : Tracker) (z : Nat) (r : ParcelRec) :
    (t.join z r).watermark = t.watermark ∧ (t.join z r).brk = t.brk ∧ (t.join z r).counter = t.counter ∧
      (t.join z r).residue = t.residue ∧ (t.join z r).accrual = t.accrual := by
  unfold Tracker.join; split <;> (try split) <;> simp

theorem Tracker.expectFrom_keeps (t : Tracker) (a : Seq) :
    (t.expectFrom a).watermark = t.watermark ∧ (t.expectFrom a).brk = t.brk ∧
      (t.expectFrom a).counter = t.counter ∧ (t.expectFrom a).residue = t.residue ∧
      (t.expectFrom a).accrual = t.accrual := by
  unfold Tracker.expectFrom; split <;> (try split) <;> simp

theorem Tracker.begin_keeps (t : Tracker) (z own : Nat) (w : HeadWay) :
    (t.begin z own w).watermark = t.watermark ∧ (t.begin z own w).brk = t.brk ∧
      (t.begin z own w).counter = t.counter ∧ (t.begin z own w).residue = t.residue ∧
      (t.begin z own w).accrual = t.accrual := by
  have ht : ∀ t : Tracker, (t.takeOverByLoss z own).watermark = t.watermark ∧
      (t.takeOverByLoss z own).brk = t.brk ∧ (t.takeOverByLoss z own).counter = t.counter ∧
      (t.takeOverByLoss z own).residue = t.residue ∧ (t.takeOverByLoss z own).accrual = t.accrual := by
    intro t
    unfold Tracker.takeOverByLoss
    split <;> (try simp only) <;> (try split) <;> (try split) <;>
      simp [Tracker.expectFrom_keeps, Tracker.join_keeps, Tracker.joinPlaceholder]
  unfold Tracker.begin; cases w <;> simp [Tracker.expectFrom_keeps, ht]

/-- The settlement keeps watermark, break, counter, residue and accrual timer (R6). -/
theorem settle_trk_keeps (s : State) :
    (settle s).trk.watermark = s.trk.watermark ∧ (settle s).trk.brk = s.trk.brk ∧
      (settle s).trk.counter = s.trk.counter ∧ (settle s).trk.residue = s.trk.residue ∧
      (settle s).trk.accrual = s.trk.accrual := by
  have ha : ∀ (s : State) w, (applyRole s w).trk.watermark = s.trk.watermark ∧
      (applyRole s w).trk.brk = s.trk.brk ∧ (applyRole s w).trk.counter = s.trk.counter ∧
      (applyRole s w).trk.residue = s.trk.residue ∧ (applyRole s w).trk.accrual = s.trk.accrual := by
    intro s w
    rcases applyRole_trk s w with h | h | h <;> rw [h] <;> simp [Tracker.stop, Tracker.begin_keeps]
  unfold settle
  simp only
  split <;> (try split) <;> simp [enterIsolated, enterDosing, ha, emptyParcels, Tracker.isolate, Tracker.stop]

/-- A lamp event changes of the planner the setpoint alone. -/
theorem lampEvent_pln_keeps (s : State) :
    (lampEvent s).pln.flow = s.pln.flow ∧ (lampEvent s).pln.flowSource = s.pln.flowSource ∧
      (lampEvent s).pln.flowDup = s.pln.flowDup ∧ (lampEvent s).pln.flowTimer = s.pln.flowTimer ∧
      (lampEvent s).pln.uvt = s.pln.uvt ∧ (lampEvent s).pln.uvtSource = s.pln.uvtSource ∧
      (lampEvent s).pln.uvtDup = s.pln.uvtDup ∧ (lampEvent s).pln.uvtTimer = s.pln.uvtTimer ∧
      (lampEvent s).pln.holdTimer = s.pln.holdTimer ∧ (lampEvent s).pln.holdCond = s.pln.holdCond ∧
      (lampEvent s).pln.plan = s.pln.plan ∧ (lampEvent s).pln.shortfall = s.pln.shortfall ∧
      (lampEvent s).pln.lastReq = s.pln.lastReq := by
  simp only [lampEvent, pump_keeps, judgeLamps_keeps]
  unfold refreshSetpoint; split <;> simp

/-- The settlement keeps the sources and the hold condition. -/
theorem settle_pln_keeps (s : State) :
    (settle s).pln.flow = s.pln.flow ∧ (settle s).pln.flowSource = s.pln.flowSource ∧
      (settle s).pln.flowDup = s.pln.flowDup ∧ (settle s).pln.uvt = s.pln.uvt ∧
      (settle s).pln.uvtSource = s.pln.uvtSource ∧ (settle s).pln.uvtDup = s.pln.uvtDup ∧
      (settle s).pln.holdCond = s.pln.holdCond ∧ (settle s).pln.holdTimer = s.pln.holdTimer := by
  unfold settle
  simp only
  split <;> (try split) <;> simp [enterIsolated, enterDosing, startSourceTimers, lampEvent_pln_keeps]

/-- The settlement keeps the wait record. -/
theorem settle_wait (s : State) : (settle s).wip.wait = s.wip.wait := by
  have hrc : ∀ t : State, (releaseClaim t).wip.wait = t.wip.wait := by
    intro t; unfold releaseClaim takeBackClaim; split <;> (try split) <;> simp
  unfold settle
  simp only
  split <;> (try split) <;> simp [enterIsolated, enterDosing, hrc, post_wip_keeps]

theorem stands_judged (e : RosterEntry) (p : Prop) [Decidable p] :
    ({ e with state := if p then EntryState.conflict else .active } : RosterEntry).stands = true := by
  by_cases h : p <;> simp [RosterEntry.stands, h]

/-- Judging conflicts leaves the number of entries that stand at an address. -/
theorem standing_judged (es : List RosterEntry) (c p : Nat) : standing (judgeConflicts es) c p = standing es c p := by
  unfold standing judgeConflicts
  rw [List.countP_map]
  apply List.countP_congr
  intro e _
  simp only [Function.comp]
  by_cases h : e.stands = true
  · simp only [h, if_true, stands_judged]
  · simp [h]

/-- Judging conflicts twice judges them once. -/
theorem judgeConflicts_idem (es : List RosterEntry) : judgeConflicts (judgeConflicts es) = judgeConflicts es := by
  have hs := standing_judged es
  generalize hj : judgeConflicts es = js at *
  unfold judgeConflicts
  simp only [hs]
  rw [← hj]
  unfold judgeConflicts
  rw [List.map_map]
  apply List.map_congr_left
  intro e _
  simp only [Function.comp]
  by_cases h : e.stands = true
  · simp [h, stands_judged]
  · simp [h]

/-- The settlement judges the conflicts and changes nothing else of the entries (R59). -/
theorem settle_entries (s : State) : (settle s).ros.entries = judgeConflicts s.ros.entries := by
  unfold settle
  simp only
  split <;> (try split) <;>
    simp [enterIsolated, enterDosing, judgeRoster, Roster.judge, applyRole, judgeConflicts_idem, setMode,
      startSourceTimers]

/-- A settlement after DOSING or HOLD has been entered stays in that mode, or enters ISOLATED where a reason stands
(R64, R66, R67). -/
theorem settle_setMode_mode (s : State) (m : BankMode) (hm : m = .dosing ∨ m = .hold) :
    (settle (setMode s m)).ctl.mode = if reasonStands (judgeRoster (setMode s m)) then .isolated else m := by
  have h1 : (judgeRoster (setMode s m)).ctl.mode = m := by simp [judgeRoster, setMode]
  have h2 : ∀ v, (enterIsolated v).ctl.mode = .isolated := by
    intro v; simp [enterIsolated, judgeRoster, setMode]
  unfold settle
  simp only [h1]
  rcases hm with rfl | rfl <;> simp only <;> split <;> simp [h2, h1]

/-- Following the flow keeps the sources of it. -/
theorem flowChanged_pln_keeps (s : State) :
    (flowChanged s).pln.flow = s.pln.flow ∧ (flowChanged s).pln.flowSource = s.pln.flowSource ∧
      (flowChanged s).pln.flowDup = s.pln.flowDup ∧ (flowChanged s).pln.uvt = s.pln.uvt ∧
      (flowChanged s).pln.uvtSource = s.pln.uvtSource ∧ (flowChanged s).pln.uvtDup = s.pln.uvtDup := by
  have hh : ∀ (p : Planner) q m, (p.judgeHold q m).flow = p.flow ∧ (p.judgeHold q m).flowSource = p.flowSource ∧
      (p.judgeHold q m).flowDup = p.flowDup ∧ (p.judgeHold q m).uvt = p.uvt ∧
      (p.judgeHold q m).uvtSource = p.uvtSource ∧ (p.judgeHold q m).uvtDup = p.uvtDup := by
    intro p q m; unfold Planner.judgeHold; split <;> split <;> (try split) <;> simp
  unfold flowChanged followHold
  split <;> (try split) <;> simp [settle_pln_keeps, setMode, judgeHold, hh]

/-! ### The wait record -/

/-- Emptying the wait record on a position changes wiper, bus and handler alone, and empties it there (R162). -/
theorem emptyWaitOn_spec (s : State) (p : Nat) :
    OnlyChanges [.wip, .bus, .cmd] s (emptyWaitOn s p) ∧
      (s.wip.wait.map (·.pos) = some p → (emptyWaitOn s p).wip.wait = none) ∧
      (s.wip.wait.map (·.pos) ≠ some p → emptyWaitOn s p = s) := by
  refine ⟨?_, ?_, ?_⟩
  · intro b hb
    unfold emptyWaitOn emptyWait
    cases b <;> simp at hb <;> simp only [Block.same] <;> split <;> (try split) <;> simp
  · intro h
    unfold emptyWaitOn
    cases hw : s.wip.wait with
    | none => simp [hw] at h
    | some w =>
      simp only [hw, Option.map_some, Option.some.injEq] at h
      simp only [h, if_true, emptyWait, judgeAdmission]
      split <;> simp [postClaim, post_wip_keeps]
  · intro h
    unfold emptyWaitOn
    cases hw : s.wip.wait with
    | none => rfl
    | some w =>
      simp only [hw, Option.map_some, ne_eq, Option.some.injEq] at h
      simp [h]

end Sys2Proof.Machine
end

