-- ==== Sys2Proof/Laws/Account.lean ====
section
/-! SUPPORT. Every operation of the blocks keeps the parcel queue sound, and empty outside DOSING and HOLD (R1, R3, R5,
R36): one lemma each. -/

namespace Sys2Proof.Machine

/-- What the invariant reads. -/
structure SameAccount (s t : State) : Prop where
  queue : t.trk.queue = s.trk.queue
  next  : t.trk.nextExpected = s.trk.nextExpected
  z     : t.ldr.cfg.z = s.ldr.cfg.z
  mode  : t.ctl.mode = s.ctl.mode
  role  : t.ros.role = s.ros.role

theorem parcelsInv_of_same {s t : State} (h : ParcelsInv s) (e : SameAccount s t) : ParcelsInv t := by
  unfold ParcelsInv at *
  rw [e.z, e.mode, e.queue, e.next, e.role]
  exact ⟨Tracker.sound_of_same h.1 e.queue e.next, h.2⟩

/-- In DOSING and HOLD a sound tracker is all there is to the invariant. -/
theorem parcelsInv_of_doses {s : State} (hm : s.ctl.mode.doses = true) (h : s.trk.sound s.ldr.cfg.z) :
    ParcelsInv s := ⟨h, by simp [hm]⟩

/-- Outside them an empty account and no role are. -/
theorem parcelsInv_of_empty {s : State} (hq : s.trk.queue = []) (hn : s.trk.nextExpected = none)
    (hr : s.ros.role = .noRole) : ParcelsInv s :=
  ⟨⟨by simp [hq], by simp [hq, linked], by simp [hq], fun _ => hq⟩, fun _ => ⟨hq, hn, hr⟩⟩

theorem giveUpAll_account (s : State) (fs : List Frame) : SameAccount s (giveUpAll s fs) := by
  constructor <;> simp

theorem post_account (s : State) (b : Body) : SameAccount s (post s b) := by constructor <;> simp

theorem judgeRoster_account (s : State) : SameAccount s (judgeRoster s) := by
  constructor <;> simp [judgeRoster, Roster.judge]

theorem lampEvent_account (s : State) : SameAccount s (lampEvent s) := by constructor <;> simp

theorem applyRole_parcels (s : State) (w : HeadWay) (h : ParcelsInv s) : ParcelsInv (applyRole s w) := by
  obtain ⟨h1, h2⟩ := h
  cases hm : s.ctl.mode.doses with
  | true =>
    refine parcelsInv_of_doses (by simpa using hm) ?_
    simp only [applyRole_keeps]
    rcases applyRole_trk s w with h | h | h <;> rw [h]
    · exact h1
    · exact Tracker.stop_sound _ _ h1
    · exact Tracker.begin_sound _ _ _ _ h1
  | false =>
    obtain ⟨hq, hn, hr⟩ := h2 hm
    refine parcelsInv_of_same ⟨h1, h2⟩ ⟨?_, ?_, by simp, by simp, ?_⟩ <;>
      simp [applyRole, hm, hr, Role.numbers]

theorem enterIsolated_parcels (s : State) : ParcelsInv (enterIsolated s) := by
  refine parcelsInv_of_empty ?_ ?_ ?_ <;>
    simp [enterIsolated, emptyParcels, Tracker.isolate, judgeRoster, Roster.judge]

theorem enterDosing_parcels (s : State) (w : HeadWay) (h : ParcelsInv s) : ParcelsInv (enterDosing s w) := by
  refine applyRole_parcels _ _ (parcelsInv_of_doses ?_ ?_)
  · simp [judgeRoster, setMode, dosingMode]; split <;> rfl
  · simpa using h.1

theorem settle_parcels (s : State) (h : ParcelsInv s) : ParcelsInv (settle s) := by
  have hj := parcelsInv_of_same h (judgeRoster_account s)
  unfold settle
  generalize judgeRoster s = u at *
  simp only
  split
  · split
    · exact enterIsolated_parcels _
    · exact applyRole_parcels _ _ hj
  · split
    · exact enterIsolated_parcels _
    · exact applyRole_parcels _ _ hj
  · split
    · exact hj
    · exact enterDosing_parcels _ _ hj
  · exact hj
  · exact hj
  · exact hj

theorem followHold_parcels (s : State) (h : ParcelsInv s) : ParcelsInv (followHold s) := by
  unfold followHold
  split
  · split
    · exact settle_parcels _ (parcelsInv_of_doses (by simp [setMode, BankMode.doses]) (by simpa using h.1))
    · exact h
  · split
    · exact h
    · exact settle_parcels _ (parcelsInv_of_doses (by simp [setMode, BankMode.doses]) (by simpa using h.1))
  · exact h

theorem flowChanged_parcels (s : State) (h : ParcelsInv s) : ParcelsInv (flowChanged s) :=
  followHold_parcels _ (parcelsInv_of_same h (by constructor <;> simp))

theorem learnSource_parcels (s : State) (a : Src) (h : ParcelsInv s) (hr : (s.ros.learnPlain a).role = s.ros.role) :
    ParcelsInv (learnSource s a) := settle_parcels _ (parcelsInv_of_same h (by constructor <;> simp [hr]))

/-! ### Learning leaves the role alone -/

theorem Roster.add_role (r : Roster) (e : RosterEntry) : (r.add e).role = r.role := by
  unfold Roster.add; split
  · rfl
  · split <;> rfl

theorem Roster.learnPlain_role (r : Roster) (a : Src) : (r.learnPlain a).role = r.role := by
  unfold Roster.learnPlain
  simp only
  split
  · rfl
  · split
    · exact r.add_role _
    · rfl
    · rfl
    · split <;> rfl

theorem Roster.learnIdentity_role (r : Roster) (a : Src) (x : Serial) (f : RosterEntry → RosterEntry) :
    (r.learnIdentity a x f).role = r.role := by
  unfold Roster.learnIdentity
  simp only
  split
  · rfl
  · split
    · rfl
    · exact r.add_role _

theorem learnNamed_role (s : State) (a : Src) (x : Serial) (f : RosterEntry → RosterEntry) :
    (learnNamed s a x f).role = s.ros.role := by
  unfold learnNamed; split
  · split
    · rfl
    · exact Roster.learnIdentity_role _ _ _ _
  · exact Roster.learnPlain_role _ _

theorem Roster.setWiping_role (r : Roster) (a : Src) (w : Option Nat) : (r.setWiping a w).role = r.role := by
  unfold Roster.setWiping; split <;> rfl

/-- A frame's source learned, whatever changed of the roster's entries. -/
theorem settleRos_parcels (s : State) (r : Roster) (h : ParcelsInv s) (hr : r.role = s.ros.role) :
    ParcelsInv (settle (s.setRos r)) := settle_parcels _ (parcelsInv_of_same h (by constructor <;> simp [hr]))

/-! ### Entries into modes -/

theorem enterFailsafe_parcels (s : State) (c : LoadFailure) (h : ParcelsInv s) (hl : s.ctl.mode = .loading) :
    ParcelsInv (enterFailsafe s c) := by
  obtain ⟨hq, hn, hr⟩ := h.2 (by simp [hl, BankMode.doses])
  unfold enterFailsafe
  refine settle_parcels _ (parcelsInv_of_empty ?_ ?_ ?_) <;> simp [startAccrual, addSelf, hq, hn, hr]

theorem enterListen_parcels (s : State) (c : ImageCfg) (d : Digest) (h : ParcelsInv s) (hl : s.ctl.mode = .loading) :
    ParcelsInv (enterListen s c d) := by
  obtain ⟨hq, hn, hr⟩ := h.2 (by simp [hl, BankMode.doses])
  unfold enterListen
  refine parcelsInv_of_same (settle_parcels _ (parcelsInv_of_empty ?_ ?_ ?_)) (lampEvent_account _) <;>
    simp [startAccrual, addSelf, hq, hn, hr]

theorem listenOver_parcels (s : State) (h : ParcelsInv s) : ParcelsInv (listenOver s) := by
  unfold listenOver
  simp only
  generalize hu : s.setCtl _ = u
  have hu' : ParcelsInv u := parcelsInv_of_same h (by rw [← hu]; constructor <;> simp)
  split
  · exact enterIsolated_parcels _
  · exact parcelsInv_of_same (enterDosing_parcels _ _ (parcelsInv_of_same hu' (post_account _ _)))
      (lampEvent_account _)

/-! ### The accrual expiry -/

theorem sendRecord_account (role : Role) (s : State) (r : ParcelRec) : SameAccount s (sendRecord role s r) := by
  unfold sendRecord; split <;> constructor <;> simp [Tracker.judged]

theorem accrued_sound (s : State) (h : ParcelsInv s) : (accrued s).sound s.ldr.cfg.z := by
  have h1 : (if s.ctl.mode = .dosing then s.trk.count (flowQ s) else s.trk).sound s.ldr.cfg.z := by
    split
    · exact Tracker.count_sound _ _ _ h.1
    · exact h.1
  unfold accrued
  simp only
  split
  · exact Tracker.credit_sound _ _ _ _ (Tracker.create_sound _ _ _ _ h1)
  · exact Tracker.credit_sound _ _ _ _ h1

theorem accrue_parcels (s : State) (h : ParcelsInv s) : ParcelsInv (accrue s) := by
  unfold accrue
  split
  · rename_i hm
    have h1 : ParcelsInv (s.setTrk (accrued s).exit) :=
      parcelsInv_of_doses (by simpa using hm) (Tracker.exit_sound _ _ (accrued_sound s h))
    simp only
    generalize s.setTrk (accrued s).exit = u at *
    generalize (accrued s).leaving = l
    induction l generalizing u with
    | nil => exact h1
    | cons r l ih => exact ih _ (parcelsInv_of_same h1 (sendRecord_account _ _ _))
  · exact h

/-! ### An arrival -/

theorem Tracker.offerWatermark_same (t : Tracker) (c : Seq) :
    (t.offerWatermark c).queue = t.queue ∧ (t.offerWatermark c).nextExpected = t.nextExpected := by
  unfold Tracker.offerWatermark; split <;> (try split) <;> simp

theorem takeParcel_parcels (s : State) (a : Src) (b : ParcelBody) (h : ParcelsInv s) :
    ParcelsInv (s.setTrk (takeParcel s a b)) := by
  have ho := Tracker.offerWatermark_same s.trk
  have hs : (s.trk.offerWatermark (b.lastSeq + 1)).sound s.ldr.cfg.z :=
    Tracker.sound_of_same h.1 (ho _).1 (ho _).2
  have hd : (arrivalOf b).dose ≤ 999999 := by simp [arrivalOf]
  cases hm : s.ctl.mode.doses with
  | false =>
    refine parcelsInv_of_same h ?_
    constructor <;> simp [takeParcel, hm, ho]
  | true =>
    refine parcelsInv_of_doses (by simpa using hm) ?_
    simp only [State.setTrk_trk, State.setTrk_ldr, takeParcel, hm, if_true]
    split
    · exact Tracker.accept_sound _ _ _ _ hs hd
    · split
      · exact Tracker.adopt_sound _ _ _ _ hs hd
      · exact hs

/-! ### Events -/

theorem takeReset_parcels (s : State) (h : ResetHold) : ParcelsInv (takeReset s h) := by
  refine parcelsInv_of_empty ?_ ?_ ?_ <;> simp [State.reset]

theorem closeRestart_parcels (s : State) (h : ParcelsInv s) : ParcelsInv (closeRestart s) := by
  unfold closeRestart; split
  · exact takeReset_parcels _ _
  · exact h

theorem outsideReset_parcels (s : State) (f : State → State) (h : ParcelsInv s)
    (hf : ParcelsInv s → ParcelsInv (f s)) : ParcelsInv (outsideReset s f) := by
  unfold outsideReset; split
  · exact h
  · exact hf h

theorem event_parcels (s : State) (f : State → State) (h : ParcelsInv s) (hf : ParcelsInv s → ParcelsInv (f s)) :
    ParcelsInv (event s f) := outsideReset_parcels _ _ h fun h => closeRestart_parcels _ (hf h)

theorem frameEvent_parcels (s : State) (f : State → State) (h : ParcelsInv s)
    (hf : ∀ t, ParcelsInv t → ParcelsInv (f t)) : ParcelsInv (frameEvent s f) := by
  refine event_parcels _ _ h fun h => ?_
  have h' : ParcelsInv (s.setBus s.bus.frameTaken) := parcelsInv_of_same h (by constructor <;> simp)
  simp only; split
  · exact h'
  · exact hf _ h'

theorem commandEvent_parcels (s : State) (a : Src) (b : CommandBody) (f : State → State) (h : ParcelsInv s)
    (hf : ∀ t, ParcelsInv t → ParcelsInv (f t)) : ParcelsInv (commandEvent s a b f) := by
  refine frameEvent_parcels _ _ h fun t h => ?_
  have h' := learnSource_parcels t a h (Roster.learnPlain_role _ _)
  simp only; split
  · exact hf _ (parcelsInv_of_same h' (by constructor <;> simp))
  · exact parcelsInv_of_same h' (by constructor <;> simp)

end Sys2Proof.Machine
end

