-- ==== Sys2Proof/Laws/Bus.lean ====
section
/-! SUPPORT. The transmit queue's operations keep a sound queue: one lemma each. -/

namespace Sys2Proof.Machine

/-! ### Class order -/

theorem ordered_iff (q : List Frame) : ordered q = true ↔ q.Pairwise fun a b => a.cls ≤ b.cls := by
  induction q with
  | nil => simp [ordered]
  | cons a q ih =>
    cases q with
    | nil => simp [ordered]
    | cons b q =>
      simp only [ordered, Bool.and_eq_true, decide_eq_true_eq, ih]
      constructor
      · rintro ⟨h1, h2⟩
        refine List.pairwise_cons.mpr ⟨fun x hx => ?_, h2⟩
        rcases List.mem_cons.mp hx with rfl | hx
        · exact h1
        · exact le_trans h1 (List.rel_of_pairwise_cons h2 hx)
      · intro h
        exact ⟨List.rel_of_pairwise_cons h (by simp), (List.pairwise_cons.mp h).2⟩

theorem mem_enqueue (f x : Frame) (q : List Frame) : x ∈ enqueue f q ↔ x = f ∨ x ∈ q := by
  induction q with
  | nil => simp [enqueue]
  | cons g q ih =>
    simp only [enqueue]; split <;> simp [ih]; tauto

theorem mem_requeue (f x : Frame) (q : List Frame) : x ∈ requeue f q ↔ x = f ∨ x ∈ q := by
  induction q with
  | nil => simp [requeue]
  | cons g q ih =>
    simp only [requeue]; split <;> simp [ih]; tauto

theorem ordered_enqueue (f : Frame) (q : List Frame) (h : ordered q = true) : ordered (enqueue f q) = true := by
  rw [ordered_iff] at *
  induction q with
  | nil => simp [enqueue]
  | cons g q ih =>
    have hc := List.pairwise_cons.mp h
    simp only [enqueue]
    split
    · refine List.pairwise_cons.mpr ⟨fun x hx => ?_, ih hc.2⟩
      rcases (mem_enqueue f x q).mp hx with rfl | hx
      · assumption
      · exact hc.1 x hx
    · refine List.pairwise_cons.mpr ⟨fun x hx => ?_, h⟩
      rcases List.mem_cons.mp hx with rfl | hx
      · omega
      · have := hc.1 x hx; omega

theorem ordered_requeue (f : Frame) (q : List Frame) (h : ordered q = true) : ordered (requeue f q) = true := by
  rw [ordered_iff] at *
  induction q with
  | nil => simp [requeue]
  | cons g q ih =>
    have hc := List.pairwise_cons.mp h
    simp only [requeue]
    split
    · refine List.pairwise_cons.mpr ⟨fun x hx => ?_, ih hc.2⟩
      rcases (mem_requeue f x q).mp hx with rfl | hx
      · omega
      · exact hc.1 x hx
    · refine List.pairwise_cons.mpr ⟨fun x hx => ?_, h⟩
      rcases List.mem_cons.mp hx with rfl | hx
      · omega
      · have := hc.1 x hx; omega

/-- Frames of one type have one class. -/
theorem classOf_eq {a b : Body} (h : a.typeCode = b.typeCode) : classOf a = classOf b := by
  cases a <;> cases b <;> first | rfl | (revert h; simp [Body.typeCode])

/-- The place of a posted frame: behind every frame of its own and of a more urgent class (R178, R181). -/
theorem enqueue_place (f : Frame) (q : List Frame) (h : ordered q = true) : ∃ older newer, q = older ++ newer ∧
    (∀ x ∈ older, x.cls ≤ f.cls) ∧ (∀ x ∈ newer, f.cls < x.cls) ∧ enqueue f q = older ++ f :: newer := by
  rw [ordered_iff] at h
  induction q with
  | nil => exact ⟨[], [], rfl, by simp, by simp, rfl⟩
  | cons g rest ih =>
    obtain ⟨h1, h2⟩ := List.pairwise_cons.mp h
    unfold enqueue
    split
    · rename_i hg
      obtain ⟨older, newer, e1, e2, e3, e4⟩ := ih h2
      exact ⟨g :: older, newer, by rw [e1]; rfl, by simpa using ⟨hg, e2⟩, e3, by rw [e4]; rfl⟩
    · rename_i hg
      refine ⟨[], g :: rest, rfl, by simp, fun x hx => ?_, rfl⟩
      rcases List.mem_cons.mp hx with rfl | hx
      · omega
      · have := h1 x hx; omega

/-- The place of a returning frame: before every frame of its own class (R177). -/
theorem requeue_place (f : Frame) (q : List Frame) (h : ordered q = true) : ∃ before behind, q = before ++ behind ∧
    (∀ x ∈ before, x.cls < f.cls) ∧ (∀ x ∈ behind, f.cls ≤ x.cls) ∧ requeue f q = before ++ f :: behind := by
  rw [ordered_iff] at h
  induction q with
  | nil => exact ⟨[], [], rfl, by simp, by simp, rfl⟩
  | cons g rest ih =>
    obtain ⟨h1, h2⟩ := List.pairwise_cons.mp h
    unfold requeue
    split
    · rename_i hg
      obtain ⟨before, behind, e1, e2, e3, e4⟩ := ih h2
      exact ⟨g :: before, behind, by rw [e1]; rfl, by simpa using ⟨hg, e2⟩, e3, by rw [e4]; rfl⟩
    · rename_i hg
      refine ⟨[], g :: rest, rfl, by simp, fun x hx => ?_, rfl⟩
      rcases List.mem_cons.mp hx with rfl | hx
      · omega
      · have := h1 x hx; omega

/-- The place of a renewed frame (R180). -/
theorem renew_place (f g : Frame) (before behind : List Frame) (hg : sameRenewable f.body g = true)
    (hb : ∀ x ∈ before, sameRenewable f.body x = false) :
    renew f (before ++ g :: behind) = before ++ f :: behind := by
  induction before with
  | nil => simp [renew, hg]
  | cons x before ih =>
    have hx := hb x (by simp)
    simp only [List.cons_append, renew, hx]
    rw [ih fun y hy => hb y (by simp [hy])]; rfl

theorem ordered_map (f : Frame → Frame) (hf : ∀ x, (f x).body.typeCode = x.body.typeCode) (q : List Frame)
    (h : ordered q = true) : ordered (q.map f) = true := by
  rw [ordered_iff] at *
  rw [List.pairwise_map]
  exact h.imp fun {a b} hab => by
    have ha : (f a).cls = a.cls := classOf_eq (hf a)
    have hb : (f b).cls = b.cls := classOf_eq (hf b)
    omega

/-! ### Sublists -/

theorem queueSound_sublist {p q : List Frame} (hp : List.Sublist p q) (h : queueSound q) : queueSound p := by
  obtain ⟨hn, ho, h2, h3, h4⟩ := h
  refine ⟨le_trans hp.length_le hn, ?_, le_trans (hp.countP_le) h2, le_trans hp.countP_le h3,
    le_trans hp.countP_le h4⟩
  rw [ordered_iff] at *
  exact ho.sublist hp

theorem queueSound_nil : queueSound [] := by simp [queueSound, ordered, waitingOf]

theorem queueSound_map (f : Frame → Frame) (hf : ∀ x, (f x).body.typeCode = x.body.typeCode) (q : List Frame)
    (h : queueSound q) : queueSound (q.map f) := by
  obtain ⟨hn, ho, h2, h3, h4⟩ := h
  have hc : ∀ ty, waitingOf ty (q.map f) = waitingOf ty q := by
    intro ty; simp [waitingOf, List.countP_map, Function.comp_def, hf]
  exact ⟨by simpa using hn, ordered_map f hf q ho, by rw [hc]; exact h2, by rw [hc]; exact h3,
    by rw [hc]; exact h4⟩

/-! ### Joining, returning, renewing -/

@[simp] theorem length_enqueue (f : Frame) (q : List Frame) : (enqueue f q).length = q.length + 1 := by
  induction q with
  | nil => rfl
  | cons g q ih => simp only [enqueue]; split <;> simp [ih]

@[simp] theorem length_requeue (f : Frame) (q : List Frame) : (requeue f q).length = q.length + 1 := by
  induction q with
  | nil => rfl
  | cons g q ih => simp only [requeue]; split <;> simp [ih]

theorem waitingOf_enqueue (ty : BitVec 4) (f : Frame) (q : List Frame) :
    waitingOf ty (enqueue f q) = waitingOf ty q + if f.body.typeCode == ty then 1 else 0 := by
  induction q with
  | nil => simp [enqueue, waitingOf, List.countP_cons]
  | cons g q ih =>
    simp only [enqueue]
    split
    · simp only [waitingOf, List.countP_cons] at *; omega
    · simp only [waitingOf, List.countP_cons]

theorem waitingOf_requeue (ty : BitVec 4) (f : Frame) (q : List Frame) :
    waitingOf ty (requeue f q) = waitingOf ty q + if f.body.typeCode == ty then 1 else 0 := by
  induction q with
  | nil => simp [requeue, waitingOf, List.countP_cons]
  | cons g q ih =>
    simp only [requeue]
    split
    · simp only [waitingOf, List.countP_cons] at *; omega
    · simp only [waitingOf, List.countP_cons]

/-- A type of which at most one waits is waited for by none where no frame of it stands. -/
theorem waitingOf_zero {f : Frame} {q : List Frame} (h : q.any (sameRenewable f.body) = false) (ty : BitVec 4)
    (hty : ty = 2 ∨ ty = 3 ∨ ty = 4) (hf : f.body.typeCode = ty) : waitingOf ty q = 0 := by
  have hr : renewable f.body = true := by
    rcases hty with rfl | rfl | rfl <;> revert hf <;> cases f.body <;> simp [Body.typeCode, renewable]
  unfold waitingOf
  rw [List.countP_eq_zero]
  intro g hg
  have := (List.any_eq_false.mp h) g hg
  simp only [sameRenewable, hr, Bool.true_and, decide_eq_true_eq, hf] at this
  simpa using this

theorem queueSound_insert {f : Frame} {p q : List Frame} (h : queueSound q)
    (hr : q.any (sameRenewable f.body) = false) (hn : p.length ≤ 12) (ho : ordered p = true)
    (hc : ∀ ty, waitingOf ty p ≤ waitingOf ty q + if f.body.typeCode == ty then 1 else 0) : queueSound p := by
  obtain ⟨_, _, h2, h3, h4⟩ := h
  have key : ∀ ty, (ty = 2 ∨ ty = 3 ∨ ty = 4) → waitingOf ty q ≤ 1 → waitingOf ty p ≤ 1 := by
    intro ty hty hle
    have hp := hc ty
    by_cases hf : f.body.typeCode = ty
    · have hz := waitingOf_zero hr ty hty hf
      simp only [hf, beq_self_eq_true, if_true] at hp; omega
    · have : (f.body.typeCode == ty) = false := by simpa using hf
      simp only [this] at hp
      simp at hp; omega
  exact ⟨hn, ho, key 2 (by simp) h2, key 3 (by simp) h3, key 4 (by simp) h4⟩

theorem queueSound_enqueue {f : Frame} {q : List Frame} (h : queueSound q)
    (hr : q.any (sameRenewable f.body) = false) (hn : q.length < 12) : queueSound (enqueue f q) :=
  queueSound_insert h hr (by simp; omega) (ordered_enqueue f q h.2.1)
    fun ty => le_of_eq (waitingOf_enqueue ty f q)

/-- Renewing changes the frame of one place for one of the same type. -/
theorem renew_types (f : Frame) (q : List Frame) :
    (renew f q).map (·.body.typeCode) = q.map (·.body.typeCode) := by
  induction q with
  | nil => rfl
  | cons g q ih =>
    simp only [renew]
    split
    · rename_i hs
      simp only [sameRenewable, Bool.and_eq_true, decide_eq_true_eq] at hs
      simp [hs.2]
    · simp [ih]

/-- Soundness looks at the types alone. -/
theorem queueSound_of_types {p q : List Frame} (ht : p.map (·.body.typeCode) = q.map (·.body.typeCode))
    (h : queueSound q) : queueSound p := by
  have hlen : p.length = q.length := by simpa using congrArg List.length ht
  have hw : ∀ ty, waitingOf ty p = waitingOf ty q := by
    intro ty
    have := congrArg (List.countP (· == ty)) ht
    simpa [waitingOf, List.countP_map, Function.comp_def] using this
  have ho : ∀ {p q : List Frame}, p.map (·.body.typeCode) = q.map (·.body.typeCode) → ordered q = true →
      ordered p = true := by
    intro p
    induction p with
    | nil => intro q _ _; simp [ordered]
    | cons a p ih =>
      intro q ht hq
      cases q with
      | nil => simp at ht
      | cons b q =>
        simp only [List.map_cons, List.cons.injEq] at ht
        cases p with
        | nil => simp [ordered]
        | cons a' p =>
          cases q with
          | nil => simp at ht
          | cons b' q =>
            simp only [ordered, Bool.and_eq_true, decide_eq_true_eq] at hq ⊢
            have h1 := classOf_eq ht.1
            simp only [List.map_cons, List.cons.injEq] at ht
            have h2 := classOf_eq ht.2.1
            have ha : a.cls = b.cls := h1
            have hb : a'.cls = b'.cls := h2
            exact ⟨by omega, ih (by simp [ht.2.1, ht.2.2]) hq.2⟩
  exact ⟨by rw [hlen]; exact h.1, ho ht h.2.1, by rw [hw]; exact h.2.2.1, by rw [hw]; exact h.2.2.2.1,
    by rw [hw]; exact h.2.2.2.2⟩

theorem queueSound_renew {f : Frame} {q : List Frame} (h : queueSound q) : queueSound (renew f q) :=
  queueSound_of_types (renew_types f q) h

/-! ### A full queue (R181–R183) -/

theorem any_filter_false {α : Type} {p r : α → Bool} {q : List α} (h : q.any p = false) :
    (q.filter r).any p = false := by
  rw [List.any_eq_false] at *
  intro x hx; exact h x (List.mem_of_mem_filter hx)

theorem displaceable_mem {q : List Frame} {g : Frame} (h : displaceable q = some g) : g ∈ q := by
  unfold displaceable at h
  split at h
  · split at h
    · simp at h
    · exact List.mem_of_find?_eq_some h
  · simp at h

theorem dropTicket_length {q : List Frame} {g : Frame} (h : g ∈ q) : (dropTicket g.ticket q).length < q.length := by
  unfold dropTicket
  rw [List.length_filter_lt_length_iff_exists]
  exact ⟨g, h, by simp⟩

theorem mergeInto_types {b : ParcelBody} {q p : List Frame} (h : mergeInto b q = some p) :
    p.map (·.body.typeCode) = q.map (·.body.typeCode) := by
  unfold mergeInto at h
  split at h
  · split at h
    · split at h
      · simp only [Option.some.injEq] at h
        subst h
        simp only [List.map_map]
        apply List.map_congr_left
        intro x _
        simp only [Function.comp]
        split
        · rename_i hx
          simp only [Bool.and_eq_true] at hx
          have hp := hx.1
          unfold Frame.isParcel at hp
          split at hp
          · rename_i hb; simp [hb, Body.typeCode]
          · simp at hp
        · rfl
      · simp at h
    · simp at h
  · simp at h

/-- Posting keeps the queue sound (R178). -/
theorem Bus.post_sound (b : Bus) (f : Frame) (h : queueSound b.queue) : queueSound (b.post f).bus.queue := by
  unfold Bus.post
  split
  · exact queueSound_renew h
  · rename_i hr
    have hr : b.queue.any (sameRenewable f.body) = false := by simpa using hr
    split
    · rename_i hn; exact queueSound_enqueue h hr hn
    · unfold Bus.postFull
      split
      · split
        · rename_i g hg
          have hm := displaceable_mem hg
          have hl := dropTicket_length hm
          have h12 := h.1
          exact queueSound_enqueue (queueSound_sublist List.filter_sublist h) (any_filter_false hr)
            (lt_of_lt_of_le hl h12)
        · split
          · split
            · rename_i q hq
              exact queueSound_of_types (mergeInto_types hq) h
            · exact h
          · exact h
      · exact h

/-! ### Withdrawing, sending, returning (R176, R177, R184) -/

@[simp] theorem Bus.countGivenUp_queue (b : Bus) (f : Frame) : (b.countGivenUp f).queue = b.queue := by
  unfold Bus.countGivenUp; split <;> rfl

theorem Bus.withdrawParcels_sound (b : Bus) (h : queueSound b.queue) : queueSound b.withdrawParcels.queue :=
  queueSound_sublist List.filter_sublist h

theorem Bus.withdrawClaim_sound (b : Bus) (t : Nat) (h : queueSound b.queue) :
    queueSound (b.withdrawClaim t).queue := queueSound_sublist List.filter_sublist h

theorem Bus.begin_sound (b : Bus) (h : queueSound b.queue) : queueSound b.begin.queue := by
  unfold Bus.begin
  split
  · rename_i f rest hq
    rw [hq] at h
    exact queueSound_sublist (List.sublist_cons_self f rest) h
  · exact h

theorem Bus.takeBack_sound (b : Bus) (f : Frame) (h : queueSound b.queue) :
    queueSound (b.takeBack f).bus.queue := by
  unfold Bus.takeBack
  split
  · exact h
  · rename_i hr
    have hr : b.queue.any (sameRenewable f.body) = false := by simpa using hr
    split
    · rename_i hn
      exact queueSound_insert h hr (by simp only [length_requeue]; exact hn) (ordered_requeue f _ h.2.1)
        fun ty => le_of_eq (waitingOf_requeue ty f _)
    · split
      · have h12 := h.1
        refine queueSound_insert h hr (by simp; omega) ?_ fun ty => ?_
        · have := ordered_requeue f _ h.2.1
          rw [ordered_iff] at *
          exact this.sublist (List.dropLast_sublist _)
        · exact le_trans (List.dropLast_sublist _).countP_le (le_of_eq (waitingOf_requeue ty f _))
      · exact h

theorem Bus.collide_sound (b : Bus) (x : InFlight) (asm : Assembler) (h : queueSound b.queue) :
    queueSound (b.collide x asm).bus.queue := by
  unfold Bus.collide
  simp only
  split
  · split <;> exact h
  · split
    · exact Bus.takeBack_sound _ _ h
    · exact h

/-! ### Receiving leaves the queue alone (R171) -/

@[simp] theorem Bus.countError_queue (b : Bus) (e : Bool) : (b.countError e).queue = b.queue := by
  unfold Bus.countError; split <;> rfl

@[simp] theorem Bus.takeChar_queue (b : Bus) (c : RxChar) : (b.takeChar c).queue = b.queue := by
  simp [Bus.takeChar]

@[simp] theorem Bus.takeRun_queue (b : Bus) (run : List RxChar) : (b.takeRun run).queue = b.queue := by
  unfold Bus.takeRun
  induction run generalizing b with
  | nil => rfl
  | cons c run ih => simp [ih]

@[simp] theorem Bus.takeQuiet_queue (b : Bus) : b.takeQuiet.queue = b.queue := by simp [Bus.takeQuiet]

end Sys2Proof.Machine
end

