-- ==== Sys2Proof/Laws/LampEvents.lean ====
section
/-! SUPPORT. What a lamp event reads (R89, R108, R128): two states that show the sequencer, the link and the setpoint the
same end it alike. Provers of `EndsAsLampEvent` cite `SameForLamps.ends`. -/

namespace Sys2Proof.Machine

/-- `u` shows the sequencer, the link and the setpoint what `s` shows them: the one list of what a lamp event reads. -/
structure SameForLamps (s u : State) : Prop where
  mode : u.ctl.mode = s.ctl.mode
  cfg  : u.ldr.cfg = s.ldr.cfg
  seq  : u.seq = s.seq
  link : u.link = s.link
  fReq : u.pln.fReq = s.pln.fReq
  uvt  : u.pln.uvt = s.pln.uvt

theorem SameForLamps.setSeq {s u : State} (h : SameForLamps s u) (q : Sequencer) :
    SameForLamps (s.setSeq q) (u.setSeq q) := ⟨h.1, h.2, rfl, h.4, h.5, h.6⟩

theorem SameForLamps.setLink {s u : State} (h : SameForLamps s u) (l : Link) :
    SameForLamps (s.setLink l) (u.setLink l) := ⟨h.1, h.2, h.3, rfl, h.5, h.6⟩

theorem SameForLamps.fluenceOf {s u : State} (h : SameForLamps s u) (n : Nat) : fluenceOf u n = fluenceOf s n := by
  simp [Machine.fluenceOf, gFactor, uvtValue, h.cfg, h.uvt]

theorem SameForLamps.fMax {s u : State} (h : SameForLamps s u) : fMax u = fMax s := by
  simp [Machine.fMax, h.fluenceOf, h.seq]

theorem SameForLamps.fMin {s u : State} (h : SameForLamps s u) : fMin u = fMin s := by
  simp [Machine.fMin, h.fMax, gFactor, uvtValue, h.cfg, h.uvt, h.seq]

theorem SameForLamps.refreshSetpoint {s u : State} (h : SameForLamps s u) :
    SameForLamps (refreshSetpoint s) (refreshSetpoint u) := by
  unfold Machine.refreshSetpoint
  rw [h.mode, h.fMax, h.fMin]
  split <;> first | exact h | exact ⟨h.1, h.2, h.3, h.4, rfl, h.6⟩

theorem SameForLamps.judgeStrike {s u : State} (h : SameForLamps s u) :
    SameForLamps (judgeStrike s) (judgeStrike u) := by
  have h1 : strikeRule u = strikeRule s := by
    rw [strikeRule, strikeRule, fCommitted, fCommitted, h.fluenceOf, h.seq, h.fReq, h.cfg]
  have h2 : strikeChoice u = strikeChoice s := by
    have : ∀ l, ballastWarm u l = ballastWarm s l := by intro l; rw [ballastWarm, ballastWarm, ballastClass, ballastClass, h.link]
    simp [strikeChoice, h.seq, funext this]
  unfold Machine.judgeStrike
  rw [h1, h2]
  split
  · split
    · unfold strikeLamp mapLamp setLamps
      rw [h.seq]; exact (h.setSeq _).setSeq _
    · exact h
  · exact h

theorem SameForLamps.judgeLamps {s u : State} (h : SameForLamps s u) :
    SameForLamps (judgeLamps s) (judgeLamps u) := by
  unfold Machine.judgeLamps
  rw [linkRuns, linkRuns, h.link, h.mode]
  split
  · have h1 := h.judgeStrike
    have h2 : SameForLamps (judgeHoldoff (Machine.judgeStrike s)) (judgeHoldoff (Machine.judgeStrike u)) := by
      have : extinguishHolds (Machine.judgeStrike u) = extinguishHolds (Machine.judgeStrike s) := by
        rw [extinguishHolds, extinguishHolds, fLitFull, fLitFull, h1.fluenceOf, h1.seq, h1.fReq, h1.cfg]
      unfold judgeHoldoff; rw [this, h1.seq]; exact h1.setSeq _
    have : levelFor (judgeHoldoff (Machine.judgeStrike u)) = levelFor (judgeHoldoff (Machine.judgeStrike s)) := by
      rw [levelFor, levelFor, fLitFull, fLitFull, h2.fluenceOf, h2.seq, h2.fReq]
    unfold judgeLevel; rw [this, h2.seq]; exact h2.setSeq _
  · exact h

theorem SameForLamps.beginVisit {s u : State} (h : SameForLamps s u) (b : Nat) :
    SameForLamps (beginVisit s b) (beginVisit u b) := by
  simp only [Machine.beginVisit, visitOf, slotHalf, lampAt, h.seq, h.link]; exact h.setLink _

theorem SameForLamps.visitCursor {s u : State} (h : SameForLamps s u) :
    SameForLamps (visitCursor s) (visitCursor u) := by
  have := h.beginVisit s.link.cursor
  simp only [Machine.visitCursor, h.link, this.link]; exact this.setLink _

theorem SameForLamps.pump {s u : State} (h : SameForLamps s u) : SameForLamps (pump s) (pump u) := by
  have hb : SameForLamps (s.setLink s.link.beginCycle) (u.setLink u.link.beginCycle) := by
    rw [h.link]; exact h.setLink _
  have hi : SameForLamps (if !s.link.cycleRunning && s.link.cycleDue then s.setLink s.link.beginCycle else s)
      (if !u.link.cycleRunning && u.link.cycleDue then u.setLink u.link.beginCycle else u) := by
    rw [h.link]; split
    · exact h.setLink _
    · exact h
  unfold Machine.pump
  generalize (if !s.link.cycleRunning && s.link.cycleDue then s.setLink s.link.beginCycle else s) = x at hi
  generalize (if !u.link.cycleRunning && u.link.cycleDue then u.setLink u.link.beginCycle else u) = y at hi
  simp only [h.link, hi.link]
  split
  · split
    · exact (hi.setLink _).beginVisit _
    · split
      · split
        · exact hi.visitCursor
        · split
          · exact (hi.setLink _).visitCursor
          · exact hi.setLink _
      · exact hi
  · exact h

theorem SameForLamps.lampEvent {s u : State} (h : SameForLamps s u) : SameForLamps (lampEvent s) (lampEvent u) :=
  h.refreshSetpoint.judgeLamps.pump
/-- The one lemma for `EndsAsLampEvent`: an event that closes with a lamp event ends as that of any state that shows the
lamps the same. -/
theorem SameForLamps.ends {u x : State} (h : SameForLamps u x) : EndsAsLampEvent u (Machine.lampEvent x) :=
  ⟨h.lampEvent.seq, h.lampEvent.link, h.lampEvent.fReq⟩

/-- Outside DOSING and HOLD a lamp event sets F_req itself (R89). -/
theorem lampEvent_setReq (s : State) (v : Nat) (h : s.ctl.mode.doses = false) :
    lampEvent (s.setPln { s.pln with fReq := v }) = lampEvent s := by
  have : refreshSetpoint (s.setPln { s.pln with fReq := v }) = refreshSetpoint s := by
    unfold refreshSetpoint
    cases hm : s.ctl.mode <;> simp_all [BankMode.doses] <;> rfl
  simp only [lampEvent, this]

end Sys2Proof.Machine
end

