-- ==== Sys2Proof/Laws/LampTable.lean ====
section
/-! SUPPORT. Every operation of the blocks keeps the lamp table sound: 24 records in order, and FAILED and LOCKED
lamps asking for OFF (R93, R95): one lemma each. -/

namespace Sys2Proof.Machine

/-- An operation that leaves the lamp records alone keeps the table sound. -/
theorem lampsInv_of_lamps {s t : State} (h : LampsInv s) (e : t.seq.lamps = s.seq.lamps) : LampsInv t := by
  unfold LampsInv at *; rw [e]; exact h

/-- A change of one record that is allowed everywhere: the index stays and the slot half stays sound. -/
def Lamp.Allowed (f : Lamp → Lamp) : Prop :=
  ∀ l, (f l).index = l.index ∧ (l.slotSound = true → (f l).slotSound = true)

theorem lampsInv_map {s t : State} (f : Lamp → Lamp) (hf : Lamp.Allowed f) (h : LampsInv s)
    (e : t.seq.lamps = s.seq.lamps.map f) : LampsInv t := by
  obtain ⟨h1, h2⟩ := h
  refine ⟨?_, ?_⟩
  · rw [e, List.map_map, ← h1]
    exact List.map_congr_left fun l _ => (hf l).1
  · rw [e, List.all_map]
    rw [List.all_eq_true] at h2 ⊢
    exact fun l hl => (hf l).2 (h2 l hl)

theorem Lamp.allowed_ite (p : Lamp → Bool) (f : Lamp → Lamp) (hf : Lamp.Allowed f) :
    Lamp.Allowed fun l => if p l then f l else l := by
  intro l; beta_reduce; split
  · exact hf l
  · exact ⟨rfl, id⟩

/-! ### One record -/

theorem Lamp.slotSound_enter (fs : Bool) (level : Nat) (st : LampState) (l : Lamp) :
    (l.enter fs level st).slotSound = true := by
  cases st <;> simp [Lamp.enter, Lamp.slotSound, slotFor]

theorem Lamp.slotSound_of_service (l : Lamp) (h : l.outOfService = false) : l.slotSound = true := by
  simp [Lamp.slotSound, Lamp.outOfService] at *; simp [h]

theorem Lamp.allowed_enter (fs : Bool) (level : Nat) (st : LampState) : Lamp.Allowed (Lamp.enter fs level st) :=
  fun l => ⟨rfl, fun _ => l.slotSound_enter fs level st⟩

theorem Lamp.allowed_fail (c : FailCause) : Lamp.Allowed (Lamp.fail c) :=
  fun _ => ⟨rfl, fun _ => by simp [Lamp.fail, Lamp.slotSound]⟩

theorem Lamp.allowed_strike : Lamp.Allowed Lamp.strike :=
  fun _ => ⟨rfl, fun _ => by simp [Lamp.strike, Lamp.slotSound]⟩

theorem Lamp.allowed_nextAttempt : Lamp.Allowed Lamp.nextAttempt :=
  fun _ => ⟨rfl, id⟩

theorem Lamp.allowed_cleared (e : Nat) : Lamp.Allowed (Lamp.cleared e) :=
  fun _ => ⟨rfl, fun _ => by simp [Lamp.cleared, Lamp.enter, Lamp.slotSound]⟩

theorem Lamp.allowed_afterReset : Lamp.Allowed Lamp.afterReset :=
  fun _ => ⟨rfl, fun _ => by simp [Lamp.afterReset, Lamp.fresh, Lamp.slotSound]⟩

theorem takeStatus_allowed (level : Nat) (st : LampStatus) : Lamp.Allowed fun l => takeStatus level l st := by
  intro l
  beta_reduce
  unfold takeStatus
  split <;> first
    | exact ⟨rfl, id⟩
    | exact Lamp.allowed_enter _ _ _ l
    | exact Lamp.allowed_fail _ l

theorem takeStatusFailsafe_allowed (st : LampStatus) : Lamp.Allowed fun l => takeStatusFailsafe l st := by
  intro l
  beta_reduce
  unfold takeStatusFailsafe
  split <;> first
    | exact ⟨rfl, id⟩
    | exact Lamp.allowed_enter _ _ _ l
    | exact Lamp.allowed_fail _ l

/-! ### The sequencer -/

theorem mapLamp_lamps (s : State) (i : Nat) (f : Lamp → Lamp) (hf : Lamp.Allowed f) (h : LampsInv s) :
    LampsInv (mapLamp s i f) := by
  refine lampsInv_map (fun l => if l.index = i then f l else l) ?_ h rfl
  have := Lamp.allowed_ite (fun l => decide (l.index = i)) f hf
  simpa using this

theorem mapLamps_lamps (s : State) (p : Lamp → Bool) (f : Lamp → Lamp) (hf : Lamp.Allowed f) (h : LampsInv s) :
    LampsInv (mapLamps s p f) :=
  lampsInv_map (fun l => if p l then f l else l) (Lamp.allowed_ite p f hf) h rfl

theorem enterLamp_lamps (s : State) (i : Nat) (st : LampState) (h : LampsInv s) : LampsInv (enterLamp s i st) :=
  mapLamp_lamps _ _ _ (Lamp.allowed_enter _ _ _) h

theorem failLamp_lamps (s : State) (i : Nat) (c : FailCause) (h : LampsInv s) : LampsInv (failLamp s i c) :=
  lampsInv_of_lamps (mapLamp_lamps s i _ (Lamp.allowed_fail c) h) (by simp [failLamp])

theorem failBallast_lamps (s : State) (b : Nat) (c : FailCause) (h : LampsInv s) : LampsInv (failBallast s b c) := by
  unfold failBallast; split
  · exact lampsInv_of_lamps (mapLamps_lamps s (failsWithBallast b) _ (Lamp.allowed_fail c) h) (by simp)
  · exact h

theorem judgeStrike_lamps (s : State) (h : LampsInv s) : LampsInv (judgeStrike s) := by
  unfold judgeStrike; split <;> [split; skip]
  · rename_i l _
    exact lampsInv_of_lamps (mapLamp_lamps s l.index _ Lamp.allowed_strike h) (by simp [strikeLamp])
  · exact h
  · exact h

theorem judgeLevel_lamps (s : State) (h : LampsInv s) : LampsInv (judgeLevel s) := by
  refine lampsInv_map (fun l => if l.isLit then { l with slot := ⟨.on, levelFor s⟩ } else l) ?_ h rfl
  intro l
  beta_reduce
  by_cases hl : l.state = .lit <;> simp [Lamp.isLit, Lamp.slotSound, hl]

theorem judgeLamps_lamps (s : State) (h : LampsInv s) : LampsInv (judgeLamps s) := by
  unfold judgeLamps; split
  · exact judgeLevel_lamps _ (lampsInv_of_lamps (judgeStrike_lamps s h) (by simp [judgeHoldoff]))
  · exact h

theorem lampEvent_lamps (s : State) (h : LampsInv s) : LampsInv (lampEvent s) := by
  unfold lampEvent
  exact lampsInv_of_lamps (judgeLamps_lamps (refreshSetpoint s) (lampsInv_of_lamps h (by simp))) (by simp)

/-- The record at index `i` of a sound table has that index. -/
theorem lampAt_index (s : State) (i : Nat) (l : Lamp) (h : lampAt s i = some l) : l.index = i ∧ l ∈ s.seq.lamps := by
  unfold lampAt at h
  exact ⟨by simpa using List.find?_some h, List.mem_of_find?_eq_some h⟩

/-- Two records of a sound table with one index are one record. -/
theorem lampsInv_unique (s : State) (h : LampsInv s) (l g : Lamp) (hl : l ∈ s.seq.lamps) (hg : g ∈ s.seq.lamps)
    (e : l.index = g.index) : l = g := by
  have hn : (s.seq.lamps.map (·.index)).Nodup := by rw [h.1]; decide
  exact List.inj_on_of_nodup_map hn hl hg e

theorem statusEvent_lamps (s : State) (i : Nat) (st : LampStatus) (h : LampsInv s) :
    LampsInv (statusEvent s i st) := by
  unfold statusEvent
  split
  · rename_i l hl
    split
    · obtain ⟨hi, hm⟩ := lampAt_index s i l hl
      have hs : l.slotSound = true := List.all_eq_true.1 h.2 l hm
      have key : ∀ l' : Lamp, l'.index = l.index → l'.slotSound = true → LampsInv (mapLamp s i fun _ => l') := by
        intro l' h1 h2
        refine ⟨?_, ?_⟩
        · show (s.seq.lamps.map _).map _ = _
          rw [List.map_map, ← h.1]
          refine List.map_congr_left fun g hg => ?_
          simp only [Function.comp]
          split
          · rename_i hgi; rw [h1, hi, hgi]
          · rfl
        · show (s.seq.lamps.map _).all _ = true
          rw [List.all_map, List.all_eq_true]
          intro g hg
          simp only [Function.comp]
          split
          · exact h2
          · exact List.all_eq_true.1 h.2 g hg
      have both : ∀ l' : Lamp, l'.index = l.index → l'.slotSound = true →
          LampsInv (if l'.state = .failed ∧ l.state ≠ .failed then
            requestUrgent (mapLamp s i fun _ => l') (ballastOf i) else mapLamp s i fun _ => l') := by
        intro l' h1 h2
        split
        · exact lampsInv_of_lamps (key l' h1 h2) (by simp)
        · exact key l' h1 h2
      simp only
      split
      · exact both _ (takeStatusFailsafe_allowed st l).1 ((takeStatusFailsafe_allowed st l).2 hs)
      · exact both _ (takeStatus_allowed _ st l).1 ((takeStatus_allowed _ st l).2 hs)
    · exact h
  · exact h

theorem replyEvent_lamps (s : State) (b : Nat) (r : BallastReply) (h : LampsInv s) : LampsInv (replyEvent s b r) := by
  unfold replyEvent
  simp only
  split
  · exact statusEvent_lamps _ _ _ (statusEvent_lamps _ _ _ (failBallast_lamps _ _ _ h))
  · exact statusEvent_lamps _ _ _ (statusEvent_lamps _ _ _ h)

theorem builtLamp_allowed (s : State) (fs : List (Option BallastReply)) (level : Nat) :
    Lamp.Allowed (builtLamp s fs level) := by
  intro l
  refine ⟨rfl, fun _ => ?_⟩
  unfold builtLamp Lamp.slotSound
  generalize lampFinding s fs l = x
  obtain ⟨st, c⟩ := x
  cases st <;> cases l.fitted <;> simp [slotFor]

theorem advanceReadback_lamps (s : State) (fs : List (Option BallastReply)) (h : LampsInv s) :
    LampsInv (advanceReadback s fs) := by
  unfold advanceReadback; split
  · exact lampsInv_of_lamps h (by simp)
  · unfold completeReadback
    simp only
    refine lampEvent_lamps _ (lampsInv_map (builtLamp s fs (readbackLevel s fs)) (builtLamp_allowed _ _ _) h ?_)
    simp

/-! ### Blocks that reach the sequencer -/

theorem enterIsolated_lamps (s : State) (h : LampsInv s) : LampsInv (enterIsolated s) := by
  unfold enterIsolated
  exact lampEvent_lamps _ (lampsInv_of_lamps h (by simp))

theorem settle_lamps (s : State) (h : LampsInv s) : LampsInv (settle s) := by
  have hj : LampsInv (judgeRoster s) := lampsInv_of_lamps h (by simp)
  unfold settle
  generalize judgeRoster s = u at *
  simp only
  split <;> (try split)
  all_goals first
    | exact hj
    | exact enterIsolated_lamps _ hj

theorem followHold_lamps (s : State) (h : LampsInv s) : LampsInv (followHold s) := by
  unfold followHold; split <;> (try split)
  all_goals first
    | exact h
    | exact settle_lamps _ (lampsInv_of_lamps h (by simp))

theorem flowChanged_lamps (s : State) (h : LampsInv s) : LampsInv (flowChanged s) :=
  followHold_lamps _ (lampsInv_of_lamps h (by simp))

theorem learnSource_lamps (s : State) (a : Src) (h : LampsInv s) : LampsInv (learnSource s a) :=
  settle_lamps _ (lampsInv_of_lamps h (by simp))

theorem fitLamps_lamps (s : State) (m : BitVec 24) (e : Nat) (h : LampsInv s) : LampsInv (fitLamps s m e) :=
  lampsInv_map (fun l => { l with fitted := m.getLsbD (l.index - 1), e := e }) (fun _ => ⟨rfl, id⟩) h rfl

theorem enterFailsafe_lamps (s : State) (c : LoadFailure) (h : LampsInv s) : LampsInv (enterFailsafe s c) := by
  unfold enterFailsafe
  simp only
  refine settle_lamps _ (lampsInv_of_lamps (fitLamps_lamps (startAccrual (addSelf _)) _ _
    (lampsInv_of_lamps h ?_)) (by simp; rfl))
  simp

theorem enterListen_lamps (s : State) (c : ImageCfg) (d : Digest) (h : LampsInv s) :
    LampsInv (enterListen s c d) := by
  unfold enterListen
  simp only
  refine lampEvent_lamps _ (settle_lamps _ (lampsInv_of_lamps (fitLamps_lamps (startAccrual (addSelf _)) _ _
    (lampsInv_of_lamps h ?_)) (by simp; rfl)))
  simp

theorem listenOver_lamps (s : State) (h : LampsInv s) : LampsInv (listenOver s) := by
  unfold listenOver
  simp only
  split
  · exact enterIsolated_lamps _ (lampsInv_of_lamps h (by simp))
  · exact lampEvent_lamps _ (lampsInv_of_lamps h (by simp))

theorem closeExpiry_lamps (s : State) (q : Nat) (h : LampsInv s) : LampsInv (closeExpiry s q) := by
  unfold closeExpiry
  exact lampsInv_of_lamps (lampEvent_lamps (computeSetpoint (computePlan s q) q) (lampsInv_of_lamps h (by simp)))
    (by simp)

theorem learnModule_lamps (s : State) (m : Nat) (h : LampsInv s) : LampsInv (learnModule s m) := by
  unfold learnModule; split
  · exact mapLamps_lamps _ _ _ (fun _ => ⟨rfl, id⟩) h
  · exact h

theorem stepLearn_lamps (s : State) (h : LampsInv s) : LampsInv (stepLearn s) := by
  unfold stepLearn
  generalize modules s = ms
  induction ms generalizing s with
  | nil => exact h
  | cons m ms ih => exact ih _ (learnModule_lamps s m h)

theorem completeScan_lamps (s : State) (raw : List (BitVec 10)) (d : Bool) (h : LampsInv s) :
    LampsInv (completeScan s raw d) := by
  have hf : ∀ (s : State) b, LampsInv s → LampsInv (stepFouling s b raw) := by
    intro s b h; exact lampsInv_of_lamps h (by simp)
  have hw : ∀ (s : State) o, LampsInv s → LampsInv (handFlow s o) := by
    intro s o h; unfold handFlow; split
    · exact flowChanged_lamps _ (lampsInv_of_lamps h (by simp))
    · exact h
  have hu : ∀ (s : State) o, LampsInv s → LampsInv (handUvt s o) := by
    intro s o h; exact lampsInv_of_lamps h (by simp)
  have he : ∀ s : State, LampsInv s → LampsInv (endScan s) := by
    intro s h; exact lampsInv_of_lamps h (by simp)
  have h0 : LampsInv (stepLearn (stepSamples s raw)) := stepLearn_lamps _ (lampsInv_of_lamps h (by simp))
  have h1 : LampsInv (stepPublish (stepLearn (stepSamples s raw))) := lampsInv_of_lamps h0 (by simp)
  exact lampEvent_lamps _ (he _ (hu _ _ (hw _ _ (hf _ _ h1))))

theorem clearLamps_lamps (s : State) (i : Nat) (h : LampsInv s) : LampsInv (clearLamps s i) :=
  lampEvent_lamps _ (mapLamps_lamps _ _ _ (Lamp.allowed_cleared _) h)

/-! ### Events -/

theorem takeReset_lamps (s : State) (k : ResetHold) (h : LampsInv s) : LampsInv (takeReset s k) :=
  lampsInv_map Lamp.afterReset Lamp.allowed_afterReset h rfl

theorem closeRestart_lamps (s : State) (h : LampsInv s) : LampsInv (closeRestart s) := by
  unfold closeRestart; split
  · exact takeReset_lamps _ _ h
  · exact h

theorem outsideReset_lamps (s : State) (f : State → State) (h : LampsInv s) (hf : LampsInv s → LampsInv (f s)) :
    LampsInv (outsideReset s f) := by
  unfold outsideReset; split
  · exact h
  · exact hf h

theorem event_lamps (s : State) (f : State → State) (h : LampsInv s) (hf : LampsInv s → LampsInv (f s)) :
    LampsInv (event s f) := outsideReset_lamps _ _ h fun h => closeRestart_lamps _ (hf h)

theorem frameEvent_lamps (s : State) (f : State → State) (h : LampsInv s)
    (hf : ∀ t, LampsInv t → LampsInv (f t)) : LampsInv (frameEvent s f) := by
  refine event_lamps _ _ h fun h => ?_
  have h' : LampsInv (s.setBus s.bus.frameTaken) := lampsInv_of_lamps h (by simp)
  simp only; split
  · exact h'
  · exact hf _ h'

theorem commandEvent_lamps (s : State) (a : Src) (b : CommandBody) (f : State → State) (h : LampsInv s)
    (hf : ∀ t, LampsInv t → LampsInv (f t)) : LampsInv (commandEvent s a b f) := by
  refine frameEvent_lamps _ _ h fun t h => ?_
  have h' := learnSource_lamps t a h
  simp only; split
  · exact hf _ (lampsInv_of_lamps h' (by simp))
  · exact lampsInv_of_lamps h' (by simp)

end Sys2Proof.Machine
end

