-- ==== Sys2Proof/Laws/ReadBack.lean ====
section
/-! SUPPORT. The characters of a frame, and what the assembler makes of those read back (R170, R171, R176). -/

namespace Sys2Proof.Machine

/-- The characters read back agree with those sent up to the last, which differs (R176). -/
theorem differsLast_iff (sent read : List (BitVec 11)) :
    differsLast sent read = true ↔ ∃ k u r, sent[k]? = some u ∧ r ≠ u ∧ read = sent.take k ++ [r] := by
  induction sent generalizing read with
  | nil => cases read <;> simp [differsLast]
  | cons s sent ih =>
    match read with
    | [] => simp [differsLast]
    | [r] =>
      simp only [differsLast, decide_eq_true_eq]
      constructor
      · intro h; exact ⟨0, s, r, rfl, h, rfl⟩
      · rintro ⟨k, u, r', hk, hn, he⟩
        cases k with
        | zero => simp at hk he; subst hk he; exact hn
        | succ k => simp at he
    | r :: r2 :: rest =>
      simp only [differsLast, Bool.and_eq_true, decide_eq_true_eq, ih]
      constructor
      · rintro ⟨rfl, k, u, r', hk, hn, he⟩
        exact ⟨k + 1, u, r', by simpa using hk, hn, by simp [he]⟩
      · rintro ⟨k, u, r', hk, hn, he⟩
        cases k with
        | zero => simp at he
        | succ k =>
          simp only [List.take_succ_cons, List.cons_append, List.cons.injEq] at he
          exact ⟨he.1, k, u, r', by simpa using hk, hn, he.2⟩

/-- The start bit, the byte, the mark and the stop bit of a character as sent (R170). -/
theorem lineChar_parts (m : Bool) (b : Byte) :
    (lineChar m b).getLsbD 0 = false ∧ (lineChar m b).extractLsb' 1 8 = b ∧ (lineChar m b).getLsbD 9 = m ∧
      (lineChar m b).getLsbD 10 = true := by
  revert m b; decide +kernel

theorem lineChar_bits (m : Bool) (b : Byte) : (List.range 11).map (lineChar m b).getLsbD = charBits m b := by
  revert m b; decide +kernel

theorem lineChars_length (bytes : List Byte) : (lineChars bytes).length = bytes.length := by
  cases bytes <;> simp [lineChars]

theorem lineChars_flat (bytes : List Byte) :
    (lineChars bytes).flatMap (fun c => (List.range 11).map c.getLsbD) = lineBits bytes := by
  cases bytes with
  | nil => rfl
  | cons b rest =>
    simp only [lineChars, lineBits, List.flatMap_cons, lineChar_bits, List.flatMap_map]

/-- One character read back, and the rest (R171). -/
theorem Assembler.takeReadBack_cons (a : Assembler) (c : BitVec 11) (rest : List (BitVec 11)) :
    a.takeReadBack (c :: rest) =
      (if c.getLsbD 0 then a else (a.take true (readBackChar c)).1).takeReadBack rest := by
  unfold Assembler.takeReadBack
  cases h : c.getLsbD 0 <;> simp only [List.filter_cons, h] <;> rfl

theorem Assembler.takeReadBack_append (a : Assembler) (x y : List (BitVec 11)) :
    a.takeReadBack (x ++ y) = (a.takeReadBack x).takeReadBack y := by
  unfold Assembler.takeReadBack; rw [List.filter_append, List.foldl_append]

theorem Assembler.takeReadBack_rest (chars bytes : List Byte) (h : chars.length + bytes.length ≤ 53) :
    (⟨.inFrame, chars, true⟩ : Assembler).takeReadBack (bytes.map (lineChar false)) =
      ⟨.inFrame, chars ++ bytes, true⟩ := by
  induction bytes generalizing chars with
  | nil => simp [Assembler.takeReadBack]
  | cons b rest ih =>
    obtain ⟨h0, h1, h9, h10⟩ := lineChar_parts false b
    simp only [List.length_cons] at h
    rw [List.map_cons, Assembler.takeReadBack_cons]
    have hl : ¬ 53 ≤ chars.length := by omega
    simp only [h0, Assembler.take, readBackChar, h1, h9, h10]
    simp [hl]
    rw [ih]
    · simp
    · simp; omega

/-- Characters read back as sent, from IDLE, stand collected as the bank's own (R171). -/
theorem Assembler.takeReadBack_sent (bytes : List Byte) (k : Nat) (hk : k ≤ bytes.length) (h53 : k ≤ 53) :
    (⟨.idle, [], false⟩ : Assembler).takeReadBack ((lineChars bytes).take k) =
      if k = 0 then ⟨.idle, [], false⟩ else ⟨.inFrame, bytes.take k, true⟩ := by
  cases k with
  | zero => simp [Assembler.takeReadBack]
  | succ k =>
    cases bytes with
    | nil => simp at hk
    | cons b rest =>
      obtain ⟨h0, h1, h9, h10⟩ := lineChar_parts true b
      simp only [lineChars, List.take_succ_cons]
      rw [Assembler.takeReadBack_cons]
      simp only [h0, Assembler.take, readBackChar, h1, h9, h10]
      simp only [← List.map_take]
      rw [if_neg (by simp)]
      simp only [Bool.and_self, if_true]
      rw [Assembler.takeReadBack_rest]
      · simp
      · simp at hk ⊢; omega

end Sys2Proof.Machine
end

