-- ==== Sys2Proof/Laws/Reset.lean ====
section
/-! SUPPORT. The supply monitor and the holding in reset: what a voltage read does, what each reset command does, and
that the operations keep `ResetInv` (R194, R195). -/

namespace Sys2Proof.Machine

/-! ### One level with its hysteresis -/

theorem standsBelow_eq (level : Nat) (stood : Bool) (mv : Nat) :
    standsBelow level stood mv = decide (mv < level ∨ stood = true ∧ mv ≤ level + 50) := by
  unfold standsBelow; cases stood <;> simp; omega

/-- Within the 50 mV a level stands as it stood. -/
theorem standsBelow_band {level mv : Nat} (stood : Bool) (h : level ≤ mv) (g : mv ≤ level + 50) :
    standsBelow level stood mv = stood := by
  unfold standsBelow; cases stood <;> simp <;> omega

/-- The monitor's judgement, as the statements say it. -/
theorem judge_eq_supplyAt (m : SupplyMonitor) (mv : Nat) : m.judge mv = supplyAt m mv := by
  simp [SupplyMonitor.judge, supplyAt, standsBelow_eq]

/-- A supply below the retention level is below the reset level. -/
theorem supplyAt_nested (m : SupplyMonitor) (mv : Nat) (h : (supplyAt m mv).belowRetention = true) :
    (supplyAt m mv).belowReset = true := by
  simp only [supplyAt, decide_eq_true_eq] at h ⊢; omega

/-! ### A voltage read -/

theorem takeSupply_of_held {s : State} (mv : Nat) (h : s.hold.held = true) : takeSupply s mv = supplyNoted s mv := by
  simp [takeSupply, h, judge_eq_supplyAt, supplyNoted, ResetHold.noteSupply]

theorem takeSupply_of_good {s : State} {mv : Nat} (h : s.hold.held = false)
    (hm : (supplyAt s.ldr.supply mv).belowReset = false) :
    takeSupply s mv = s.setLdr { s.ldr with supply := supplyAt s.ldr.supply mv } := by
  simp [takeSupply, h, judge_eq_supplyAt, hm]

theorem takeSupply_of_low {s : State} {mv : Nat} (h : s.hold.held = false)
    (hm : (supplyAt s.ldr.supply mv).belowReset = true) :
    takeSupply s mv = takeReset (s.setLdr { s.ldr with supply := supplyAt s.ldr.supply mv })
      (noHold.noteSupply (supplyAt s.ldr.supply mv)) := by
  simp [takeSupply, h, judge_eq_supplyAt, hm]

/-! ### A reset cause that ends -/

theorem causeStands_takeLevels {s : State} (p : ResetPins) (h : s.hold.held = true) :
    causeStands (takeLevels s p) =
      ((supplyAt s.ldr.supply p.supply).belowReset || (s.hold.resetnLow && !p.resetn)) := by
  simp [causeStands, takeLevels, takeSupply_of_held _ h, supplyNoted]

@[simp] theorem releaseWiper_keeps (s : State) (p : ResetPins) :
    (releaseWiper s p).pending = s.pending ∧ (releaseWiper s p).serial = s.serial ∧
      (releaseWiper s p).hold = s.hold ∧ (releaseWiper s p).ctl = s.ctl ∧ (releaseWiper s p).ldr = s.ldr ∧
      (releaseWiper s p).trk = s.trk ∧ (releaseWiper s p).ros = s.ros ∧ (releaseWiper s p).pln = s.pln ∧
      (releaseWiper s p).seq = s.seq ∧ (releaseWiper s p).link = s.link ∧ (releaseWiper s p).scn = s.scn := by
  unfold releaseWiper; simp only; split <;> simp

/-- Nothing is owed at the release, so its homing posts nothing. -/
@[simp] theorem releaseWiper_bus_cmd (s : State) (p : ResetPins) :
    (releaseWiper s p).bus = s.bus ∧ (releaseWiper s p).cmd = s.cmd := by
  simp only [releaseWiper, home, homed, State.setWip_wip, Bool.false_eq_true, if_false]; repeat' split
  all_goals simp

/-- The release changes five blocks and leaves nothing noted. -/
theorem releaseReset_keeps (s : State) (p : ResetPins) :
    (releaseReset s p).hold = noHold ∧ (releaseReset s p).ldr = { s.ldr with straps := latchStraps p } ∧
      (releaseReset s p).pending = s.pending ∧ (releaseReset s p).serial = s.serial ∧
      (releaseReset s p).trk = s.trk ∧ (releaseReset s p).ros = s.ros ∧ (releaseReset s p).pln = s.pln ∧
      (releaseReset s p).link = s.link ∧ (releaseReset s p).scn = s.scn ∧ (releaseReset s p).bus = s.bus ∧
      (releaseReset s p).cmd = s.cmd := by
  simp [releaseReset]

/-! ### The invariant of the reset -/

/-- What `ResetInv` reads. -/
structure SameReset (s t : State) : Prop where
  hold : t.hold = s.hold
  supply : t.ldr.supply = s.ldr.supply

theorem SameReset.inv {s t : State} (h : SameReset s t) (hs : ResetInv s) : ResetInv t := by
  unfold ResetInv; rw [h.hold, h.supply]; exact hs

/-- A reset taken with a cause noted, of a part whose supply stood good. -/
theorem takeReset_resetInv {s : State} {k : ResetHold} (hm : s.ldr.supply.belowReset = false)
    (hn : s.ldr.supply.belowRetention = true → s.ldr.supply.belowReset = true)
    (h1 : k.resetnLow = true → k.resetn = true) (h2 : k.restarting = true → k.restart = true)
    (h3 : k.belowReset = true ∨ k.resetn = true ∨ k.restart = true) : ResetInv (takeReset s k) := by
  have hr : s.ldr.supply.belowRetention = false := by
    cases h : s.ldr.supply.belowRetention
    · rfl
    · rw [hn h] at hm; exact absurd hm (by simp)
  simp [ResetInv, hm, hr]; exact ⟨h1, h2, h3⟩

theorem takeRestart_resetInv {s : State} (h : ResetInv s) (hh : s.hold.held = false) : ResetInv (takeRestart s) :=
  takeReset_resetInv (h.1 hh).2 h.2.1 (by simp [noHold]) (by simp) (by simp)

theorem closeRestart_resetInv {s : State} (h : ResetInv s) (hh : s.hold.held = false) : ResetInv (closeRestart s) := by
  unfold closeRestart; split
  · exact takeRestart_resetInv h hh
  · exact h

theorem outsideReset_resetInv {s : State} (f : State → State) (h : ResetInv s)
    (hf : s.hold.held = false → ResetInv (f s)) : ResetInv (outsideReset s f) := by
  unfold outsideReset; split
  · exact h
  · rename_i hh; exact hf (by simpa using hh)

/-- An event whose own effect leaves the reset as it is. -/
theorem event_resetInv {s : State} (f : State → State) (h : ResetInv s) (hf : SameReset s (f s)) :
    ResetInv (event s f) :=
  outsideReset_resetInv _ h fun hh => closeRestart_resetInv (hf.inv h) (by rw [hf.hold]; exact hh)

theorem takeSupply_resetInv {s : State} (mv : Nat) (h : ResetInv s) : ResetInv (takeSupply s mv) := by
  have hn := supplyAt_nested s.ldr.supply mv
  cases hh : s.hold.held
  · cases hm : (supplyAt s.ldr.supply mv).belowReset
    · rw [takeSupply_of_good hh hm]
      exact ⟨fun _ => ⟨(h.1 hh).1, hm⟩, hn, fun x => absurd (hh.symm.trans x) (by simp)⟩
    · rw [takeSupply_of_low hh hm]
      simp [ResetInv, ResetHold.noteSupply, noHold, hm]
  · rw [takeSupply_of_held _ hh]
    obtain ⟨a, b, c, d, e⟩ := h.2.2 hh
    refine ⟨fun x => absurd (hh.symm.trans x) (by simp), hn, fun _ => ⟨?_, ?_, c, d, ?_⟩⟩
    · simp +contextual [supplyNoted]
    · simp +contextual [supplyNoted]
    · rcases e with e | e | e <;> simp [supplyNoted, e]

theorem execResetnLow_resetInv {s t : State} {us : Nat} (h : ResetInv s) (ht : execResetnLow s us = .next t) :
    ResetInv t := by
  unfold execResetnLow at ht
  obtain rfl := Host.Outcome.next.inj ht
  refine onceStood_keeps h ?_
  split
  · rename_i hh
    obtain ⟨a, b, c, d, e⟩ := h.2.2 hh
    exact ⟨fun x => absurd (hh.symm.trans x) (by simp), h.2.1, fun _ => ⟨a, b, fun _ => rfl, d, .inr (.inl rfl)⟩⟩
  · rename_i hh
    have hh : s.hold.held = false := by simpa using hh
    exact takeReset_resetInv (h.1 hh).2 h.2.1 (fun _ => rfl) (by simp [noHold]) (.inr (.inl rfl))

theorem takeLevels_resetInv {s : State} (p : ResetPins) (h : ResetInv s) (hh : s.hold.held = true) :
    ResetInv (takeLevels s p) := by
  have hu := takeSupply_resetInv p.supply h
  have hv : (takeSupply s p.supply).hold.held = true := by rw [takeSupply_of_held _ hh]; exact hh
  have hr : s.hold.resetnLow = (takeSupply s p.supply).hold.resetnLow := by rw [takeSupply_of_held _ hh]; rfl
  obtain ⟨a, b, c, _, e⟩ := hu.2.2 hv
  refine ⟨fun x => absurd (hv.symm.trans x) (by simp), hu.2.1, fun _ => ⟨a, b, fun x => c ?_, fun x => ?_, e⟩⟩
  · have : ((takeSupply s p.supply).hold.resetnLow && !p.resetn) = true := x
    simp only [Bool.and_eq_true] at this; exact this.1
  · exact absurd x (by simp [takeLevels])

theorem execResetRelease_resetInv {s t : State} {p : ResetPins} (h : ResetInv s)
    (ht : execResetRelease p s = .next t) : ResetInv t := by
  unfold execResetRelease at ht
  obtain rfl := Host.Outcome.next.inj ht
  split
  · rename_i hh
    have hu := takeLevels_resetInv p h hh
    simp only
    split
    · exact hu
    · rename_i hc
      obtain ⟨h1, h2, _⟩ := releaseReset_keeps (takeLevels s p) p
      have hm : (takeLevels s p).ldr.supply.belowReset = false := by
        simp only [causeStands, Bool.or_eq_true, not_or, Bool.not_eq_true] at hc; exact hc.1.1
      refine ⟨fun _ => ⟨h1, by rw [h2]; exact hm⟩, by rw [h2]; exact hu.2.1, fun x => ?_⟩
      rw [h1] at x; exact absurd x (by simp [noHold])
  · exact h

end Sys2Proof.Machine
end

