-- ==== Sys2Proof/Laws/Settled.lean ====
section
/-! SUPPORT. The judgements are idempotent, a reason outlives the entry to ISOLATED, and the operations of the station
controller leave the station settled (StationInv): one lemma each. -/

namespace Sys2Proof.Machine

theorem reportsDosing_some (m : BankMode) : reportsDosing (some m) = m.doses := rfl

/-- A digest reason that stands in DOSING or HOLD stands in the modes that do not dose (R61). -/
theorem digestReason_outside (o o' : OwnView) (hc : o.chan = o'.chan) (hd : o.digest = o'.digest)
    (hm : o'.mode.doses = false) (es : List RosterEntry)
    (h : digestReasonStands o (referenceDigest o es) = true) :
    digestReasonStands o' (referenceDigest o' es) = true := by
  have hsub : ∀ e : RosterEntry, e.eligible o' = true → e.eligible o = true := by
    intro e he
    unfold RosterEntry.eligible RosterEntry.modeIn at *
    rw [hc]
    cases hs : e.isSelf
    · simpa [hs] using he
    · simp [hs, reportsDosing_some, hm] at he
  have hback : ∀ e : RosterEntry, e.isSelf = false → e.eligible o = true → e.eligible o' = true := by
    intro e hs he
    unfold RosterEntry.eligible RosterEntry.modeIn at *
    rw [← hc]; simpa [hs] using he
  have key : ∀ d, referenceDigest o es = some d → o.digest ≠ some d → referenceDigest o' es = some d := by
    intro d hr hne
    unfold referenceDigest at hr
    cases hmin : ((es.filter (RosterEntry.eligible o)).map (·.pos)).min? with
    | none => simp [hmin] at hr
    | some low =>
      simp only [hmin, Option.bind_eq_some_iff] at hr
      obtain ⟨e, hf, hdig⟩ := hr
      have hself : e.isSelf = false := by
        cases hs : e.isSelf
        · rfl
        · unfold RosterEntry.digestIn at hdig; rw [if_pos hs] at hdig; exact absurd hdig hne
      rw [List.find?_filter] at hf
      obtain ⟨hpe, as, bs, hes, has⟩ := List.find?_eq_some_iff_append.mp hf
      simp only [decide_eq_true_eq, beq_iff_eq] at hpe
      have he' := hback e hself hpe.1
      have hmem : e ∈ es := by rw [hes]; simp
      have hmin' : ((es.filter (RosterEntry.eligible o')).map (·.pos)).min? = some low := by
        rw [List.min?_eq_some_iff] at hmin ⊢
        refine ⟨?_, ?_⟩
        · rw [List.mem_map]; exact ⟨e, List.mem_filter.mpr ⟨hmem, he'⟩, hpe.2⟩
        · intro p hp
          rw [List.mem_map] at hp
          obtain ⟨g, hg, rfl⟩ := hp
          rw [List.mem_filter] at hg
          exact hmin.2 _ (List.mem_map.mpr ⟨g, List.mem_filter.mpr ⟨hg.1, hsub g hg.2⟩, rfl⟩)
      unfold referenceDigest
      simp only [hmin', Option.bind_eq_some_iff]
      refine ⟨e, ?_, ?_⟩
      · rw [List.find?_filter]
        refine List.find?_eq_some_iff_append.mpr ⟨?_, as, bs, hes, ?_⟩
        · simp [he', hpe.2]
        · intro x hx
          have := has x hx
          simp only [Bool.not_eq_true', decide_eq_false_iff_not] at this ⊢
          exact fun h => this ⟨hsub x h.1, h.2⟩
      · unfold RosterEntry.digestIn at *; simpa [hself] using hdig
  unfold digestReasonStands at h ⊢
  cases hr : referenceDigest o es with
  | none => simp [hr] at h
  | some a =>
    cases hdg : o.digest with
    | none => simp [hr, hdg] at h
    | some c =>
      simp only [hr, hdg, decide_eq_true_eq] at h
      have := key a hr (by rw [hdg]; simp; exact fun x => h x.symm)
      simp only [this, ← hd, hdg, decide_eq_true_eq]
      exact h

theorem judgeRoster_ros (s : State) : (judgeRoster s).ros = s.ros.judge (ownView s) := rfl

theorem judge_idem (o : OwnView) (r : Roster) : (r.judge o).judge o = r.judge o := by
  unfold Roster.judge; simp only [judgeConflicts_idem]

theorem ownView_judged (s : State) : ownView (judgeRoster s) = ownView s := rfl

/-- What `judgeRoster s = s` says, block by block. -/
theorem judged_iff (s : State) : judgeRoster s = s ↔ s.ros.judge (ownView s) = s.ros ∧
    s.ctl.positionReason = positionReasonStands s.ros.entries ∧
    s.ctl.digestReason = digestReasonStands (ownView s) s.ros.refDigest := by
  constructor
  · intro h
    have h1 : (judgeRoster s).ros = s.ros := by rw [h]
    have h2 : (judgeRoster s).ctl = s.ctl := by rw [h]
    rw [judgeRoster_ros] at h1
    refine ⟨h1, ?_, ?_⟩
    · rw [← h2]; simp [judgeRoster, h1]
    · rw [← h2]; simp [judgeRoster, h1]
  · rintro ⟨h1, h2, h3⟩
    unfold judgeRoster; simp only [h1, ← h2, ← h3]; rfl

/-- Judging twice is judging once (R59). -/
theorem judgeRoster_idem (s : State) : judgeRoster (judgeRoster s) = judgeRoster s :=
  (judged_iff _).mpr ⟨judge_idem (ownView s) s.ros, rfl, rfl⟩

/-- The station's part of a state: what StationInv and RosterInv read. -/
structure SameStation (s t : State) : Prop where
  held : t.hold.held = s.hold.held
  mode : t.ctl.mode = s.ctl.mode
  position : t.ctl.positionReason = s.ctl.positionReason
  digest : t.ctl.digestReason = s.ctl.digestReason
  ros : t.ros = s.ros
  straps : t.ldr.straps = s.ldr.straps
  image : t.ldr.digest = s.ldr.digest
  serial : t.serial = s.serial

theorem SameStation.view {s t : State} (h : SameStation s t) : ownView t = ownView s := by
  unfold ownView; rw [h.mode, h.straps, h.image]

theorem SameStation.station {s t : State} (h : SameStation s t) (hs : StationInv s) : StationInv t := by
  obtain ⟨h1, h2, h3, h4⟩ := hs
  unfold StationInv
  rw [judged_iff] at *
  rw [h.held, h.mode, h.position, h.digest, h.ros, h.view]
  exact ⟨h1, h2, h3, h4⟩

theorem SameStation.roster {s t : State} (h : SameStation s t) (hs : RosterInv s) : RosterInv t := by
  unfold RosterInv at *
  rw [h.held, h.mode, h.ros, h.straps, h.serial]
  exact hs

theorem sameStation_of_keeps {s t : State} (h1 : t.hold = s.hold) (h2 : t.ctl = s.ctl) (h3 : t.ros = s.ros)
    (h4 : t.ldr = s.ldr) (h5 : t.serial = s.serial) : SameStation s t :=
  ⟨by rw [h1], by rw [h2], by rw [h2], by rw [h2], h3, by rw [h4], by rw [h4], h5⟩

theorem SameStation.trans {s t u : State} (h : SameStation s t) (g : SameStation t u) : SameStation s u :=
  ⟨g.held.trans h.held, g.mode.trans h.mode, g.position.trans h.position, g.digest.trans h.digest,
    g.ros.trans h.ros, g.straps.trans h.straps, g.image.trans h.image, g.serial.trans h.serial⟩

/-! ### Settlement -/

/-- The entry to ISOLATED with a reason leaves the station settled (R67). -/
theorem enterIsolated_station (s : State) (hj : judgeRoster s = s) (hh : s.hold.held = false)
    (hr : reasonStands s = true) : StationInv (enterIsolated s) := by
  have hm : (enterIsolated s).ctl.mode = .isolated := by simp [enterIsolated, judgeRoster, setMode]
  obtain ⟨j1, j2, j3⟩ := (judged_iff s).mp hj
  have hv : ∃ v : State, SameStation (judgeRoster v) (enterIsolated s) ∧ v.ctl = { s.ctl with mode := .isolated } ∧
      v.ros.entries = s.ros.entries ∧ v.ldr = s.ldr := by
    obtain ⟨v, h0, h1, h2, h3⟩ : ∃ v : State, enterIsolated s = lampEvent (judgeRoster v) ∧
        v.ctl = { s.ctl with mode := .isolated } ∧ v.ros.entries = s.ros.entries ∧ v.ldr = s.ldr :=
      ⟨_, rfl, by simp [setMode], by simp [setMode], by simp [setMode]⟩
    exact ⟨v, by rw [h0]; exact sameStation_of_keeps (by simp) (by simp) (by simp) (by simp) (by simp), h1, h2, h3⟩
  obtain ⟨v, hsame, v1, v2, v3⟩ := hv
  refine ⟨fun h => absurd h (by simp [hh]), fun _ => ?_, ?_, fun _ => ?_⟩
  · rw [judged_iff]
    have := (judged_iff (judgeRoster v)).mp (judgeRoster_idem v)
    rw [hsame.ros, hsame.view, hsame.position, hsame.digest]; exact this
  · rw [hm]; simp
  · rw [hsame.position, hsame.digest]
    have he : judgeConflicts s.ros.entries = s.ros.entries := by
      have := congrArg Roster.entries j1; simpa [Roster.judge] using this
    have hp : (judgeRoster v).ctl.positionReason = s.ctl.positionReason := by
      rw [j2]; simp [judgeRoster, Roster.judge, v2, he]
    rw [hp]
    unfold reasonStands at hr
    cases hpos : s.ctl.positionReason
    · rw [hpos] at hr
      right
      have hd : s.ctl.digestReason = true := by simpa using hr
      rw [j3] at hd
      have href : s.ros.refDigest = referenceDigest (ownView s) s.ros.entries := by
        have := congrArg Roster.refDigest j1; simp [Roster.judge, he] at this; exact this.symm
      rw [href] at hd
      have := digestReason_outside (ownView s) (ownView v) (by simp [ownView, v3]) (by simp [ownView, v3])
        (by simp [ownView, v1, BankMode.doses]) _ hd
      simpa [judgeRoster, Roster.judge, v2, he] using this
    · left; rfl

/-- The entry to DOSING or HOLD with no reason leaves the station settled (R65, R68). -/
theorem enterDosing_station (s : State) (w : HeadWay) (hj : judgeRoster s = s) (hh : s.hold.held = false)
    (hd : s.ctl.mode.doses = false) (hr : reasonStands s = false) : StationInv (enterDosing s w) := by
  obtain ⟨j1, j2, j3⟩ := (judged_iff s).mp hj
  have he : judgeConflicts s.ros.entries = s.ros.entries := by
    have := congrArg Roster.entries j1; simpa [Roster.judge] using this
  have href : s.ros.refDigest = referenceDigest (ownView s) s.ros.entries := by
    have := congrArg Roster.refDigest j1; simp [Roster.judge, he] at this; exact this.symm
  generalize hu : startSourceTimers (setMode s (dosingMode s)) = u
  have u1 : u.ctl = { s.ctl with mode := dosingMode s } := by rw [← hu]; simp [setMode]
  have u2 : u.ros = s.ros := by rw [← hu]; simp
  have u3 : u.ldr = s.ldr := by rw [← hu]; simp
  have u4 : u.hold = s.hold := by rw [← hu]; simp
  have hdm : (dosingMode s).doses = true := by unfold dosingMode; split <;> rfl
  have hE : enterDosing s w = applyRole (judgeRoster u) w := by unfold enterDosing; rw [hu]
  have hc : (enterDosing s w).ctl = (judgeRoster u).ctl := by rw [hE]; simp
  have hmode : (enterDosing s w).ctl.mode = dosingMode s := by rw [hc]; simp [judgeRoster, u1]
  have hros : (enterDosing s w).ros = { (judgeRoster u).ros with
      role := roleOf (judgeRoster u).ros.up (judgeRoster u).ros.down } := by
    rw [hE]; unfold applyRole; simp only [State.setRos_ros]
    have : (judgeRoster u).ctl.mode.doses = true := by simp [judgeRoster, u1, hdm]
    simp [this]
  have hview : ownView (enterDosing s w) = ownView u := by
    unfold ownView; rw [hmode]; simp [u3, u1]
  have hp : (judgeRoster u).ctl.positionReason = s.ctl.positionReason := by
    rw [j2]; simp [judgeRoster, Roster.judge, u2, he]
  have hdr : (judgeRoster u).ctl.digestReason = false := by
    cases hx : (judgeRoster u).ctl.digestReason
    · rfl
    · exfalso
      have hx' : digestReasonStands (ownView u) (referenceDigest (ownView u) s.ros.entries) = true := by
        simpa [judgeRoster, Roster.judge, u2, he] using hx
      have := digestReason_outside (ownView u) (ownView s) (by simp [ownView, u3]) (by simp [ownView, u3])
        (by simpa [ownView] using hd) _ hx'
      rw [← href, ← j3] at this
      unfold reasonStands at hr; rw [this] at hr; simp at hr
  have hpf : s.ctl.positionReason = false := by unfold reasonStands at hr; simp at hr; exact hr.1
  refine ⟨fun h => ?_, fun _ => ?_, fun _ => ⟨?_, ?_, ?_⟩, fun h => ?_⟩
  · have : (enterDosing s w).hold = s.hold := by simp
    rw [this, hh] at h; simp at h
  · rw [judged_iff, hview, hros, hc]
    have hju := (judged_iff (judgeRoster u)).mp (judgeRoster_idem u)
    rw [ownView_judged] at hju
    refine ⟨?_, hju.2.1, hju.2.2⟩
    have := hju.1
    unfold Roster.judge at this ⊢
    simp only at this ⊢
    rw [Roster.mk.injEq] at *
    simpa using this
  · rw [hc, hp, hpf]
  · rw [hc, hdr]
  · rw [hros]
  · rw [hmode] at h; unfold dosingMode at h; split at h <;> simp at h

/-- The settlement leaves the station settled, whatever stood before (R59, R64, R67, R68). -/
theorem settle_station (s : State) (h : s.hold.held = true → s.ctl.mode = .loading) : StationInv (settle s) := by
  have hj := judgeRoster_idem s
  have hm : (judgeRoster s).ctl.mode = s.ctl.mode := rfl
  have hh : (judgeRoster s).hold = s.hold := rfl
  have nh : s.ctl.mode ≠ .loading → (judgeRoster s).hold.held = false := by
    intro hl; rw [hh]; cases hx : s.hold.held
    · rfl
    · exact absurd (h hx) hl
  unfold settle
  generalize hu : judgeRoster s = u at *
  have hroles : ∀ w, u.ctl.mode.doses = true → reasonStands u = false → StationInv (applyRole u w) := by
    intro w hd hr
    obtain ⟨j1, j2, j3⟩ := (judged_iff u).mp hj
    have hros : (applyRole u w).ros = { u.ros with role := roleOf u.ros.up u.ros.down } := by
      unfold applyRole; simp [hd]
    have hview : ownView (applyRole u w) = ownView u := by unfold ownView; simp
    unfold reasonStands at hr
    simp only [Bool.or_eq_false_iff] at hr
    refine ⟨fun hx => ?_, fun _ => ?_, fun _ => ⟨?_, ?_, ?_⟩, fun hx => ?_⟩
    · exfalso
      have hx' : u.hold.held = true := by simpa using hx
      have : s.ctl.mode ≠ .loading := by intro hl; rw [hm, hl] at hd; simp [BankMode.doses] at hd
      rw [nh this] at hx'; simp at hx'
    · rw [judged_iff, hview, hros]
      refine ⟨?_, by simpa using j2, by simpa using j3⟩
      show ({ u.ros.judge (ownView u) with role := roleOf u.ros.up u.ros.down } : Roster) = _
      rw [j1]
    · simpa using hr.1
    · simpa using hr.2
    · rw [hros]
    · have hx' : u.ctl.mode = .isolated := by simpa using hx
      rw [hx'] at hd; simp [BankMode.doses] at hd
  have hstay : u.ctl.mode.doses = false → (u.ctl.mode = .isolated → reasonStands u = true) → StationInv u := by
    intro hd hi
    refine ⟨fun hx => ?_, fun _ => hj, fun hx => ?_, fun hx => ?_⟩
    · rw [hm]; rw [hh] at hx; exact h hx
    · rcases hx with hx | hx <;> rw [hx] at hd <;> simp [BankMode.doses] at hd
    · have := hi hx; unfold reasonStands at this; simpa using this
  simp only
  cases hmode : u.ctl.mode <;> simp only
  · exact hstay (by rw [hmode]; rfl) (by rw [hmode]; simp)
  · exact hstay (by rw [hmode]; rfl) (by rw [hmode]; simp)
  · have := nh (by rw [← hm, hmode]; simp)
    split
    · exact enterIsolated_station u hj this (by assumption)
    · rename_i hr; exact hroles _ (by rw [hmode]; rfl) (by simpa using hr)
  · have := nh (by rw [← hm, hmode]; simp)
    split
    · exact enterIsolated_station u hj this (by assumption)
    · rename_i hr; exact hroles _ (by rw [hmode]; rfl) (by simpa using hr)
  · have := nh (by rw [← hm, hmode]; simp)
    split
    · exact hstay (by rw [hmode]; rfl) (fun _ => by assumption)
    · rename_i hr; exact enterDosing_station u _ hj this (by rw [hmode]; rfl) (by simpa using hr)
  · exact hstay (by rw [hmode]; rfl) (by rw [hmode]; simp)

theorem lampEvent_same (s : State) : SameStation s (lampEvent s) :=
  sameStation_of_keeps (by simp) (by simp) (by simp) (by simp) (by simp)

theorem followHold_station (s : State) (h : StationInv s) : StationInv (followHold s) := by
  have hg : ∀ m, s.ctl.mode ≠ .loading → StationInv (settle (setMode s m)) := by
    intro m hl
    refine settle_station _ fun hx => ?_
    exact absurd (h.1 (by simpa using hx)) hl
  unfold followHold
  cases hm : s.ctl.mode <;> simp only <;> (try split) <;> first | exact h | exact hg _ (by rw [hm]; simp)

theorem flowChanged_station (s : State) (h : StationInv s) : StationInv (flowChanged s) :=
  followHold_station _ ((sameStation_of_keeps (by simp) (by simp) (by simp) (by simp) (by simp)).station h)

theorem takeReset_station (s : State) (h : ResetHold) : StationInv (takeReset s h) :=
  ⟨fun _ => rfl, fun h => absurd rfl h, fun h => by rcases h with h | h <;> simp [takeReset, State.reset] at h,
    fun h => by simp [takeReset, State.reset] at h⟩

theorem loading_station {s : State} (h : s.ctl.mode = .loading) : StationInv s :=
  ⟨fun _ => h, fun x => absurd h x, fun x => by rw [h] at x; simp at x, fun x => by rw [h] at x; simp at x⟩

theorem listenOver_station (s : State) (h : StationInv s) (hm : s.ctl.mode = .listen) (hh : s.hold.held = false) :
    StationInv (listenOver s) := by
  have hj := h.2.1 (by rw [hm]; simp)
  unfold listenOver
  simp only
  generalize hu : s.setCtl { s.ctl with listenTimer := none, statusTimer := some 0 } = u
  have hsame : SameStation s u := by subst hu; exact ⟨rfl, rfl, rfl, rfl, rfl, rfl, rfl, rfl⟩
  have hju : judgeRoster u = u := (hsame.station h).2.1 (by rw [hsame.mode, hm]; simp)
  split
  · exact enterIsolated_station u hju (by rw [hsame.held, hh]) (by assumption)
  · rename_i hr
    have hp : SameStation u (post u (.join (joinBody u))) :=
      sameStation_of_keeps (by simp) (by simp) (by simp) (by simp) (by simp)
    refine (lampEvent_same _).station (enterDosing_station _ _ ?_ (by simpa using hsame.held.trans hh) ?_ ?_)
    · exact (hp.station (hsame.station h)).2.1 (by rw [hp.mode, hsame.mode, hm]; simp)
    · rw [hp.mode, hsame.mode, hm]; rfl
    · unfold reasonStands at hr ⊢; rw [hp.position, hp.digest]; simpa using hr

theorem enterFailsafe_station (s : State) (c : LoadFailure) (hh : s.hold.held = false) :
    StationInv (enterFailsafe s c) := by
  unfold enterFailsafe
  exact settle_station _ (by simp [hh])

theorem enterListen_station (s : State) (c : ImageCfg) (d : Digest) (hh : s.hold.held = false) :
    StationInv (enterListen s c d) := by
  unfold enterListen
  exact (lampEvent_same _).station (settle_station _ (by simp [hh]))

/-! ### A tick -/

theorem tickEntry_keeps (e : RosterEntry) : (tickEntry e).isSelf = e.isSelf ∧ (tickEntry e).chan = e.chan ∧
    (tickEntry e).pos = e.pos ∧ (tickEntry e).serial = e.serial ∧ (tickEntry e).state = e.state ∧
    (tickEntry e).mode = e.mode ∧ (tickEntry e).digest = e.digest ∧ (tickEntry e).flags = e.flags := by
  unfold tickEntry; split <;> simp

theorem judgeConflicts_tick (es : List RosterEntry) :
    judgeConflicts (es.map tickEntry) = (judgeConflicts es).map tickEntry := by
  have hst : ∀ c p, standing (es.map tickEntry) c p = standing es c p := by
    intro c p; unfold standing; rw [List.countP_map]; congr 1; funext e
    simp [RosterEntry.stands, tickEntry_keeps]
  unfold judgeConflicts
  rw [List.map_map, List.map_map]
  apply List.map_congr_left
  intro e _
  simp only [Function.comp, hst, tickEntry_keeps]
  have hs : (tickEntry e).stands = e.stands := by simp [RosterEntry.stands, tickEntry_keeps]
  rw [hs]
  split
  · unfold tickEntry; cases e.isSelf <;> simp
  · rfl

theorem referenceDigest_tick (o : OwnView) (es : List RosterEntry) :
    referenceDigest o (es.map tickEntry) = referenceDigest o es := by
  have he : RosterEntry.eligible o ∘ tickEntry = RosterEntry.eligible o := by
    funext e; simp [RosterEntry.eligible, RosterEntry.modeIn, tickEntry_keeps]
  have hpos : (fun x => x.pos) ∘ tickEntry = fun x : RosterEntry => x.pos := by funext e; simp [tickEntry_keeps]
  have hd : ∀ e, RosterEntry.digestIn o (tickEntry e) = RosterEntry.digestIn o e := by
    intro e; simp [RosterEntry.digestIn, tickEntry_keeps]
  unfold referenceDigest
  rw [List.filter_map, he, List.map_map, hpos]
  cases ((es.filter (RosterEntry.eligible o)).map (·.pos)).min? with
  | none => rfl
  | some low =>
    simp only
    rw [List.find?_map]
    have : ((fun e : RosterEntry => e.pos == low) ∘ tickEntry) = fun e => e.pos == low := by
      funext e; simp [tickEntry_keeps]
    rw [this]
    cases (es.filter (RosterEntry.eligible o)).find? (fun e => e.pos == low) <;> simp [hd]

theorem peerPositions_tick (o : OwnView) (r : Option Digest) (es : List RosterEntry) :
    peerPositions o r (es.map tickEntry) = peerPositions o r es := by
  have he : RosterEntry.participates o r ∘ tickEntry = RosterEntry.participates o r := by
    funext e; simp [RosterEntry.participates, tickEntry_keeps]
  have hpos : (fun x => x.pos) ∘ tickEntry = fun x : RosterEntry => x.pos := by funext e; simp [tickEntry_keeps]
  unfold peerPositions
  rw [List.filter_map, he, List.map_map, hpos]

theorem judge_tick (o : OwnView) (r : Roster) :
    ({ r with entries := r.entries.map tickEntry } : Roster).judge o =
      { r.judge o with entries := (r.judge o).entries.map tickEntry } := by
  unfold Roster.judge
  simp only [judgeConflicts_tick, referenceDigest_tick, peerPositions_tick]

theorem advance_ros (s : State) : (advance s).ros = { s.ros with entries := s.ros.entries.map tickEntry } := rfl

theorem tick_station (s : State) (h : StationInv s) : StationInv (tick s) := by
  unfold tick; split
  · exact h
  · obtain ⟨h1, h2, h3, h4⟩ := h
    refine ⟨h1, fun hl => ?_, h3, h4⟩
    have hj := h2 hl
    rw [judged_iff] at hj ⊢
    refine ⟨?_, ?_, hj.2.2⟩
    · show (advance s).ros.judge (ownView s) = (advance s).ros
      rw [advance_ros, judge_tick, hj.1]
    · show s.ctl.positionReason = positionReasonStands (s.ros.entries.map tickEntry)
      rw [hj.2.1]; unfold positionReasonStands; rw [List.any_map]; congr 1; funext e; simp [tickEntry_keeps]

end Sys2Proof.Machine
end

