-- ==== Sys2Proof/Laws/RosterOrder.lean ====
section
/-! SUPPORT. The operations of the roster keep its 40 places, its order and its keys (rosterSound), and those of the
station controller keep RosterInv: one lemma each. -/

namespace Sys2Proof.Machine

/-! ### Order and keys -/

theorem serialRank_le (x : Option Serial) : serialRank x ≤ 0x100000000 := by
  unfold serialRank; split
  · omega
  · rename_i x; have := x.isLt; omega

theorem order_eq (e : RosterEntry) : e.order = slotOf e.chan e.pos * 0x200000000 + serialRank e.serial := by
  unfold RosterEntry.order serialRank; cases e.serial <;> rfl

/-- Roster order is the order of the entries' numbers. -/
theorem before_iff (e g : RosterEntry) : e.before g ↔ e.order < g.order := by
  rw [order_eq, order_eq]; unfold RosterEntry.before
  have := serialRank_le e.serial; have := serialRank_le g.serial
  omega

/-- Two entries of the address space with one place in roster order have one key. -/
theorem key_of_order {e g : RosterEntry} (he : e.placed) (hg : g.placed) (h : e.order = g.order) : e.key = g.key := by
  rw [order_eq, order_eq] at h
  have a := serialRank_le e.serial; have b := serialRank_le g.serial
  have hs : slotOf e.chan e.pos = slotOf g.chan g.pos := by omega
  have hr : serialRank e.serial = serialRank g.serial := by omega
  have hser : e.serial = g.serial := by
    unfold serialRank at hr
    cases h1 : e.serial <;> cases h2 : g.serial <;> simp only [h1, h2] at hr <;> first | omega | rfl | skip
    exact congrArg some (BitVec.eq_of_toNat_eq (by omega))
  have hcp : e.chan = g.chan ∧ e.pos = g.pos := by
    unfold slotOf at hs
    unfold RosterEntry.placed at he hg
    split at hs <;> split at hs <;> omega
  unfold RosterEntry.key
  rw [hcp.1, hcp.2, hser]

theorem order_of_key {e g : RosterEntry} (h : e.key = g.key) : e.order = g.order := by
  unfold RosterEntry.key at h
  simp only [EntryKey.mk.injEq] at h
  rw [order_eq, order_eq, h.1, h.2.1, h.2.2]

theorem insertEntry_perm (e : RosterEntry) (es : List RosterEntry) : (insertEntry e es).Perm (e :: es) := by
  induction es with
  | nil => exact List.Perm.refl _
  | cons g rest ih =>
    unfold insertEntry; split
    · exact List.Perm.refl _
    · exact (List.Perm.cons g ih).trans (List.Perm.swap e g rest)

theorem mem_insertEntry {e g : RosterEntry} {es : List RosterEntry} : g ∈ insertEntry e es ↔ g = e ∨ g ∈ es := by
  rw [(insertEntry_perm e es).mem_iff]; simp

theorem insertEntry_pairwise (e : RosterEntry) (es : List RosterEntry) (h : es.Pairwise RosterEntry.before)
    (hn : ∀ g ∈ es, g.order ≠ e.order) : (insertEntry e es).Pairwise RosterEntry.before := by
  induction es with
  | nil => simp [insertEntry]
  | cons g rest ih =>
    obtain ⟨h1, h2⟩ := List.pairwise_cons.mp h
    have hg := hn g (by simp)
    unfold insertEntry; split
    · rename_i hlt
      refine List.pairwise_cons.mpr ⟨fun x hx => ?_, h⟩
      rw [before_iff]
      rcases List.mem_cons.mp hx with rfl | hx
      · exact hlt
      · have := (before_iff _ _).mp (h1 x hx); omega
    · rename_i hlt
      refine List.pairwise_cons.mpr ⟨fun x hx => ?_, ih h2 fun x hx => hn x (by simp [hx])⟩
      rcases mem_insertEntry.mp hx with rfl | hx
      · rw [before_iff]; omega
      · exact h1 x hx

/-- Entries in strict roster order have different keys. -/
theorem keys_nodup {es : List RosterEntry} (h : es.Pairwise RosterEntry.before) : (es.map (·.key)).Nodup := by
  rw [List.Nodup, List.pairwise_map]
  refine h.imp fun hb hk => ?_
  have := (before_iff _ _).mp hb; have := order_of_key hk; omega

theorem insertEntry_filter (p : RosterEntry → Bool) (e : RosterEntry) (es : List RosterEntry) (hp : p e = false) :
    (insertEntry e es).filter p = es.filter p := by
  induction es with
  | nil => simp [insertEntry, hp]
  | cons g rest ih =>
    unfold insertEntry; split
    · simp [hp]
    · simp only [List.filter_cons, ih]

/-! ### What keeps a roster in order -/

/-- A change of the entries that keeps each one's key and ownership keeps the roster in order. -/
theorem rosterSound_map {own : List EntryKey} {es : List RosterEntry} (f : RosterEntry → RosterEntry)
    (hk : ∀ e, (f e).key = e.key) (hs : ∀ e, (f e).isSelf = e.isSelf) (h : rosterSound own es) :
    rosterSound own (es.map f) := by
  obtain ⟨h1, h2, h3, _, h5⟩ := h
  have hp : ∀ e, e.placed → (f e).placed := by
    intro e he
    have := hk e; unfold RosterEntry.key at this; simp only [EntryKey.mk.injEq] at this
    unfold RosterEntry.placed at *; rw [this.1, this.2.1, this.2.2]; exact he
  have hb : (es.map f).Pairwise RosterEntry.before := by
    rw [List.pairwise_map]
    refine h3.imp fun hx => ?_
    rw [before_iff] at *; rw [order_of_key (hk _), order_of_key (hk _)]; exact hx
  refine ⟨by simpa using h1, ?_, hb, keys_nodup hb, ?_⟩
  · intro e he
    obtain ⟨g, hg, rfl⟩ := List.mem_map.mp he
    exact hp g (h2 g hg)
  · rw [List.filter_map, List.map_map, ← h5]
    have : ((fun x => x.isSelf) ∘ f) = fun x => x.isSelf := funext hs
    rw [this]; congr 1; funext e; exact hk e

/-- Foreign entries leave a roster in order. -/
theorem rosterSound_filter {own : List EntryKey} {es : List RosterEntry} (p : RosterEntry → Bool)
    (hp : ∀ e, e.isSelf = true → p e = true) (h : rosterSound own es) : rosterSound own (es.filter p) := by
  obtain ⟨h1, h2, h3, h4, h5⟩ := h
  have hb := h3.sublist (List.filter_sublist (p := p))
  refine ⟨(List.length_filter_le _ _).trans h1, fun e he => h2 e (List.mem_filter.mp he).1, hb, keys_nodup hb, ?_⟩
  rw [List.filter_filter, ← h5]
  congr 1
  apply List.filter_congr
  intro e _
  cases hs : e.isSelf
  · simp
  · simp [hp e hs]

/-- A foreign entry with a key of its own joins a roster in order that has a place left. -/
theorem rosterSound_insert {own : List EntryKey} {es : List RosterEntry} {e : RosterEntry} (h : rosterSound own es)
    (hl : es.length < 40) (hp : e.placed) (hs : e.isSelf = false) (hk : ∀ g ∈ es, g.key ≠ e.key) :
    rosterSound own (insertEntry e es) := by
  obtain ⟨h1, h2, h3, h4, h5⟩ := h
  have hb := insertEntry_pairwise e es h3 fun g hg ho => hk g hg (key_of_order (h2 g hg) hp ho)
  refine ⟨?_, ?_, hb, keys_nodup hb, ?_⟩
  · rw [(insertEntry_perm e es).length_eq]; simp; omega
  · intro g hg
    rcases mem_insertEntry.mp hg with rfl | hg
    · exact hp
    · exact h2 g hg
  · rw [insertEntry_filter _ _ _ hs, h5]

theorem judgeConflicts_sound {own : List EntryKey} {es : List RosterEntry} (h : rosterSound own es) :
    rosterSound own (judgeConflicts es) := by
  unfold judgeConflicts
  exact rosterSound_map _ (fun e => by split <;> rfl) (fun e => by split <;> rfl) h

theorem Roster.change_sound {own : List EntryKey} (r : Roster) (k : EntryKey) (f : RosterEntry → RosterEntry)
    (hk : ∀ e, (f e).key = e.key) (hs : ∀ e, (f e).isSelf = e.isSelf) (h : rosterSound own r.entries) :
    rosterSound own (r.change k f).entries :=
  rosterSound_map _ (fun e => by split <;> [exact hk e; rfl]) (fun e => by split <;> [exact hs e; rfl]) h

theorem Roster.remove_sound {own : List EntryKey} (r : Roster) (k : EntryKey) (h : rosterSound own r.entries) :
    rosterSound own (r.remove k).entries :=
  rosterSound_filter _ (fun e hs => by simp [RosterEntry.hasKey, hs]) h

theorem Roster.remove_length {r : Roster} {k : EntryKey} (h : ∃ e ∈ r.entries, e.hasKey k = true) :
    (r.remove k).entries.length < r.entries.length := by
  obtain ⟨e, he, hk⟩ := h
  exact List.length_filter_lt_length_iff_exists.mpr ⟨e, he, by simp [hk]⟩

theorem longestLost_some {es : List RosterEntry} {g : RosterEntry} (h : longestLost es = some g) :
    g ∈ es ∧ g.isSelf = false := by
  induction es generalizing g with
  | nil => simp [longestLost] at h
  | cons e rest ih =>
    unfold longestLost at h
    split at h
    · split at h
      · rename_i hc; simp at h hc; subst h; simp [hc.2]
      · simp at h
    · rename_i x hx
      have := ih hx
      split at h
      · rename_i hc; simp at h hc; subst h; simp [hc.1.2]
      · simp at h; subst h; simp [this]

/-- A new foreign entry is taken in, in a LOST one's place, or not at all (R54). -/
theorem Roster.add_sound {own : List EntryKey} (r : Roster) (e : RosterEntry) (h : rosterSound own r.entries)
    (hp : e.placed) (hs : e.isSelf = false) (hk : ∀ g ∈ r.entries, g.key ≠ e.key) :
    rosterSound own (r.add e).entries := by
  unfold Roster.add rosterCap
  split
  · rename_i hl; exact rosterSound_insert h hl hp hs hk
  · split
    · rename_i g hg
      obtain ⟨hm, hself⟩ := longestLost_some hg
      have hlen := Roster.remove_length (r := r) (k := g.key) ⟨g, hm, by simp [RosterEntry.hasKey, hself]⟩
      refine rosterSound_insert (r.remove_sound g.key h) (by have := h.1; omega) hp hs fun x hx => ?_
      exact hk x (List.mem_filter.mp hx).1
    · exact h

/-- The self entry's key is the bank's own. -/
theorem self_key {k : EntryKey} {es : List RosterEntry} (h : rosterSound [k] es) {g : RosterEntry} (hg : g ∈ es)
    (hs : g.isSelf = true) : g.key = k := by
  have : g.key ∈ (es.filter (·.isSelf)).map (·.key) := List.mem_map.mpr ⟨g, List.mem_filter.mpr ⟨hg, hs⟩, rfl⟩
  rw [h.2.2.2.2] at this; simpa using this

theorem isBank_placed {a : Src} (h : isBankAddress a = true) :
    a.chan.toNat ≤ 3 ∧ 1 ≤ a.pos.toNat ∧ a.pos.toNat ≤ 8 := by
  simpa [isBankAddress, and_assoc] using h

theorem isPlant_placed {a : Src} (h : isPlantAddress a = true) :
    a.chan.toNat = 15 ∧ 1 ≤ a.pos.toNat ∧ a.pos.toNat ≤ 4 := by
  simpa [isPlantAddress, and_assoc] using h

/-- A frame without a serial keeps the roster in order; the bank's own key holds a serial (R53). -/
theorem Roster.learnPlain_sound (r : Roster) (a : Src) (k : EntryKey) (x : Serial) (hx : k.serial = some x)
    (h : rosterSound [k] r.entries) : rosterSound [k] (r.learnPlain a).entries := by
  unfold Roster.learnPlain
  split
  · exact h
  · rename_i hadr
    simp only
    split
    · rename_i hempty
      refine r.add_sound _ h ?_ rfl fun g hg hkey => ?_
      · simp only [Bool.not_eq_true', Bool.or_eq_false_iff, not_and, Bool.not_eq_false] at hadr
        unfold RosterEntry.placed freshEntry
        by_cases hb : isBankAddress a = true
        · exact .inl (isBank_placed hb)
        · exact .inr ⟨rfl, isPlant_placed (hadr (by simpa using hb))⟩
      · simp only [RosterEntry.key, freshEntry, EntryKey.mk.injEq] at hkey
        cases hs : g.isSelf
        · have : g ∈ r.entries.filter (RosterEntry.foreignAt a) :=
            List.mem_filter.mpr ⟨hg, by simp [RosterEntry.foreignAt, hs, hkey.1, hkey.2.1]⟩
          rw [hempty] at this; simp at this
        · have := self_key h hg hs
          rw [← this] at hx; simp [RosterEntry.key, hkey.2.2] at hx
    · exact r.change_sound _ _ (fun _ => rfl) (fun _ => rfl) h
    · exact h
    · split
      · exact r.change_sound _ _ (fun _ => rfl) (fun _ => rfl) h
      · exact h

/-- A JOIN or STATUS of another board keeps the roster in order (R52). -/
theorem Roster.learnIdentity_sound (r : Roster) (a : Src) (x : Serial) (fields : RosterEntry → RosterEntry)
    (k : EntryKey) (hf : ∀ e, (fields e).key = e.key) (hfs : ∀ e, (fields e).isSelf = e.isSelf)
    (hb : isBankAddress a = true) (hk : (⟨a.chan.toNat, a.pos.toNat, some x⟩ : EntryKey) ≠ k)
    (h : rosterSound [k] r.entries) : rosterSound [k] (r.learnIdentity a x fields).entries := by
  unfold Roster.learnIdentity
  simp only
  have hplaced : ∀ e : RosterEntry, e.key = ⟨a.chan.toNat, a.pos.toNat, some x⟩ → e.placed := by
    intro e he
    simp only [RosterEntry.key, EntryKey.mk.injEq] at he
    unfold RosterEntry.placed; rw [he.1, he.2.1]; exact .inl (isBank_placed hb)
  have hother : r.entries.any (RosterEntry.hasKey ⟨a.chan.toNat, a.pos.toNat, some x⟩) = false →
      ∀ g ∈ r.entries, g.key ≠ ⟨a.chan.toNat, a.pos.toNat, some x⟩ := by
    intro hany g hg hgk
    cases hs : g.isSelf
    · have := List.any_eq_false.mp hany g hg
      simp [RosterEntry.hasKey, hs, hgk] at this
    · exact hk (hgk ▸ self_key h hg hs)
  split
  · exact r.change_sound _ _ (fun e => hf _) (fun e => hfs _) h
  · rename_i hany
    have hany : r.entries.any (RosterEntry.hasKey ⟨a.chan.toNat, a.pos.toNat, some x⟩) = false := by simpa using hany
    split
    · rename_i e he
      have hmem := List.mem_of_find?_eq_some he
      have hkey := List.find?_some he
      simp only [RosterEntry.hasKey, Bool.and_eq_true, Bool.not_eq_true', decide_eq_true_eq] at hkey
      have hlen := Roster.remove_length (r := r) (k := e.key) ⟨e, hmem, by simp [RosterEntry.hasKey, hkey.1]⟩
      have hkn : (fields { e.refreshed with serial := some x }).key = ⟨a.chan.toNat, a.pos.toNat, some x⟩ := by
        rw [hf]
        have := hkey.2; simp only [RosterEntry.key, EntryKey.mk.injEq] at this
        simp [RosterEntry.key, RosterEntry.refreshed, this.1, this.2.1]
      refine rosterSound_insert (r.remove_sound _ h) (by have := h.1; omega) (hplaced _ hkn) (by rw [hfs]; exact hkey.1) ?_
      intro g hg
      rw [hkn]; exact hother hany g (List.mem_filter.mp hg).1
    · have hkn : (fields (freshEntry a.chan.toNat a.pos.toNat (some x))).key = ⟨a.chan.toNat, a.pos.toNat, some x⟩ := by
        rw [hf]; rfl
      exact r.add_sound _ h (hplaced _ hkn) (by rw [hfs]; rfl) fun g hg => by rw [hkn]; exact hother hany g hg

theorem Roster.setWiping_sound {own : List EntryKey} (r : Roster) (a : Src) (w : Option Nat)
    (h : rosterSound own r.entries) : rosterSound own (r.setWiping a w).entries := by
  unfold Roster.setWiping; split
  · exact r.change_sound _ _ (fun _ => rfl) (fun _ => rfl) h
  · exact h

theorem Roster.leaveFrom_sound {own : List EntryKey} (r : Roster) (a : Src) (h : rosterSound own r.entries) :
    rosterSound own (r.leaveFrom a).entries :=
  rosterSound_map _ (fun e => by split <;> rfl) (fun e => by split <;> rfl) h

theorem Roster.leaveFromTwin_sound {own : List EntryKey} (r : Roster) (a : Src) (x : Byte)
    (h : rosterSound own r.entries) : rosterSound own (r.leaveFromTwin a x).entries := by
  unfold Roster.leaveFromTwin; split
  · exact r.leaveFrom_sound a h
  · exact rosterSound_map _ (fun e => by split <;> rfl) (fun e => by split <;> rfl) h

/-! ### States -/

/-- The bank's own key. -/
def ownKey (s : State) : EntryKey := ⟨s.ldr.straps.channel, s.ldr.straps.position, some s.serial⟩

/-- Entries, mode and the rest as a step may leave them. -/
theorem RosterInv.next {s t : State} (h : RosterInv s) (hh : t.hold.held = s.hold.held)
    (hm : t.ctl.mode = .loading ↔ s.ctl.mode = .loading) (hl : t.ldr.straps = s.ldr.straps)
    (hs : t.serial = s.serial) (h0 : s.ctl.mode = .loading → t.ros.entries = [])
    (he : s.ctl.mode ≠ .loading → rosterSound [ownKey s] s.ros.entries → rosterSound [ownKey s] t.ros.entries) :
    RosterInv t := by
  obtain ⟨h1, h2, h3, h4⟩ := h
  unfold RosterInv
  rw [hh, hl, hs]
  refine ⟨h1, fun x => hm.mpr (h2 x), fun x => h0 (hm.mp x), fun x => ?_⟩
  exact he (fun y => x (hm.mpr y)) (h4 fun y => x (hm.mpr y))

theorem settle_mode_loading (s : State) : (settle s).ctl.mode = .loading ↔ s.ctl.mode = .loading := by
  have hi : ∀ v, (enterIsolated v).ctl.mode = .isolated := by
    intro v; simp [enterIsolated, judgeRoster, setMode]
  have hd : ∀ v w, (enterDosing v w).ctl.mode ≠ .loading := by
    intro v w
    have : (enterDosing v w).ctl.mode = dosingMode v := by simp [enterDosing, judgeRoster, setMode]
    rw [this]; unfold dosingMode; split <;> simp
  have hm : (judgeRoster s).ctl.mode = s.ctl.mode := rfl
  unfold settle
  simp only
  cases h : s.ctl.mode <;> rw [hm, h] <;> simp only <;> (try split) <;> simp [hi, hd, hm, h]

theorem settle_roster (s : State) (h : RosterInv s) : RosterInv (settle s) :=
  h.next (by simp) (settle_mode_loading s) (by simp) (by simp)
    (fun hl => by rw [settle_entries, h.2.2.1 hl]; rfl)
    (fun _ hs => by rw [settle_entries]; exact judgeConflicts_sound hs)

theorem followHold_roster (s : State) (h : RosterInv s) : RosterInv (followHold s) := by
  have hg : ∀ m, s.ctl.mode ≠ .loading → m ≠ .loading → RosterInv (settle (setMode s m)) := by
    intro m hl hm
    refine settle_roster _ (h.next (by simp) ?_ (by simp) (by simp) (fun x => absurd x hl) (fun _ hs => by simpa using hs))
    simp [setMode, hl, hm]
  unfold followHold
  cases hm : s.ctl.mode <;> simp only <;> (try split) <;> first | exact h | exact hg _ (by rw [hm]; simp) (by simp)

theorem flowChanged_roster (s : State) (h : RosterInv s) : RosterInv (flowChanged s) :=
  followHold_roster _ ((sameStation_of_keeps (by simp) (by simp) (by simp) (by simp) (by simp)).roster h)

theorem takeReset_roster (s : State) (x : ResetHold) (h : RosterInv s) : RosterInv (takeReset s x) := by
  refine ⟨by simpa using h.1, fun _ => rfl, fun _ => rfl, fun y => absurd rfl y⟩

theorem enterIsolated_roster (s : State) (h : RosterInv s) (hl : s.ctl.mode ≠ .loading) : RosterInv (enterIsolated s) := by
  have hm : (enterIsolated s).ctl.mode = .isolated := by simp [enterIsolated, judgeRoster, setMode]
  refine h.next (by simp) (by simp [hm, hl]) (by simp) (by simp) (fun x => absurd x hl) fun _ hs => ?_
  have : (enterIsolated s).ros.entries = judgeConflicts s.ros.entries := by
    simp [enterIsolated, judgeRoster, Roster.judge, setMode]
  rw [this]; exact judgeConflicts_sound hs

theorem enterDosing_roster (s : State) (w : HeadWay) (h : RosterInv s) (hl : s.ctl.mode ≠ .loading) :
    RosterInv (enterDosing s w) := by
  have hm : (enterDosing s w).ctl.mode = dosingMode s := by simp [enterDosing, judgeRoster, setMode]
  have hd : dosingMode s ≠ .loading := by unfold dosingMode; split <;> simp
  refine h.next (by simp) (by simp [hm, hl, hd]) (by simp) (by simp) (fun x => absurd x hl) fun _ hs => ?_
  have : (enterDosing s w).ros.entries = judgeConflicts s.ros.entries := by
    simp [enterDosing, judgeRoster, Roster.judge, setMode, applyRole]
  rw [this]; exact judgeConflicts_sound hs

theorem listenOver_roster (s : State) (h : RosterInv s) (hl : s.ctl.mode ≠ .loading) : RosterInv (listenOver s) := by
  unfold listenOver
  simp only
  generalize hu : s.setCtl { s.ctl with listenTimer := none, statusTimer := some 0 } = u
  have hsame : SameStation s u := by subst hu; exact ⟨rfl, rfl, rfl, rfl, rfl, rfl, rfl, rfl⟩
  have hlu : u.ctl.mode ≠ .loading := by rw [hsame.mode]; exact hl
  split
  · exact enterIsolated_roster u (hsame.roster h) hlu
  · have hp : SameStation u (post u (.join (joinBody u))) :=
      sameStation_of_keeps (by simp) (by simp) (by simp) (by simp) (by simp)
    exact (lampEvent_same _).roster (enterDosing_roster _ _ (hp.roster (hsame.roster h)) (by rw [hp.mode]; exact hlu))

/-- The self entry alone, as the roster leaves LOADING with it (R51). -/
theorem selfOnly_sound (c p : Nat) (x : Serial) (hc : c ≤ 3) (h1 : 1 ≤ p) (h8 : p ≤ 8) :
    rosterSound [⟨c, p, some x⟩] [selfEntry c p x] := by
  refine ⟨by simp, ?_, by simp, by simp, by simp [selfEntry, RosterEntry.key, freshEntry]⟩
  intro e he; simp at he; subst he; exact .inl ⟨hc, h1, h8⟩

theorem leaveLoading_roster {s t : State} (h : RosterInv s) (hl : s.ctl.mode = .loading) (hm : t.ctl.mode ≠ .loading)
    (hh : t.hold.held = false) (hst : t.ldr.straps = s.ldr.straps) (hs : t.serial = s.serial)
    (he : t.ros.entries = insertEntry (selfEntry s.ldr.straps.channel s.ldr.straps.position s.serial) s.ros.entries) :
    RosterInv t := by
  unfold RosterInv
  rw [hh, hst, hs, he, h.2.2.1 hl]
  exact ⟨h.1, by simp, fun x => absurd x hm, fun _ => selfOnly_sound _ _ _ h.1.1 h.1.2.1 h.1.2.2⟩

theorem enterFailsafe_roster (s : State) (c : LoadFailure) (h : RosterInv s) (hl : s.ctl.mode = .loading)
    (hh : s.hold.held = false) : RosterInv (enterFailsafe s c) := by
  unfold enterFailsafe
  refine settle_roster _ (leaveLoading_roster h hl ?_ ?_ ?_ ?_ ?_) <;> simp [addSelf, hh]

theorem enterListen_roster (s : State) (c : ImageCfg) (d : Digest) (h : RosterInv s) (hl : s.ctl.mode = .loading)
    (hh : s.hold.held = false) : RosterInv (enterListen s c d) := by
  unfold enterListen
  refine (lampEvent_same _).roster (settle_roster _ ?_)
  refine leaveLoading_roster h hl ?_ ?_ ?_ ?_ ?_ <;> simp [addSelf, hh]

/-! ### A tick -/

theorem tick_roster (s : State) (h : RosterInv s) : RosterInv (tick s) := by
  unfold tick; split
  · exact h
  · exact h.next rfl Iff.rfl rfl rfl (fun hl => by
      show s.ros.entries.map tickEntry = []; rw [h.2.2.1 hl]; rfl) fun _ hs =>
      rosterSound_map tickEntry (fun e => by simp [RosterEntry.key, tickEntry_keeps]) (fun e => (tickEntry_keeps e).1) hs

end Sys2Proof.Machine
end

