-- ==== Sys2Proof/Laws/Transmit.lean ====
section
/-! SUPPORT. Every operation of the blocks keeps the transmit queue sound (R178): one lemma each. -/

namespace Sys2Proof.Machine

/-- An operation that leaves the bus alone keeps its queue sound. -/
theorem transmitInv_of_bus {s t : State} (h : TransmitInv s) (hb : t.bus.queue = s.bus.queue) : TransmitInv t := by
  unfold TransmitInv at *; rw [hb]; exact h

theorem lampEvent_transmit (s : State) (h : TransmitInv s) : TransmitInv (lampEvent s) :=
  transmitInv_of_bus h (by simp)

theorem judgeRoster_transmit (s : State) (h : TransmitInv s) : TransmitInv (judgeRoster s) :=
  transmitInv_of_bus h (by simp)

theorem enterDosing_transmit (s : State) (w : HeadWay) (h : TransmitInv s) : TransmitInv (enterDosing s w) :=
  transmitInv_of_bus h (by simp)

theorem giveUpAll_transmit (s : State) (fs : List Frame) (h : TransmitInv s) : TransmitInv (giveUpAll s fs) := by
  unfold giveUpAll
  induction fs generalizing s with
  | nil => exact h
  | cons f fs ih => exact ih _ (transmitInv_of_bus h (by simp [giveUp]))

theorem post_transmit (s : State) (b : Body) (h : TransmitInv s) : TransmitInv (post s b) :=
  giveUpAll_transmit _ _ (Bus.post_sound _ _ h)

theorem foldl_transmit {α : Type} (f : State → α → State) (hf : ∀ s a, TransmitInv s → TransmitInv (f s a))
    (l : List α) (s : State) (h : TransmitInv s) : TransmitInv (l.foldl f s) := by
  induction l generalizing s with
  | nil => exact h
  | cons a l ih => exact ih _ (hf _ _ h)

/-! ### The wiper -/

theorem postClaim_transmit (s : State) (h : TransmitInv s) : TransmitInv (postClaim s) := post_transmit _ _ h

theorem judgeAdmission_transmit (s : State) (h : TransmitInv s) : TransmitInv (judgeAdmission s) := by
  unfold judgeAdmission; split
  · exact postClaim_transmit _ h
  · exact h

theorem wantWipe_transmit (s : State) (h : TransmitInv s) : TransmitInv (wantWipe s) := judgeAdmission_transmit _ h

theorem requestWipe_transmit (s : State) (h : TransmitInv s) : TransmitInv (requestWipe s) := by
  unfold requestWipe; split
  · exact wantWipe_transmit _ h
  · exact h
  · exact h

theorem takeBackClaim_transmit (s : State) (h : TransmitInv s) : TransmitInv (takeBackClaim s) := by
  unfold takeBackClaim
  cases s.wip.claim with
  | none => exact h
  | some t => exact Bus.withdrawClaim_sound _ _ h

theorem releaseClaim_transmit (s : State) (h : TransmitInv s) : TransmitInv (releaseClaim s) := by
  unfold releaseClaim; split
  · exact takeBackClaim_transmit _ h
  · exact h

theorem yieldTo_transmit (s : State) (p : Nat) (h : TransmitInv s) : TransmitInv (yieldTo s p) := by
  unfold yieldTo; split
  · exact h
  · exact takeBackClaim_transmit _ h
  · exact h

theorem emptyWait_transmit (s : State) (h : TransmitInv s) : TransmitInv (emptyWait s) := judgeAdmission_transmit _ h

theorem emptyWaitOn_transmit (s : State) (p : Nat) (h : TransmitInv s) : TransmitInv (emptyWaitOn s p) := by
  unfold emptyWaitOn; split <;> [split; skip]
  · exact emptyWait_transmit _ h
  · exact h
  · exact h

theorem freeWait_transmit (s : State) (c p : Nat) (h : TransmitInv s) : TransmitInv (freeWait s c p) := by
  unfold freeWait; split
  · exact emptyWaitOn_transmit _ _ h
  · exact h

theorem strokeFault_transmit (s : State) (h : TransmitInv s) : TransmitInv (strokeFault s) := by
  unfold strokeFault
  have h' : TransmitInv (s.setWip s.wip.faulted) := transmitInv_of_bus h (by simp)
  exact transmitInv_of_bus (post_transmit _ (.wipeDone wipeOutcomeFault) h') (by simp [restartScan])

theorem strokeDone_transmit (s : State) (h : TransmitInv s) : TransmitInv (strokeDone s) := by
  unfold strokeDone
  simp only
  generalize hu : s.setWip _ = u
  have h' : TransmitInv u := transmitInv_of_bus h (by simp [← hu])
  exact transmitInv_of_bus (post_transmit _ (.wipeDone wipeOutcomeDone) h') (by simp [armReferences, restartScan])

theorem limitsTogether_transmit (s : State) (h : TransmitInv s) : TransmitInv (limitsTogether s) := by
  unfold limitsTogether; split
  · exact h
  · exact h
  · exact h
  · simp only; split
    · exact post_transmit _ _ (takeBackClaim_transmit _ h)
    · exact takeBackClaim_transmit _ h
  · exact strokeFault_transmit _ h
  · exact strokeFault_transmit _ h
  · exact h
  · exact h

theorem startStroke_transmit (s : State) (h : TransmitInv s) : TransmitInv (startStroke s) := by
  unfold startStroke
  simp only
  generalize hw : ({ s.wip with state := WiperState.strokeOut } : Wiper) = w
  generalize (if s.wip.whome = true then some 0 else none : Option Nat) = r
  split
  · exact strokeFault_transmit _ (post_transmit (s.setWip _) .wipeActive h)
  · split
    · exact post_transmit (s.setWip _) .wipeActive h
    · exact post_transmit (s.setWip _) .wipeActive h

theorem homed_transmit (s : State) (h : TransmitInv s) : TransmitInv (homed s) := by
  unfold homed; simp only; split
  · exact wantWipe_transmit _ h
  · exact h

/-! ### The station controller and the planner -/

theorem home_transmit (s : State) (h : TransmitInv s) : TransmitInv (home s) := by
  unfold home; split <;> [skip; split]
  · exact h
  · exact homed_transmit s h
  · exact h

theorem enterIsolated_transmit (s : State) (h : TransmitInv s) : TransmitInv (enterIsolated s) := by
  have h1 : TransmitInv ((emptyParcels s).setBus (emptyParcels s).bus.withdrawParcels) :=
    Bus.withdrawParcels_sound _ h
  unfold enterIsolated
  simp only
  generalize (emptyParcels s).setBus (emptyParcels s).bus.withdrawParcels = u at *
  have h2 := post_transmit u (.leave (isolationReason u)) h1
  generalize post u (.leave (isolationReason u)) = v at *
  exact lampEvent_transmit _ (judgeRoster_transmit _ (releaseClaim_transmit ((setMode v .isolated).setRos _) h2))

theorem settle_transmit (s : State) (h : TransmitInv s) : TransmitInv (settle s) := by
  have hj := judgeRoster_transmit s h
  unfold settle
  generalize judgeRoster s = u at *
  simp only
  split <;> (try split)
  all_goals first
    | exact hj
    | exact enterIsolated_transmit _ hj

theorem followHold_transmit (s : State) (h : TransmitInv s) : TransmitInv (followHold s) := by
  unfold followHold; split <;> (try split)
  all_goals first
    | exact h
    | exact settle_transmit _ h

theorem flowChanged_transmit (s : State) (h : TransmitInv s) : TransmitInv (flowChanged s) :=
  followHold_transmit _ (transmitInv_of_bus h (by simp))

theorem learnSource_transmit (s : State) (a : Src) (h : TransmitInv s) : TransmitInv (learnSource s a) :=
  settle_transmit _ h

theorem enterFailsafe_transmit (s : State) (c : LoadFailure) (h : TransmitInv s) :
    TransmitInv (enterFailsafe s c) := by
  unfold enterFailsafe
  exact settle_transmit _ (post_transmit _ _ (transmitInv_of_bus h (by simp)))

theorem enterListen_transmit (s : State) (c : ImageCfg) (d : Digest) (h : TransmitInv s) :
    TransmitInv (enterListen s c d) := by
  unfold enterListen
  exact lampEvent_transmit _ (settle_transmit _ (transmitInv_of_bus h (by simp)))

theorem listenOver_transmit (s : State) (h : TransmitInv s) : TransmitInv (listenOver s) := by
  unfold listenOver
  simp only
  generalize hu : s.setCtl _ = u
  have hu' : TransmitInv u := by rw [← hu]; exact h
  split
  · exact enterIsolated_transmit _ hu'
  · exact lampEvent_transmit _ (enterDosing_transmit _ _ (post_transmit _ _ hu'))

theorem closeExpiry_transmit (s : State) (q : Nat) (h : TransmitInv s) : TransmitInv (closeExpiry s q) :=
  judgeAdmission_transmit _ (transmitInv_of_bus h (by simp))

theorem sendRecord_transmit (role : Role) (s : State) (r : ParcelRec) (h : TransmitInv s) :
    TransmitInv (sendRecord role s r) := by
  unfold sendRecord; split
  · exact post_transmit _ _ h
  · exact post_transmit _ _ h
  · exact post_transmit _ _ h
  · exact post_transmit _ _ h
  · exact h

theorem accrue_transmit (s : State) (h : TransmitInv s) : TransmitInv (accrue s) := by
  unfold accrue; split
  · exact foldl_transmit _ (fun s r => sendRecord_transmit _ s r) _ _ h
  · exact h

/-! ### The scanner -/

theorem completeScan_transmit (s : State) (raw : List (BitVec 10)) (d : Bool) (h : TransmitInv s) :
    TransmitInv (completeScan s raw d) := by
  have hf : ∀ (s : State) b, TransmitInv s → TransmitInv (stepFouling s b raw) := by
    intro s b h; unfold stepFouling; simp only; split
    · exact h
    · exact requestWipe_transmit _ h
  have hw : ∀ (s : State) o, TransmitInv s → TransmitInv (handFlow s o) := by
    intro s o h; unfold handFlow; split
    · exact flowChanged_transmit _ (transmitInv_of_bus h (by simp))
    · exact h
  have hu : ∀ (s : State) o, TransmitInv s → TransmitInv (handUvt s o) := by
    intro s o h; unfold handUvt; split
    · exact transmitInv_of_bus h (by simp)
    · exact h
  have he : ∀ s : State, TransmitInv s → TransmitInv (endScan s) := by
    intro s h; unfold endScan; split <;> exact h
  have h1 : TransmitInv (stepPublish (stepLearn (stepSamples s raw))) := transmitInv_of_bus h (by simp)
  exact lampEvent_transmit _ (he _ (hu _ _ (hw _ _ (hf _ _ h1))))

/-! ### The command handler -/

theorem beginReply_transmit (s : State) (t a c : Nat) (h : TransmitInv s) : TransmitInv (beginReply s t a c) :=
  post_transmit _ _ h

theorem nextReply_transmit (s : State) (t a o : Nat) (h : TransmitInv s) : TransmitInv (nextReply s t a o) := by
  unfold nextReply; split
  · exact h
  · exact post_transmit _ _ h

theorem handlerTold_transmit (s : State) (t : Nat) (h : TransmitInv s) : TransmitInv (handlerTold s t) := by
  unfold handlerTold; simp only; split <;> [split; skip]
  · exact nextReply_transmit _ _ _ _ h
  · exact h
  · exact h

theorem releaseHeld_transmit (s : State) (h : TransmitInv s) : TransmitInv (releaseHeld s) := by
  unfold releaseHeld; split
  · exact post_transmit _ _ h
  · exact beginReply_transmit _ _ _ _ h
  · exact h

theorem answer_transmit (s : State) (c o : Byte) (h : TransmitInv s) : TransmitInv (answer s c o) := by
  unfold answer; split
  · exact h
  · exact post_transmit _ _ h

theorem applyCommand_transmit (s : State) (c : Byte) (d : Bool) (f : State → State) (h : TransmitInv s)
    (hf : TransmitInv s → TransmitInv (f s)) : TransmitInv (applyCommand s c d f) := by
  unfold applyCommand; split
  · exact answer_transmit _ _ _ (hf h)
  · exact answer_transmit _ _ _ h

theorem takeReset_transmit (s : State) (h : ResetHold) : TransmitInv (takeReset s h) := by
  simp [TransmitInv, queueSound, State.reset, ordered, waitingOf]

/-! ### Events -/

theorem closeRestart_transmit (s : State) (h : TransmitInv s) : TransmitInv (closeRestart s) := by
  unfold closeRestart; split
  · exact takeReset_transmit _ _
  · exact h

theorem outsideReset_transmit (s : State) (f : State → State) (h : TransmitInv s)
    (hf : TransmitInv s → TransmitInv (f s)) : TransmitInv (outsideReset s f) := by
  unfold outsideReset; split
  · exact h
  · exact hf h

theorem event_transmit (s : State) (f : State → State) (h : TransmitInv s)
    (hf : TransmitInv s → TransmitInv (f s)) : TransmitInv (event s f) :=
  outsideReset_transmit _ _ h fun h => closeRestart_transmit _ (hf h)

theorem frameEvent_transmit (s : State) (f : State → State) (h : TransmitInv s)
    (hf : ∀ t, TransmitInv t → TransmitInv (f t)) : TransmitInv (frameEvent s f) := by
  refine event_transmit _ _ h fun h => ?_
  simp only; split
  · exact h
  · exact hf _ h

theorem commandEvent_transmit (s : State) (a : Src) (b : CommandBody) (f : State → State) (h : TransmitInv s)
    (hf : ∀ t, TransmitInv t → TransmitInv (f t)) : TransmitInv (commandEvent s a b f) := by
  refine frameEvent_transmit _ _ h fun t h => ?_
  simp only; split
  · exact hf _ (learnSource_transmit _ _ h)
  · exact learnSource_transmit _ _ h

end Sys2Proof.Machine
end

