-- ==== Sys2Proof/WellFormed.lean ====
section
/-! DEFINITION. Which operands a command can have: the checks that its type does not make. -/

namespace Sys2Proof

/-- A bank address (channel 0–3, position 1–8) or a plant address (channel 15, position 1–4) (R52). -/
def EntryKey.wf (k : EntryKey) : Bool :=
  (decide (k.chan ≤ 3) && decide (1 ≤ k.pos) && decide (k.pos ≤ 8)) ||
    (decide (k.chan = 15) && decide (1 ≤ k.pos) && decide (k.pos ≤ 4) && k.serial.isNone)

def lampWf (i : Nat) : Bool := decide (1 ≤ i) && decide (i ≤ 24)

def moduleWf (m : Nat) : Bool := decide (1 ≤ m) && decide (m ≤ 6)

/-- The operands are ones the row's event can have. -/
def Instr.wf : Instr → Bool
  | .supplyBelowReset mv => decide (mv < 2800)
  | .resetnLow us => decide (10 ≤ us)
  | .resetRelease _ => true
  | .supplyLowChange mv => decide (2800 ≤ mv)
  | .cfgBusError => true
  | .imageReadComplete image => decide (image.length = 72)
  | .listenEnd => true
  | .accrualTimerExpiry => true
  | .statusTimerExpiry => true
  | .flowTimerExpiry => true
  | .uvtTimerExpiry => true
  | .flowSourceLapse => true
  | .flowSourceDupClear => true
  | .uvtSourceLapse => true
  | .uvtSourceDupClear => true
  | .holdTimerExpiry => true
  | .rosterEntryLost key => key.wf
  | .rosterEntryRemove key => key.wf
  | .pendingBreakExpiry => true
  | .rxFrameBroken run => !run.isEmpty
  | .rxFrameRejected run => !run.isEmpty
  | .formatErrorFrame _ => true
  | .joinReceived _ _ => true
  | .statusReceived _ _ => true
  | .flowReceived _ _ => true
  | .uvtReceived _ _ => true
  | .parcelReceived _ _ => true
  | .dischargeReceived _ _ => true
  | .reportReceived _ => true
  | .leaveReceived _ _ => true
  | .wipeClaimReceived _ => true
  | .wipeActiveReceived _ => true
  | .wipeDoneReceived _ _ => true
  | .clearLamp _ _ => true
  | .clearBallast _ _ => true
  | .clearSensor _ _ => true
  | .clearWiper _ _ => true
  | .wipeNow _ _ => true
  | .restart _ _ => true
  | .query _ _ => true
  | .commandOtherCode _ code _ => decide (code.toNat = 0) || decide (7 < code.toNat)
  | .restartTimeout => true
  | .quietGapEnd => true
  | .transmitStart _ => true
  | .transmitComplete read => decide (5 ≤ read.length) && decide (read.length ≤ 53)
  | .collision read => decide (1 ≤ read.length) && decide (read.length ≤ 53)
  | .servedFlagClear => true
  | .pollCycleDue => true
  | .ballastGoodReply reply => goodSomewhere reply
  | .ballastMiss _ => true
  | .strikeAttemptExpiry i => lampWf i
  | .warmupEnd i => lampWf i
  | .coolingEnd i => lampWf i
  | .strikeSpacingExpiry => true
  | .extinguishHoldoffExpiry => true
  | .dayTimerExpiry => true
  | .runMinute i => lampWf i
  | .lockoutOpen m ms => moduleWf m && decide (50 ≤ ms)
  | .lockoutClose m ms => moduleWf m && decide (50 ≤ ms)
  | .scanStart => true
  | .scanComplete raw _ => decide (raw.length = 8)
  | .wipeIntervalExpiry => true
  | .claimWindowExpiry => true
  | .waitRecordExpiry => true
  | .wendActive _ ms => decide (10 ≤ ms)
  | .whomeActive ms => decide (10 ≤ ms)
  | .whomeInactive ms => decide (10 ≤ ms)
  | .strokeTimerExpiry => true
  | .releaseTimerExpiry => true
  | .idleMarkZeroCharacter c => !c.mark || !c.stop

end Sys2Proof
end

