-- ==== Sys2Proof/Tests/Slice0.lean ====
section
/-! SUPPORT. Checks on fixed values: ill-formed operands refused, the manual's worked examples, and for every
statement with hypotheses a state that meets them, clause by clause. -/

namespace Sys2Proof.Tests

open Sys2Proof.Machine

-- One test after another: together they would ask for more stacks than the sandbox has memory.
set_option deprecated.oldSectionVars true

/-! ### Ill-formed operands are refused, one per check -/

theorem test_wf_supply : Instr.wf (.supplyBelowReset 2800) = false ∧ Instr.wf (.supplyLowChange 2799) = false ∧
    Instr.wf (.resetnLow 9) = false ∧ Instr.wf (.resetnLow 10) = true := by decide

theorem test_wf_imageLength : Instr.wf (.imageReadComplete [1, 2, 3]) = false := by decide

theorem test_wf_keyBank : Instr.wf (.rosterEntryLost ⟨4, 1, none⟩) = false ∧
    Instr.wf (.rosterEntryLost ⟨0, 0, none⟩) = false ∧ Instr.wf (.rosterEntryRemove ⟨0, 9, none⟩) = false ∧
    Instr.wf (.rosterEntryLost ⟨0, 8, some 5⟩) = true := by decide

theorem test_wf_keyPlant : Instr.wf (.rosterEntryLost ⟨15, 0, none⟩) = false ∧
    Instr.wf (.rosterEntryLost ⟨15, 5, none⟩) = false ∧ Instr.wf (.rosterEntryRemove ⟨15, 1, some 7⟩) = false ∧
    Instr.wf (.rosterEntryRemove ⟨15, 4, none⟩) = true := by decide

theorem test_wf_emptyRun : Instr.wf (.rxFrameBroken []) = false ∧ Instr.wf (.rxFrameRejected []) = false := by decide

theorem test_wf_otherCode : Instr.wf (.commandOtherCode ⟨15, 1⟩ 1 ⟨0, 1, 0, 0⟩) = false ∧
    Instr.wf (.commandOtherCode ⟨15, 1⟩ 7 ⟨0, 1, 0, 0⟩) = false ∧
    Instr.wf (.commandOtherCode ⟨15, 1⟩ 8 ⟨0, 1, 0, 0⟩) = true := by decide

/-- Lit at level 4, lit at level 11, striking at level 5, all high, a bad checksum; warm with lamp A lit at 100 %. -/
theorem test_wf_reply : Instr.wf (.ballastGoodReply 0x240007) = false ∧
    Instr.wf (.ballastGoodReply 0x2B000E) = false ∧ Instr.wf (.ballastGoodReply 0x001507) = false ∧
    Instr.wf (.ballastGoodReply 0xFFFFFF) = false ∧ Instr.wf (.ballastGoodReply 0x2A301F) = false ∧
    Instr.wf (.ballastGoodReply 0x2A3011) = true := by decide

theorem test_wf_lamp : Instr.wf (.strikeAttemptExpiry 0) = false ∧ Instr.wf (.warmupEnd 25) = false ∧
    Instr.wf (.coolingEnd 0) = false ∧ Instr.wf (.runMinute 25) = false ∧ Instr.wf (.runMinute 24) = true := by decide

theorem test_wf_module : Instr.wf (.lockoutOpen 0) = false ∧ Instr.wf (.lockoutClose 7) = false ∧
    Instr.wf (.lockoutOpen 6) = true ∧ Instr.wf (.lockoutOpen 6 49) = false ∧ Instr.wf (.lockoutClose 6 49) = false ∧
    Instr.wf (.lockoutClose 6 50) = true := by decide

theorem test_wf_limits : Instr.wf (.whomeActive 9) = false ∧ Instr.wf (.whomeInactive 9) = false ∧
    Instr.wf (.wendActive true 9) = false ∧ Instr.wf (.whomeActive 10) = true := by decide

theorem test_wf_scan : Instr.wf (.scanComplete [0, 0] false) = false := by decide

/-- Frames run from 5 characters to 53; a collision comes at any of them. -/
theorem test_wf_readBack : Instr.wf (.transmitComplete (List.replicate 4 0)) = false ∧
    Instr.wf (.transmitComplete (List.replicate 54 0)) = false ∧
    Instr.wf (.transmitComplete (List.replicate 53 0)) = true ∧ Instr.wf (.collision []) = false ∧
    Instr.wf (.collision (List.replicate 54 0)) = false ∧ Instr.wf (.collision [0x7FF]) = true := by decide

theorem test_wf_stray : Instr.wf (.idleMarkZeroCharacter ⟨0, true, true, 20⟩) = false ∧
    Instr.wf (.idleMarkZeroCharacter ⟨0, true, false, 20⟩) = true := by decide

/-! ### Bytes: the CRC's check value and the STATUS example of chapter 10 -/

theorem test_crc_checkValue : crc16 [0x31, 0x32, 0x33, 0x34, 0x35, 0x36, 0x37, 0x38, 0x39] = 0x29B1#16 := by
  decide +kernel

def exampleStatus : StatusBody :=
  { serial := 0x1A2B3C01, mode := 2, role := 2, flags := 0x0220, digest := 0x5E21, p := 1500, fReq := 1375,
    fEff := 1250, lit := 6, failed := 1, nextSeq := 216, present := 1 }

theorem test_statusBytes : frameHead ⟨1, 3⟩ (.status exampleStatus) =
    [0x21, 0x03, 0x15, 0x1A, 0x2B, 0x3C, 0x01, 0x02, 0x02, 0x02, 0x20, 0x5E, 0x21, 0x05, 0xDC, 0x05, 0x5F, 0x04,
      0xE2, 0x06, 0x01, 0x00, 0xD8, 0x01] := by decide +kernel

theorem test_statusFrame : (frameBytes ⟨1, 3⟩ (.status exampleStatus)).length = 26 ∧
    (lineBits (frameBytes ⟨1, 3⟩ (.status exampleStatus))).length = 286 ∧
    judgeFrame (frameBytes ⟨1, 3⟩ (.status exampleStatus)) = some (.statusReceived ⟨1, 3⟩ exampleStatus) := by
  decide +kernel

/-- A fixed-length type with another body length is a format error; a wrong CRC is no frame at all. -/
theorem test_formatError :
    judgeFrame ([0x70, 2, 1, 9] ++ bytes16 (crc16 [0x70, 2, 1, 9])) = some (.formatErrorFrame ⟨0, 2⟩) ∧
    judgeFrame [0x70, 2, 0, 0, 0] = none := by decide +kernel

/-- Ballast 3: lamp A lit at 80 %, lamp B off, warm, checksum 3 + 2 + 8 + 1 = 14; each kind of miss beside it. -/
theorem test_replyWords : judgeReply 3 0b0010_1000_0000_0000_0001_1110#24 = .good ⟨.warm, ⟨.lit, 8⟩, ⟨.off, 0⟩⟩ ∧
    judgeReply 4 0b0010_1000_0000_0000_0001_1110#24 = .miss .badChecksum ∧
    judgeReply 3 0b0101_1000_0000_0000_0001_0001#24 = .miss .malformed ∧
    judgeReply 3 0b1111_1111_1111_1111_1111_1111#24 = .miss .noReply := by decide

/-- Ballast 12, lamp A ON at 70 %, lamp B STRIKE: bytes 12, 2 and 1, 7 and 10, then turnaround, reply and gap. -/
theorem test_exchange :
    (let v : Visit := ⟨12, ⟨.on, 7⟩, ⟨.strike, 10⟩⟩
     v.command = [0x0C, 0x21, 0x7A] ∧ (v.exchange.take 24).map (fun x => if x.bdo then 1 else 0) =
       [0, 0, 0, 0, 1, 1, 0, 0, 0, 0, 1, 0, 0, 0, 0, 1, 0, 1, 1, 1, 1, 0, 1, 0] ∧
       v.exchange.drop 24 = List.replicate 32 ⟨true, true⟩ ++ List.replicate 8 ⟨false, true⟩) := by decide

/-! ### The states of the tests -/

/-- An image of a bank with two modules, lamps 1–8 fitted, four ballasts, Z = 12.00 m³. -/
def image : List Byte :=
  [214, 32, 1, 72, 0, 117, 48, 10, 1, 244, 3, 232, 1, 244, 19, 136, 78, 32, 2, 88, 20] ++
  [1, 244, 2, 88, 2, 38, 2, 138, 2, 88, 2, 188, 2, 138, 2, 238, 2, 188, 3, 32, 2, 238, 3, 82, 3, 32, 3, 132] ++
  [3, 82, 3, 182, 38, 72, 0, 120, 2, 0, 0, 255, 4, 3, 232, 0, 120, 2, 0, 60, 70, 167, 124]

/-- The same image with seven modules and its CRC: well formed and out of range. -/
def imageOutOfRange : List Byte := (image.take 57) ++ [7] ++ ((image.drop 58).take 12) ++ [231, 178]

theorem test_image : image.length = 72 ∧ imageFailure image = none ∧ imageDigest image = 0x21FB#16 ∧
    imageFailure imageOutOfRange = some .imageRange ∧ imageFailure (image.take 71) = some .imageCrc := by
  decide +kernel

theorem test_imageFields : (let c := parseImage image
    c.dT = 30000 ∧ c.margin = 10 ∧ c.vP = 500 ∧ c.z = 1200 ∧ c.qMin = 500 ∧ c.qDesign = 5000 ∧ c.nMod = 2 ∧
      c.fitted = 0x0000FF#24 ∧ c.ballasts = 4 ∧ c.eNom = 1000 ∧ c.warmup = 120 ∧ c.minLit = 2 ∧ c.wipeMin = 60 ∧
      c.table.length = 8) := by decide +kernel

def lamp (i : Nat) (st : LampState) (minutes day : Nat) : Lamp :=
  { (Lamp.fresh i).enter false 10 st with fitted := decide (i ≤ 8), e := if i ≤ 8 then 1000 else 0
                                          runMinutes := minutes, strikesDay := day }

/-- Lamps 1 and 2 LIT, the other fitted ones OFF. -/
def lamps : List Lamp :=
  (List.range 24).map fun k => lamp (k + 1) (if k < 2 then .lit else .off) 0 0

/-- An ACTIVE peer of channel 0 with the own digest. -/
def peer (pos p : Nat) : RosterEntry :=
  { freshEntry 0 pos (some (BitVec.ofNat 32 (100 + pos))) with
    state := .active, mode := some .dosing, digest := some 0x21FB, p := some p }

/-- The same peer LOST for `age` milliseconds. -/
def lostPeer (pos age : Nat) : RosterEntry := { peer pos 0 with state := .lost, sinceLost := some age }

/-- A bank at channel 0, position 2, with flow, UVT and wiper fitted, in mode `m`, that hears `peers`. -/
def bank (m : BankMode) (up down : List RosterEntry) : State :=
  let s : State := { State.reset with
    ctl := { State.reset.ctl with mode := m, statusTimer := some 0 }
    ldr := { State.reset.ldr with
      straps := { channel := 0, position := 2, flowSrc := true, uvtSrc := true, wipeFit := true }
      cfg := parseImage image, digest := some 0x21FB }
    ros := { State.reset.ros with entries := up ++ [selfEntry 0 2 1] ++ down }
    trk := { State.reset.trk with accrual := some 0 }
    seq := { State.reset.seq with lamps := lamps }
    link := { State.reset.link with phase := .running, count := 4, cycleTimer := some 0 }
    scn := { State.reset.scn with timer := some 0 }
    wip := { State.reset.wip with state := .parked, whome := true, interval := some 0 } }
  let s := judgeRoster s
  s.setRos { s.ros with role := if m.doses then roleOf s.ros.up s.ros.down else .noRole }

def soleBank : State := bank .dosing [] []
def headBank : State := bank .dosing [] [peer 3 2500]
def midBank : State := bank .dosing [peer 1 2000] [peer 3 2500]
def tailBank : State := bank .dosing [peer 1 2000] []
def holding : State := bank .hold [] []
def listening : State := (bank .listen [] []).setCtl { (bank .listen [] []).ctl with listenTimer := some 1999 }
def isolated : State := bank .isolated [] []
def failsafe : State :=
  { State.reset with
    ctl := { State.reset.ctl with mode := .failsafe, statusTimer := some 0 }
    ldr := { State.reset.ldr with failure := some .imageCrc } }
def heldInReset : State := State.reset.setHold { noHold with held := true, resetn := true, resetnLow := true }

theorem test_roles : soleBank.ros.role = .sole ∧ headBank.ros.role = .head ∧ midBank.ros.role = .mid ∧
    tailBank.ros.role = .tail ∧ listening.ros.role = .noRole ∧ midBank.ros.up = some 1 ∧ midBank.ros.down = some 3 := by
  decide +kernel

/-- The state after a command that completes. -/
def after (c : Instr) (s : State) : State :=
  match exec c s with
  | .next t => t
  | _ => s

/-- The characters of the frame in flight. -/
def sent (s : State) : List (BitVec 11) := (s.bus.inFlight.map sentChars).getD []

/-- The state after the frame in flight has been read back as sent. -/
def completed (s : State) : State := after (.transmitComplete (sent s)) s

/-- The state after its first character has been read back as eleven bits of 1. -/
def collided (s : State) : State := after (.collision [0x7FF]) s

def record (a b : Nat) (entry exit dose : Nat) : ParcelRec :=
  { firstSeq := BitVec.ofNat 16 a, lastSeq := BitVec.ofNat 16 b, entryMark := BitVec.ofNat 32 entry
    exitMark := BitVec.ofNat 32 exit, dose := dose, origin := 1, flags := 0 }

def parcel (dest a b dose : Nat) : ParcelBody :=
  { recipient := BitVec.ofNat 8 dest, firstSeq := BitVec.ofNat 16 a, lastSeq := BitVec.ofNat 16 b
    dose := BitVec.ofNat 24 dose, flags := 0, origin := 1 }

def frame (b : Body) (ticket : Nat) : Frame := { src := ⟨0, 2⟩, body := b, coll := 0, ticket := ticket }

/-- `n` PARCELs from number 301 on. -/
def parcels (n : Nat) : List Frame := (List.range n).map fun k => frame (.parcel (parcel 3 (301 + k) (301 + k) 5000)) k

/-! ### Worked examples of the manual -/

/-- 1.4: creation at high flow, three expiries. -/
def creationStep (t : Tracker) : Tracker := (t.count 40000).create 6000 1 500

theorem test_creationAtHighFlow :
    (let t0 := { State.reset.trk with
       counter := 70320, creationMark := 70000, creating := true, nextExpected := some 400 }
     let t1 := creationStep t0
     let t2 := creationStep t1
     let t3 := creationStep t2
     t1.creationMark = 71000 ∧ t1.nextExpected = some 402 ∧ t2.creationMark = 71500 ∧ t2.nextExpected = some 403 ∧
       t3.creationMark = 72500 ∧ t3.nextExpected = some 405 ∧
       t3.queue.map (fun r => (r.firstSeq, r.lastSeq, r.entryMark, r.exitMark)) =
         [(400, 401, 71120, 77120), (402, 402, 71920, 77920), (403, 404, 72720, 78720)]) := by decide +kernel

/-- 1.9: the arrival of 119, expiries 1 and 2, and the residues of expiries 6 to 8. -/
theorem test_recordThroughABank :
    (let t0 := { State.reset.trk with
       counter := 50000, queue := [record 118 118 49100 50300 20000], nextExpected := some 119 }
     let t1 := ((t0.accept 1200 3 (record 119 119 0 0 18400)).count 20000).credit 1250 0
     let t2 := (t1.exit.count 20000).credit 1250 0
     let t6 := { t2 with counter := 51050, residue := 0 }.count 2537
     let t7 := t6.count 2537
     let t8 := t7.count 2537
     t1.leaving = [record 118 118 49100 50300 20000] ∧ t1.nextExpected = some 120 ∧
       t2.queue = [record 119 119 50000 51200 23400] ∧ t2.counter = 50800 ∧ t6.residue = 37 ∧ t6.counter = 51100 ∧
       t7.residue = 24 ∧ t7.counter = 51151 ∧ t8.residue = 11 ∧ t8.counter = 51202) := by decide +kernel

/-- 2.8 step 4: bank 3 adopts 212 past the lost bank 2, with one placeholder for 205–211; one adoption counted. -/
theorem test_adoptionWithPlaceholder :
    (let b := bank .dosing [peer 1 2000] []
     let s := b.setLdr { b.ldr with straps := { b.ldr.straps with position := 3 } }
     let s := s.setTrk { s.trk with nextExpected := some 205, watermark := some 214 }
     let t := after (.parcelReceived ⟨0, 1⟩ (parcel 2 212 212 9000)) s
     t.trk.queue.map (fun r => (r.firstSeq, r.lastSeq, r.flags)) = [(205, 211, 2), (212, 212, 0)] ∧
       t.trk.nextExpected = some 213 ∧ t.trk.placeholders = 1 ∧ t.trk.adoptions = 1 ∧
       t.trk.watermark = some 214) := by decide +kernel

/-- 2.8 step 7: start_seq is the watermark 219 + 256. -/
theorem test_startSeq : ({ State.reset.trk with watermark := some 219 } : Tracker).guardedStart = 475 := by decide

/-- 4.7: bank 2 of three with 200.0, 150.0 and 250.0. -/
def planBank (third : Nat) : State :=
  let s := bank .dosing [peer 1 2000] [peer 3 third]
  let s := s.setLdr { s.ldr with cfg := { s.ldr.cfg with
    z := 1000, minLit := 0, table := (List.range 8).map fun k => (500 + 50 * k, 1000) } }
  let s := setLamps s (s.seq.lamps.map fun l => { l with fitted := decide (l.index ≤ 3) })
  (s.setPln { s.pln with flow := .normal 10000 }).setTrk { s.trk with
    counter := 100000
    queue := [record 1 1 99005 100005 16000, record 2 2 99150 100150 18000, record 3 3 99600 100600 11000,
      record 4 4 99800 100800 12500]
    nextExpected := some 5 }

theorem test_planOfThreeBanks :
    (let s := computePlan (planBank 2500) 10000
     fMax s = 1500 ∧ capacityP s = 1500 ∧ totalP s = 6000 ∧
       s.pln.plan = some ⟨[(2, 8250), (1, 11000), (3, 13750)], 19250⟩ ∧ baseRate s 10000 = 825 ∧
       (s.trk.queue.map (recordRate s 10000 19250)) = [0, 834, 1375, 844] ∧
       (computeSetpoint s 10000).pln.fReq = 1375) := by decide +kernel

theorem test_planAfterALoss :
    (let s := computePlan (planBank 1000) 10000
     s.pln.plan = some ⟨[(2, 11000), (1, 14667), (3, 7333)], 25667⟩ ∧ baseRate s 10000 = 1100 ∧
     (let s := computePlan (planBank 1000) 20000
      s.pln.shortfall = true ∧ s.pln.plan = none ∧ (computeSetpoint s 20000).pln.fReq = 1500)) := by decide +kernel

/-- 5.9: the table at the start, every lamp adding 5.00 to F_lit_full. -/
def strikeBank (fReq : Nat) : State :=
  let s := bank .dosing [] []
  let s := s.setLdr { s.ldr with cfg := { s.ldr.cfg with table := (List.range 8).map fun k => (500 + 50 * k, 1000) } }
  let s := setLamps s ([lamp 1 .lit 3000 1, lamp 2 .lit 2800 1, lamp 3 .off 1200 0, lamp 4 .off 900 8,
    lamp 5 .off 950 2, lamp 6 .off 1500 0, lamp 7 .off 950 0, lamp 8 .off 2000 0] ++ lamps.drop 8)
  let s := s.setLink (s.link.mapBallast 4 (BallastRec.answered .warm))
  s.setPln { s.pln with fReq := fReq }

theorem test_levelAtTheStart : (lampEvent (strikeBank 800)).seq.level = 8 ∧
    strikeRule (strikeBank 800) = false ∧ extinguishHolds (strikeBank 800) = false := by decide +kernel

theorem test_strikeOfLampFive :
    (let t := lampEvent (strikeBank 900)
     (lampAt t 5).map (fun l => (l.state, l.slot, l.strikesDay, l.strikes)) =
       some (.striking, ⟨.strike, 10⟩, 3, 1) ∧
     t.seq.level = 9 ∧ t.seq.spacing = some 0 ∧ fCommitted t = 1500 ∧
     (lampAt t 1).map (·.slot) = some ⟨.on, 9⟩) := by decide +kernel

/-- 7.8: four out-of-range scans empty the window, twenty valid ones clear the fault. -/
theorem test_sensorFaultsAndRecovers :
    (let x0 : Input := ⟨[160, 160, 160, 160], false, 0, 20⟩
     let bad (x : Input) : Input := x.sample false 1023
     let good (x : Input) : Input := x.sample true 160
     let x3 := bad (bad (bad x0))
     let x4 := bad x3
     let x28 := (List.range 19).foldl (fun x _ => good x) x4
     x3 = ⟨[160, 160, 160, 160], false, 3, 0⟩ ∧ x4 = ⟨[], true, 0, 0⟩ ∧
       x28 = ⟨[160, 160, 160, 160], true, 0, 19⟩ ∧ good x28 = ⟨[160, 160, 160, 160], false, 0, 0⟩) := by
  decide +kernel

/-- 7.8: the contributions before the fault and while module 2 is estimated. -/
theorem test_estimatedContribution :
    (let s := strikeBank 900
     let s := setLamps s (s.seq.lamps.map fun l =>
       if l.index = 1 ∨ l.index = 2 ∨ l.index = 5 ∨ l.index = 6 then
         { lamp l.index .lit 0 0 with slot := ⟨.on, 7⟩ } else lamp l.index .off 0 0)
     let two (x : Input) : State :=
       s.setScn { s.scn with
         inputs := [⟨[160, 160, 160, 160], false, 0, 20⟩, x] ++ s.scn.inputs.drop 2, fEffBegun := true }
     fEff (two ⟨[160, 160, 160, 160], false, 0, 20⟩) = 1400 ∧ fEff (two ⟨[], true, 0, 0⟩) = 1050 ∧
       moduleEstimated (two ⟨[], true, 0, 0⟩) 2 = true) := by decide +kernel

/-- 8.9: bank 5 in its claim window meets the claim of bank 2. -/
theorem test_lowerClaimWins :
    (let b := bank .dosing [] []
     let s := b.setLdr { b.ldr with straps := { b.ldr.straps with position := 5 } }
     let s := s.setWip { s.wip with state := .claiming, window := some 119 }
     let t := after (.wipeClaimReceived ⟨0, 2⟩) s
     t.wip.state = .want ∧ t.wip.wait = some ⟨2, 120000⟩ ∧ t.wip.withdrawals = 1 ∧ t.wip.window = none) := by
  decide +kernel

/-- 9.7: the waits of banks A, B and C. -/
theorem test_accessWaits :
    waitFor (frame (.parcel (parcel 3 1 1 0)) 0) (slotOf 0 3) 0 = 2 ∧
    waitFor (frame (.parcel (parcel 3 1 1 0)) 0) (slotOf 0 3) 36 = 38 ∧
    waitFor (frame (.discharge ⟨1, 1, 0, 0, 1, 0⟩) 0) (slotOf 1 2) 0 = 81 ∧
    waitFor (frame (.status exampleStatus) 0) (slotOf 0 1) 36 = 180 := by decide

/-- 9.8: the full queue through its events 2 to 6. -/
def fullQueue : State :=
  soleBank.setBus { soleBank.bus with
    queue := parcels 10 ++ [frame (.flow ⟨0, 0⟩) 10, frame (.status exampleStatus) 11], nextTicket := 12
    inFlight := some ⟨frame (.parcel (parcel 3 300 300 5000)) 13, false⟩ }

theorem test_fullQueue :
    (let s2 := post fullQueue (.parcel (parcel 3 311 311 5000))
     let s3 := post s2 (.parcel (parcel 3 312 312 5000))
     let s4 := post s3 (.parcel (parcel 3 313 314 4000))
     let s5 := post s4 (.flow ⟨0, 0⟩)
     let s6 := collided s5
     s2.bus.dropped = 1 ∧ s2.bus.queue.length = 12 ∧ s3.bus.dropped = 2 ∧ s4.bus.dropped = 2 ∧
       s4.bus.queue.getLast?.map (·.body) =
         some (.parcel { parcel 3 312 314 4000 with flags := 4 }) ∧
       s5.bus.dropped = 3 ∧ s6.bus.dropped = 4 ∧ s6.bus.lost = 1 ∧ s6.bus.collisions = 1 ∧
       s6.bus.queue.head?.map (·.body) = some (.parcel (parcel 3 300 300 5000)) ∧ s6.bus.busFault = false) := by
  decide +kernel

def plant : Src := ⟨15, 2⟩

def toBank (a1 a2 : Nat) : CommandBody := ⟨0, 2, BitVec.ofNat 8 a1, BitVec.ofNat 8 a2⟩

/-- 11.5: a QUERY of the 28 counters in two frames. -/
theorem test_queryOfTheCounters :
    (let t := after (.query plant (toBank (2 * 64 + 64) 28)) soleBank
     t.cmd.reply = some (.running 3 20 8 0) ∧ t.bus.queue.map (fun f => f.body.bytes.length) = [45] ∧
     (let u := completed (after (.transmitStart 145) (after .quietGapEnd t))
      u.cmd.reply = some (.running 3 28 0 1) ∧ u.bus.queue.map (fun f => f.body.bytes.length) = [21])) := by
  decide +kernel

/-! ### Witnesses: steps and resets -/

theorem witness_EmptyQueueStepIsOneMillisecond : heldInReset.pending = [] ∧ heldInReset.hold.held = true ∧
    listening.pending = [] ∧ listening.hold.held = false ∧ (tick listening).pending = [.listenEnd] ∧
    (tick soleBank).pending = [] := by decide +kernel

/-- Every timer and age one millisecond short of its limit, and what then falls due. -/
theorem witness_EveryTimerFallsDue :
    (let s := bank .dosing [{ peer 1 0 with lastHeard := 2999 }, { peer 3 0 with state := .lost, sinceLost := some 299999 }] []
     let s := s.setCtl { s.ctl with statusTimer := some 999 }
     let s := s.setTrk { s.trk with accrual := some 199, brk := some ⟨7, 1⟩ }
     let s := s.setPln { s.pln with
       flowSource := some ⟨1, 2999⟩, flowDup := some 2999, flowTimer := some 999, uvtSource := some ⟨1, 14999⟩
       uvtDup := some 2999, uvtTimer := some 4999, holdTimer := some 29999 }
     let s := s.setSeq { s.seq with
       spacing := some 4999, holdoff := some 599999, day := 86399999
       lamps := s.seq.lamps.map fun l =>
         if l.index = 1 then { lamp 1 .striking 0 0 with attempt := 2, timer := 5999 }
         else if l.index = 2 then { lamp 2 .warming 0 0 with timer := 119999, residue := 59999 }
         else if l.index = 3 then { lamp 3 .cooling 0 0 with timer := 59999 } else l }
     let s := s.setLink { s.link with cycleTimer := some 249 }
     let s := s.setScn { s.scn with timer := some 99 }
     let s := s.setWip { s.wip with
       stroke := some 39999, release := some 1999, interval := some 3599999, window := some 399, wait := some ⟨3, 1⟩ }
     let s := s.setCmd { s.cmd with restart := some ⟨999, none, some 1⟩ }
     s.pending = [] ∧ s.hold.held = false ∧ (tick s).pending.length = 27 ∧
       ([.accrualTimerExpiry, .statusTimerExpiry, .flowTimerExpiry, .uvtTimerExpiry, .flowSourceLapse,
         .flowSourceDupClear, .uvtSourceLapse, .uvtSourceDupClear, .holdTimerExpiry, .rosterEntryLost ⟨0, 1, some 101⟩,
         .rosterEntryRemove ⟨0, 3, some 103⟩, .pendingBreakExpiry, .restartTimeout, .pollCycleDue] : List Instr).all
         (fun c => (tick s).pending.contains c) = true ∧
       ([.strikeAttemptExpiry 1, .warmupEnd 2, .runMinute 2, .coolingEnd 3, .strikeSpacingExpiry,
         .extinguishHoldoffExpiry, .dayTimerExpiry, .scanStart, .wipeIntervalExpiry, .claimWindowExpiry,
         .waitRecordExpiry, .strokeTimerExpiry, .releaseTimerExpiry] : List Instr).all
         (fun c => (tick s).pending.contains c) = true) := by decide +kernel

/-- The state timer of a lamp stands in readback and runs after it (R94). -/
theorem witness_StateTimersAwaitReadback :
    (let reading := soleBank.setLink { soleBank.link with phase := .readback [], visit := some (visitOf soleBank 1) }
     (lampAt (tick reading) 3).map (·.timer) = some 0 ∧ (lampAt (tick soleBank) 3).map (·.timer) = some 1 ∧
       (lampAt (tick State.reset) 3).map (·.timer) = some 0) := by decide +kernel

theorem test_stepTakesTheFrontCommand :
    step (State.reset.setPending [.supplyLowChange 2990, .listenEnd]) =
      exec (.supplyLowChange 2990) (State.reset.setPending [.listenEnd]) := rfl

/-- Released at 2.95 V. -/
def pins (fit whome wend : Bool) : ResetPins :=
  { supply := 2950, resetn := true, ch := 1, pos := 2, flowSrc := true, uvtSrc := false, wipeFit := fit
    whome := whome, wend := wend, lockouts := 5 }

def causeAfter (h : ResetHold) : ResetCause :=
  (after (.resetRelease (pins true true false)) (State.reset.setHold h)).ctl.resetCause

/-- Held and not held, the four rows of the cause, and the limits at release. -/
theorem witness_ResetIsHeldAndReleased : heldInReset.hold.held = true ∧ State.reset.hold.held = false ∧
    causeAfter ⟨true, true, true, true, true, true, true⟩ = .powerOn ∧
    causeAfter ⟨true, true, true, false, true, true, true⟩ = .supply ∧
    causeAfter ⟨true, true, true, false, false, true, true⟩ = .pin ∧
    causeAfter ⟨true, false, true, false, false, false, true⟩ = .restart ∧
    (after (.resetRelease (pins false true true)) heldInReset).wip.state = .absent ∧
    (after (.resetRelease (pins true true false)) heldInReset).wip.state = .parked ∧
    (after (.resetRelease (pins true true true)) heldInReset).wip.state = .fault ∧
    (after (.resetRelease (pins true false true)) heldInReset).wip.state = .homing := by decide +kernel

theorem test_releaseLatches :
    (let t := after (.resetRelease (pins true true false)) heldInReset
     t.ldr.straps = ⟨1, 3, true, false, true⟩ ∧ t.ldr.supply.low = true ∧ t.seq.lockouts = 5 ∧
       t.hold.held = false) := by decide +kernel

/-- A bank that has gone below the reset level. -/
def brownedOut : State := after (.supplyBelowReset 2799) soleBank

/-- What RESET_RELEASE leaves of the hold, the supply at `mv` and RESETN high or low. -/
def heldAt (mv : Nat) (resetn : Bool) (s : State) : Bool :=
  (after (.resetRelease { pins false false false with supply := mv, resetn := resetn }) s).hold.held

/-- R194: 2.80 V is passed going up at 2.85 V, and a cause that stands keeps the part held though another has ended. -/
theorem test_heldWhileACauseStands : brownedOut.hold.held = true ∧ heldAt 2840 true brownedOut = true ∧
    heldAt 2860 true brownedOut = false ∧ heldAt 2840 true heldInReset = false ∧
    heldAt 2860 false heldInReset = true ∧ heldAt 2790 true heldInReset = true ∧
    heldAt 2860 false (after (.resetnLow 10) brownedOut) = true ∧
    heldAt 2840 true (after (.resetnLow 10) brownedOut) = true ∧
    heldAt 2860 true (after (.resetnLow 10) brownedOut) = false := by decide +kernel

/-- R194's two examples: SUPPLY while RESETN is already low, and POWER_ON through the retention level. -/
theorem test_causesOfAFallInReset :
    (after (.resetRelease (pins false false false)) (after (.supplyBelowReset 2700) heldInReset)).ctl.resetCause =
      .supply ∧
    (after (.resetRelease (pins false false false)) (after (.supplyBelowReset 1490) heldInReset)).ctl.resetCause =
      .powerOn ∧
    (after (.resetRelease (pins false false false)) (after (.supplyBelowReset 1510) heldInReset)).ctl.resetCause =
      .supply := by decide +kernel

def lowSupply : State := soleBank.setLdr { soleBank.ldr with supply := ⟨true, false, false⟩ }

def restarting : State := soleBank.setCmd { soleBank.cmd with restart := some ⟨999, some 0, some 1⟩ }

/-- A restart that waits for the LEAVE in flight alone, of `coll` collisions. -/
def lastFrame (coll : Nat) : State :=
  (soleBank.setBus { soleBank.bus with inFlight := some ⟨{ frame (.leave 4) 7 with coll := coll }, false⟩ }).setCmd
    { soleBank.cmd with restart := some ⟨1, none, some 7⟩ }

theorem witness_ResetClearsTheDoseAccount : soleBank.hold.held = false ∧ restarting.hold.held = false ∧
    BeginsReset (.supplyBelowReset 1400) soleBank ∧ BeginsReset (.supplyLowChange 2799) soleBank ∧
    BeginsReset (.resetnLow 10) soleBank ∧
    BeginsReset .restartTimeout restarting ∧ BeginsReset (.restart plant (toBank 0 0)) listening ∧
    BeginsReset (.transmitComplete (sent (lastFrame 0))) (lastFrame 0) ∧
    BeginsReset (.collision [0x7FF]) (lastFrame 15) := by
  refine ⟨by decide +kernel, by decide +kernel, .inl ⟨1400, .inl rfl, by decide +kernel⟩,
    .inl ⟨2799, .inr rfl, by decide +kernel⟩, .inr (.inl ⟨10, rfl, by decide⟩),
    .inr (.inr (.inl ⟨rfl, by decide +kernel⟩)), .inr (.inr (.inr (.inl ⟨_, _, rfl, ?_⟩))),
    .inr (.inr (.inr (.inr ⟨⟨frame (.leave 4) 7, false⟩, rfl, ⟨_, rfl, .inl rfl, .inr rfl⟩, .inl rfl⟩))),
    .inr (.inr (.inr (.inr
      ⟨⟨{ frame (.leave 4) 7 with coll := 15 }, false⟩, rfl, ⟨_, rfl, .inl rfl, .inr rfl⟩,
        .inr ⟨⟨_, rfl, 0, (sent (lastFrame 15)).headD 0, 0x7FF, by decide +kernel, by decide +kernel, rfl⟩, rfl,
          by decide⟩⟩)))⟩
  unfold TakesFrames Runs AimedHere; decide +kernel

theorem witness_ResetReturnsEveryBlock : (after (.resetnLow 10) tailBank).ctl.mode = .loading ∧
    (after (.supplyBelowReset 1500) tailBank).hold = ⟨true, false, false, false, true, false, false⟩ ∧
    (after .restartTimeout restarting).hold = ⟨true, false, true, false, false, false, true⟩ ∧
    (after (.resetnLow 10) tailBank).hold = ⟨true, true, false, false, false, true, false⟩ ∧
    (after (.supplyBelowReset 1499) tailBank).hold = ⟨true, false, false, true, true, false, false⟩ ∧
    (after (.supplyLowChange 2799) tailBank).hold = ⟨true, false, false, false, true, false, false⟩ ∧
    (after (.restart plant (toBank 0 0)) listening).hold = ⟨true, false, true, false, false, false, true⟩ ∧
    (completed (lastFrame 0)).hold.held = true ∧
    (collided (lastFrame 15)).hold.held = true ∧ (collided (lastFrame 14)).hold.held = false := by
  decide +kernel

theorem witness_SupplyLowAndIndicationsMove : soleBank.hold.held = false ∧ soleBank.bus.inFlight = none ∧
    fullQueue.hold.held = false ∧ fullQueue.bus.inFlight.isSome = true ∧
    ReadsSupply (.supplyBelowReset 2800) 2800 ∧ (supplyAt soleBank.ldr.supply 2800).belowReset = false ∧
    (after (.supplyLowChange 2999) soleBank).ldr.supply.low = true ∧
    (after (.supplyLowChange 3000) soleBank).ldr.supply.low = false ∧
    (after (.supplyLowChange 3050) lowSupply).ldr.supply.low = true ∧
    (after (.supplyLowChange 3051) lowSupply).ldr.supply.low = false ∧
    (after .servedFlagClear (soleBank.setBus { soleBank.bus with served := true })).bus.served = false := by
  unfold ReadsSupply; decide +kernel

/-! ### Witnesses: loading and modes -/

def onceFailed (n : Nat) : State := State.reset.setLdr { State.reset.ldr with attempts := n }

theorem witness_FailedLoadEntersFailsafe : Runs State.reset ∧ Runs (onceFailed 1) ∧ Runs (onceFailed 2) ∧
    (onceFailed 1).ctl.mode = .loading ∧ (onceFailed 2).ldr.attempts = 2 ∧
    imageFormed (image.take 71) = false ∧ imageFormed imageOutOfRange = true ∧
    rangesHold (parseImage imageOutOfRange) = false ∧
    (after .cfgBusError (onceFailed 1)).ctl.mode = .loading ∧
    (after .cfgBusError (onceFailed 2)).ldr.failure = some .imageAbsent ∧
    heldInReset.hold.held = true ∧ listening.ctl.mode = .listen ∧ (loaderSends State.reset).length = 78 ∧
    (loaderSends State.reset).take 5 = [.start, .address 0x50 false, .byte 0, .start, .address 0x50 true] ∧
    (loaderSends (after .cfgBusError State.reset)).take 3 = [.release, .stop, .start] ∧
    loaderSends (after .cfgBusError (onceFailed 2)) = [.release, .stop] ∧
    loaderSends (after (.imageReadComplete (image.take 71)) State.reset) = [] ∧ loaderSends listening = [] ∧
    loaderSends heldInReset = [] ∧
    (after (.imageReadComplete imageOutOfRange) State.reset).ldr.failure = some .imageRange := by
  unfold Runs; decide +kernel

theorem witness_LoadedImageEntersListen : Runs State.reset ∧ State.reset.ctl.mode = .loading ∧
    imageFormed image = true ∧ rangesHold (parseImage image) = true ∧
    (after (.imageReadComplete image) State.reset).ctl.mode = .listen := by
  unfold Runs; decide +kernel

/-- The ranges at their ends and a step outside: Z at 14 × V_p, 1.2 × Q_min at Q_span, D_t, the mask and min_lit. -/
theorem witness_LoadedImageEntersListen_ranges :
    (let c := parseImage image
     rangesHold { c with z := 7000 } = true ∧ rangesHold { c with z := 7001 } = false ∧
       rangesHold { c with z := 0 } = false ∧ rangesHold { c with qSpan := 6000, qMin := 5000 } = true ∧
       rangesHold { c with qSpan := 6000, qMin := 5001 } = false ∧ rangesHold { c with dT := 4999 } = false ∧
       rangesHold { c with dT := 400000 } = true ∧ rangesHold { c with fitted := 0x0001FF } = false ∧
       rangesHold { c with minLit := 8 } = true ∧ rangesHold { c with minLit := 9 } = false ∧
       rangesHold { c with table := c.table.reverse } = false ∧ c.table.head? = some (500, 600) ∧
       imageFormed (image.set 71 125) = false ∧ imageFormed (image.set 0 0) = false) := by decide +kernel

def listeningAmong (up down : List RosterEntry) : State :=
  let s := bank .listen up down
  (s.setCtl { s.ctl with listenTimer := some 2000 }).setTrk { s.trk with watermark := some 219 }

def held (r : Reply) : State := (listeningAmong [] []).setCmd { State.reset.cmd with reply := some r }

/-- Ten frames wait, the most the statement takes. -/
def tenWaiting : State :=
  (listeningAmong [] []).setBus { State.reset.bus with queue := parcels 10, nextTicket := 10 }

theorem witness_ListenEndsWithAJoin :
    (∀ s ∈ [listeningAmong [] [], listeningAmong [] [peer 3 1], listeningAmong [peer 1 1] [], tenWaiting,
        held (.heldAnswer 1 0), held (.heldQuery 3 0 28), held (.heldQuery 2 0 9)],
      Runs s ∧ ParcelsInv s ∧ s.ctl.mode = .listen ∧ reasonStands s = false ∧ s.bus.queue.length ≤ 10) ∧
    (after .listenEnd (listeningAmong [] [])).ros.role = .sole ∧
    (after .listenEnd (listeningAmong [] [peer 3 1])).ros.role = .head ∧
    (after .listenEnd (listeningAmong [peer 1 1] [])).ros.role = .tail ∧
    (after .listenEnd (listeningAmong [] [])).trk.nextExpected = some 475 ∧
    (after .listenEnd tenWaiting).bus.queue.length = 11 ∧
    capability (listeningAmong [] []) = 0b00111010 ∧
    (let bare := (listeningAmong [] []).setLdr { (listeningAmong [] []).ldr with
       straps := ⟨0, 2, false, false, true⟩, cfg := { (parseImage image) with nMod := 6 } }
     capability bare = 0b00001110) ∧
    (after .listenEnd (listeningAmong [] [])).pln.flowTimer = some 0 ∧
    (after .listenEnd (listeningAmong [] [])).pln.uvtTimer = some 0 ∧
    (after .listenEnd (held (.heldAnswer 1 0))).bus.queue.length = 2 ∧
    (after .listenEnd (held (.heldQuery 2 0 9))).cmd.reply = some (.running 2 1 0 1) ∧
    (after .listenEnd (held (.heldQuery 3 0 28))).cmd.reply = some (.running 3 20 8 1) := by
  unfold Runs ParcelsInv Tracker.sound; decide +kernel

/-- A second board at the own address. -/
def twin : RosterEntry := peer 2 0

theorem witness_ReasonsIsolateTheBank :
    (let s := listeningAmong [] [twin]
     Runs s ∧ s.ctl.mode = .listen ∧ reasonStands s = true ∧ s.cmd.reply = none ∧
       (after .listenEnd s).ctl.mode = .isolated) ∧
    (soleBank.ctl.mode.doses = true ∧
      reasonStands (judgeRoster (soleBank.setRos { soleBank.ros with entries := [selfEntry 0 2 1, twin] })) = true) ∧
    (isolated.ctl.mode = .isolated ∧
      reasonStands (judgeRoster (isolated.setRos { isolated.ros with entries := [selfEntry 0 2 1, twin] })) = true) ∧
    (reasonStands (judgeRoster isolated) = false ∧ (settle isolated).ctl.mode = .dosing) := by
  unfold Runs; decide +kernel

/-- The bus at the entry, with a PARCEL waiting: a PARCEL in flight, a STATUS in flight, and in CLAIMING the own claim
waiting, in flight, and sent; F_req and the lamps that it strikes. -/
theorem witness_ReasonsIsolateTheBank_bus :
    (let doubled (x : Option InFlight) (q : List Frame) (claim : Option Nat) : State :=
       let s := bank .dosing [] [twin]
       let s := s.setBus { s.bus with inFlight := x, queue := q ++ parcels 1, nextTicket := 9 }
       if claim.isSome then s.setWip { s.wip with state := .claiming, claim := claim } else s
     let cases := [doubled (some ⟨frame (.parcel (parcel 3 300 300 5000)) 8, false⟩) [] none,
       doubled (some ⟨frame (.status exampleStatus) 8, false⟩) [] none, doubled none [frame .wipeClaim 7] (some 7),
       doubled (some ⟨frame .wipeClaim 8, false⟩) [] (some 8),
       doubled (some ⟨frame (.parcel (parcel 3 300 300 5000)) 8, false⟩) [] (some 7)]
     (∀ s ∈ cases, s.ctl.mode.doses = true ∧ reasonStands (judgeRoster s) = true ∧ s.bus.queue.length < 12 ∧
       IsolationEntered 1 s (settle s) ∧ (settle s).bus.lost = 1 ∧
       (settle s).bus.queue.map (·.body) = [.leave 1]) ∧
     cases.map (fun s => (settle s).bus.inFlight.map (·.withdrawn)) =
       [some true, some false, none, some true, some true] ∧
     (∀ s ∈ cases, (settle s).pln.fReq = 2800 ∧ lampIn (settle s) 3 .striking = true)) := by
  unfold IsolationEntered EndsAsLampEvent; decide +kernel

/-- A held answer and a held QUERY when LISTEN ends in ISOLATED. -/
theorem witness_ReasonsIsolateTheBank_held :
    (let s (r : Reply) : State := (listeningAmong [] [twin]).setCmd { State.reset.cmd with reply := some r }
     (∀ r ∈ [Reply.heldAnswer 1 0, .heldQuery 3 0 28, .heldQuery 2 0 9],
       Runs (s r) ∧ (s r).ctl.mode = .listen ∧ reasonStands (s r) = true ∧ (s r).bus.queue.length ≤ 10 ∧
         (after .listenEnd (s r)).ctl.mode = .isolated ∧ (after .listenEnd (s r)).bus.queue.length = 2) ∧
     (after .listenEnd (s (.heldAnswer 1 0))).cmd.reply = none ∧
     (after .listenEnd (s (.heldQuery 3 0 28))).cmd.reply = some (.running 3 20 8 1) ∧
     (after .listenEnd (s (.heldQuery 2 0 9))).cmd.reply = some (.running 2 2 0 1)) := by
  unfold Runs; decide +kernel

/-- The return from ISOLATED alone, with a watermark, at HEAD, at MID and at TAIL. -/
theorem witness_ReasonsIsolateTheBank_return :
    (let known (s : State) : State := s.setTrk { s.trk with watermark := some 219, counter := 77 }
     (∀ s ∈ [isolated, known isolated, bank .isolated [] [peer 3 1], bank .isolated [peer 1 1] [peer 3 1],
         bank .isolated [peer 1 1] []],
       s.ctl.mode = .isolated ∧ reasonStands (judgeRoster s) = false ∧ ParcelsInv s) ∧
     (settle isolated).pln.flowTimer = some 0 ∧
     (let running := isolated.setPln { isolated.pln with flowTimer := some 7 }
      (settle running).pln.flowTimer = some 7 ∧ (settle running).pln.uvtTimer = some 0) ∧
     (settle isolated).trk.nextExpected = some 256 ∧ (settle isolated).trk.firstResync = true ∧
     (settle (known isolated)).trk.nextExpected = some 475 ∧ (settle (known isolated)).trk.creationMark = 77 ∧
     (settle (bank .isolated [] [peer 3 1])).ros.role = .head ∧
     (settle (bank .isolated [peer 1 1] [peer 3 1])).ros.role = .mid ∧
     (settle (bank .isolated [peer 1 1] [])).ros.role = .tail ∧
     (settle (bank .isolated [peer 1 1] [])).trk.nextExpected = none) := by
  unfold ParcelsInv Tracker.sound; decide +kernel

/-- A tail that expects `ne`, has heard `w` announced and holds `q`, and whose upstream peer is LOST. -/
def bereft (ne w : Option Seq) (q : List ParcelRec) : State :=
  let s := tailBank.setRos { tailBank.ros with entries := [lostPeer 1 7, selfEntry 0 2 1] }
  s.setTrk { s.trk with nextExpected := ne, watermark := w, queue := q, counter := 77 }

/-- The rows of R45 at their boundaries, a placeholder behind a record and in a full queue; a bank that stops
creating, and one whose role stays on either side. -/
theorem witness_RoleChangesMoveTheCreation :
    (let full := (List.range 16).map fun k => record (k + 84) (k + 84) 0 1200 9
     (∀ s ∈ [bereft none none [], bereft none (some 9) [], bereft (some 100) none [], bereft (some 100) (some 100) [],
         bereft (some 100) (some 101) [], bereft (some 100) (some 164) [], bereft (some 100) (some 165) [],
         bereft (some 100) (some 150) [record 99 99 0 1200 9], bereft (some 100) (some 150) full],
       s.ctl.mode.doses = true ∧ reasonStands (judgeRoster s) = false ∧ s.ros.role = .tail ∧
         (settle s).ros.role = .sole ∧ (settle s).trk.creating = true ∧ (settle s).trk.creationMark = 77) ∧
     (([bereft none none [], bereft none (some 9) [], bereft (some 100) none [], bereft (some 100) (some 100) [],
         bereft (some 100) (some 101) [], bereft (some 100) (some 164) [], bereft (some 100) (some 165) []]).map
       fun s => ((settle s).trk.nextExpected, (settle s).trk.queue.length, (settle s).trk.firstResync)) =
         [(some 256, 0, false), (some 9, 0, false), (some 100, 0, false), (some 100, 0, false), (some 101, 1, false),
           (some 164, 1, false), (some 165, 0, true)] ∧
     (settle (bereft (some 100) (some 101) [])).trk.queue = [⟨100, 100, 77, 1277, 0, 2, 2⟩] ∧
     (settle (bereft (some 100) (some 150) [record 99 99 0 1200 9])).trk.queue.length = 2 ∧
     ((settle (bereft (some 100) (some 150) full)).trk.queue.getLast?.map fun r => (r.lastSeq, r.dose, r.flags)) =
       some (149, 0, 6) ∧
     (settle (bereft (some 100) (some 150) full)).trk.placeholders = 1) ∧
    (let ceases := soleBank.setRos { soleBank.ros with entries := [peer 1 1, selfEntry 0 2 1] }
     let creating := ceases.setTrk { ceases.trk with creating := true, firstResync := true, nextExpected := some 5 }
     creating.ctl.mode.doses = true ∧ reasonStands (judgeRoster creating) = false ∧ creating.ros.role = .sole ∧
       (settle creating).ros.role = .tail ∧ (settle creating).trk.creating = false ∧
       (settle creating).trk.nextExpected = some 5) ∧
    ((settle soleBank).trk = soleBank.trk ∧ (settle midBank).trk = midBank.trk ∧
      reasonStands (judgeRoster midBank) = false) := by decide +kernel

/-! ### Witnesses: the accrual expiry -/

def flowing (s : State) (f : FlowState) : State := s.setPln { s.pln with flow := f }

def residueAt (n : Nat) : State :=
  flowing (soleBank.setTrk { soleBank.trk with residue := n }) .reverse

theorem witness_DosingCountsTheFlow : Runs (residueAt 49) ∧ (residueAt 49).trk.accrual.isSome = true ∧
    (residueAt 49).ctl.mode = .dosing ∧ (residueAt 49).pln.flow = .reverse ∧ (residueAt 49).trk.residue ≤ 49 ∧
    (after .accrualTimerExpiry (residueAt 49)).trk.counter = 0 ∧
    (after .accrualTimerExpiry (flowing (residueAt 49) (.normal 1))).trk.counter = 1 ∧
    (after .accrualTimerExpiry soleBank).trk.counter = 100 := by
  unfold Runs; decide +kernel

theorem witness_RecordsAreCreditedAndLeave_otherModes :
    ∀ s ∈ [holding, listening, isolated], Runs s ∧ s.trk.accrual.isSome = true ∧ s.ctl.mode ≠ .dosing := by
  unfold Runs; decide +kernel

/-- Counter at 1000.00 m³ with a record that has passed its mark, one that reaches it and one that stays; the
stale flow adds 1.00 m³. -/
def leavingFrom (s : State) : State :=
  s.setTrk { s.trk with
    counter := 100000, nextExpected := some 4
    queue := [record 1 1 98850 100050 100, record 2 2 98900 100100 30000, record 3 3 98901 100101 300] }

theorem witness_RecordsAreCreditedAndLeave :
    (∀ s ∈ [leavingFrom soleBank, leavingFrom midBank],
      Runs s ∧ s.trk.accrual.isSome = true ∧ s.ctl.mode.doses = true ∧ s.wip.state ≠ .want ∧
        s.wip.state ≠ .claiming) ∧
    (after .accrualTimerExpiry (leavingFrom midBank)).trk.queue.map (·.firstSeq) = [3] ∧
    ((after .accrualTimerExpiry (leavingFrom midBank)).bus.queue.map fun f => f.body.typeCode) = [5, 5] ∧
    (after .accrualTimerExpiry (leavingFrom tailBank)).trk.discharged = 2 ∧
    (after .accrualTimerExpiry (leavingFrom tailBank)).trk.underdosed = 1 := by
  unfold Runs; decide +kernel

/-- Creation mark `d` below the counter at a head; the expiry adds 1.00 m³ to V_p = 5.00 m³. -/
def creatingAt (d : Nat) (first : Bool) : State :=
  headBank.setTrk { headBank.trk with
    counter := BitVec.ofNat 32 d, creating := true, firstResync := first, nextExpected := some 400 }

theorem witness_HeadCreatesCompletedParcels :
    (∀ s ∈ [creatingAt 399 false, creatingAt 400 false, creatingAt 400 true],
      Runs s ∧ s.trk.accrual.isSome = true ∧ s.ctl.mode = .dosing ∧ s.ros.role = .head ∧ s.trk.creating = true ∧
        s.trk.nextExpected = some 400 ∧ s.trk.queue = [] ∧ 1 ≤ s.ldr.cfg.z ∧ s.ldr.cfg.z < 2 ^ 31) ∧
    (after .accrualTimerExpiry (creatingAt 399 false)).trk.queue = [] ∧
    (after .accrualTimerExpiry (creatingAt 400 false)).trk.nextExpected = some 401 ∧
    (after .accrualTimerExpiry (creatingAt 400 true)).trk.resyncs = 1 := by
  unfold Runs; decide +kernel

/-- Creation behind records that wait, one and sixteen of them, the sixteenth taking the made one up (R4, R25). -/
theorem witness_HeadCreatesCompletedParcels_queue :
    (let held (n : Nat) : State :=
       let s := creatingAt 400 true
       s.setTrk { s.trk with
         queue := (List.range n).map fun k => { record (400 - n + k) (400 - n + k) 0 90000 10 with exitMark := 90000 } }
     let close (n : Nat) : Tracker := (after .accrualTimerExpiry (held n)).trk
     Runs (held 16) ∧ (held 16).trk.accrual.isSome = true ∧ (held 16).ctl.mode.doses = true ∧
       (close 1).queue.map (fun r => (r.firstSeq, r.lastSeq)) = [(399, 399), (400, 400)] ∧
       (close 1).resyncs = 1 ∧ (close 1).creationMark = 500 ∧ (close 16).queue.length = 16 ∧
       (close 16).queue.getLast?.map (fun r => (r.firstSeq, r.lastSeq)) = some (399, 400) ∧
       (close 16).nextExpected = some 401 ∧ (held 1).trk.create 1200 2 501 = (held 1).trk) := by
  unfold Runs; decide +kernel

theorem witness_LeavingRecordsAreSentByRole :
    (leavingFrom headBank).ros.role = .head ∧ (leavingFrom midBank).ros.role = .mid ∧
    (leavingFrom tailBank).ros.role = .tail ∧ (leavingFrom soleBank).ros.role = .sole := by decide +kernel

/-- A peer with 0.6 makes ΣP 336.6, which serves 10.200 m³/s and no more. -/
def planAt (q : Nat) : State := flowing (bank .dosing [] [peer 3 6]) (.normal q)

theorem witness_TheCloseOfAnExpiryPlans :
    (∀ q ∈ [0, 10200, 10201],
      Runs (planAt q) ∧ (planAt q).trk.accrual.isSome = true ∧ (planAt q).ctl.mode.doses = true) ∧
    totalP (planAt 10200) * 10000000 = 30000 * 110 * 10200 ∧
    (after .accrualTimerExpiry (planAt 10200)).pln.shortfall = false ∧
    (after .accrualTimerExpiry (planAt 10201)).pln.shortfall = true := by
  unfold Runs; decide +kernel

/-- Two lamps at 50 % of eight at 10.00, one alone available, none; a peer that reported no P; P limited. -/
theorem witness_TheCloseOfAnExpiryPlans_capacity :
    (let s := strikeBank 900
     let only (n : Nat) : State := setLamps s (s.seq.lamps.map fun l => if l.index ≤ n then l else l.fail .lampOpen)
     let mixed := setLamps s (s.seq.lamps.map fun l => if l.index = 5 then { l with e := 301 } else l)
     s.ldr.cfg.minLit = 2 ∧ fMax s = 4000 ∧ fMin s = 500 ∧ fMin mixed = 326 ∧ fMin (only 1) = 250 ∧ fMin (only 0) = 0 ∧
       capacityP s = 4800 ∧ capacityP (s.setLdr { s.ldr with cfg := { s.ldr.cfg with z := 70000 } }) = 65535 ∧
       planningSet (bank .dosing [{ peer 1 0 with p := none }] [peer 3 6]) = [(2, 3360), (3, 6)]) := by decide +kernel

theorem witness_TheCloseOfAnExpiryPlans_setpoint :
    (∀ s ∈ [planAt 10200, planAt 0, holding, listening, isolated],
      Runs s ∧ s.trk.accrual.isSome = true) ∧
    (after .accrualTimerExpiry (planAt 10200)).pln.plan.isSome = true ∧
    (after .accrualTimerExpiry holding).pln.shortfall = false ∧
    (after .accrualTimerExpiry holding).pln.fReq = 560 ∧
    (planAt 0).pln.lastReq = none ∧ (after .accrualTimerExpiry (planAt 0)).pln.fReq = 350 ∧
    (after .accrualTimerExpiry isolated).pln.fReq = 2800 := by
  unfold Runs; decide +kernel

/-- A setpoint that falls short of the light strikes lamp 3, one that the light serves dims it, and neither in FAILSAFE. -/
theorem witness_TheCloseOfAnExpiryPlans_lamps :
    (let closes (s : State) : Prop :=
       let t := after .accrualTimerExpiry s
       EndsAsLampEvent (s.setPln { s.pln with fReq := t.pln.fReq }) t
     (∀ s ∈ [planAt 10201, planAt 5, holding, listening, isolated,
         failsafe.setTrk { failsafe.trk with accrual := some 0 }], Runs s ∧ s.trk.accrual.isSome = true ∧
       closes s) ∧
     lampIn (after .accrualTimerExpiry (planAt 10201)) 3 .striking = true ∧
     (after .accrualTimerExpiry (planAt 5)).seq.level = 5) := by
  unfold EndsAsLampEvent Runs; decide +kernel

/-- F_req 2800 as an isolation left it, Q below 0.001: F_min with no computation since reset, and what the last one
left with one, in DOSING and in HOLD with the shortfall flag set; a computation is kept, a hold setpoint at no flow is
none. -/
theorem witness_TheCloseOfAnExpiryPlans_held :
    (let left (s : State) (last : Option Nat) (short : Bool) : State :=
       flowing (s.setPln { s.pln with fReq := 2800, lastReq := last, shortfall := short }) (.normal 0)
     let close (s : State) : Planner := (after .accrualTimerExpiry s).pln
     (∀ s ∈ [left soleBank none false, left holding (some 700) true, left holding none false],
        Runs s ∧ s.trk.accrual.isSome = true) ∧
       (close (after .accrualTimerExpiry isolated)).lastReq = none ∧
       (close (left soleBank none false)).fReq = 350 ∧ (close (left soleBank none false)).lastReq = none ∧
       (close (left soleBank (some 700) false)).fReq = 700 ∧ (close (left holding (some 700) true)).fReq = 700 ∧
       (close (left holding none true)).fReq = 350 ∧
       (close (left holding none false)).fReq = 560 ∧ (close (left holding none false)).lastReq = none ∧
       (close holding).lastReq = some 560 ∧ (close (planAt 10201)).lastReq = some (close (planAt 10201)).fReq) := by
  unfold Runs; decide +kernel

/-! ### Witnesses: posting and the periodic frames -/

def waiting (q : List Frame) : State := soleBank.setBus { soleBank.bus with queue := q, nextTicket := 20 }

def leaves (n : Nat) : List Frame := (List.range n).map fun k => frame (.leave 1) k

theorem witness_PostingKeepsClassAndAge :
    HasPlaceFor (waiting (parcels 11)) .wipeClaim ∧ HasPlaceFor fullQueue (.flow ⟨1, 0⟩) ∧
    ¬ HasPlaceFor (waiting (parcels 12)) .wipeClaim ∧ ¬ HasPlaceFor fullQueue (.leave 1) ∧
    (post (waiting (parcels 12)) (.parcel (parcel 3 313 313 1))).bus.lost = 0 ∧
    (post (waiting (parcels 12)) (.parcel (parcel 3 314 314 1))).bus.lost = 1 ∧
    (post (waiting (leaves 12)) (.parcel (parcel 3 1 1 1))).bus.lost = 1 ∧
    (post (waiting (parcels 12)) (.discharge ⟨1, 1, 0, 0, 1, 0⟩)).bus.refusedDischarges = 1 ∧
    (post fullQueue (.leave 1)).bus.dropped = 1 ∧
    (post (waiting (parcels 11 ++ [frame (.discharge ⟨1, 1, 0, 0, 1, 0⟩) 11])) (.leave 1)).bus.refusedDischarges = 1 ∧
    (let claims := (waiting (leaves 12)).setWip { soleBank.wip with state := .claiming, claim := some 20 }
     (post claims .wipeClaim).wip.state = .want) := by
  unfold HasPlaceFor; decide +kernel

/-- Places in a queue of all three classes for a frame of each, on posting and on a return; a renewal; the classes. -/
theorem witness_PostingKeepsClassAndAge_places :
    (let discharge : Body := .discharge ⟨1, 1, 0, 0, 1, 0⟩
     let q := [frame (.leave 1) 1, frame (.flow ⟨0, 0⟩) 2, frame discharge 3, frame (.status exampleStatus) 4]
     let tickets (q : List Frame) : List Nat := q.map (·.ticket)
     ordered q = true ∧
     [tickets (enqueue (frame .wipeClaim 9) q), tickets (enqueue (frame discharge 9) q),
         tickets (enqueue (frame (.report (answerBody 1 0)) 9) q), tickets (enqueue (frame .wipeClaim 9) [])] =
       [[1, 9, 2, 3, 4], [1, 2, 3, 9, 4], [1, 2, 3, 4, 9], [9]] ∧
     [tickets (requeue (frame .wipeClaim 9) q), tickets (requeue (frame discharge 9) q),
         tickets (requeue (frame (.report (answerBody 1 0)) 9) q)] =
       [[9, 1, 2, 3, 4], [1, 9, 2, 3, 4], [1, 2, 3, 9, 4]] ∧
     tickets (renew (frame (.flow ⟨5, 0⟩) 9) q) = [1, 9, 3, 4] ∧
     sameRenewable discharge (frame discharge 3) = false ∧
     sameRenewable (.flow ⟨5, 0⟩) (frame (.uvt ⟨5, 0⟩) 3) = false ∧
     ([.parcel (parcel 3 1 1 1), .leave 1, .flow ⟨0, 0⟩, discharge, .command 1 (toBank 0 0), .status exampleStatus,
         .report (answerBody 1 0)] : List Body).map classOf = [0, 0, 1, 1, 1, 2, 2]) := by decide +kernel

theorem witness_PeriodicFramesArePosted : Runs midBank ∧ midBank.ctl.statusTimer.isSome = true ∧ Runs failsafe ∧
    failsafe.ctl.statusTimer.isSome = true ∧ failsafe.ldr.failure = some .imageCrc ∧
    (statusBody failsafe).flags = 0x5000 ∧
    (statusBody midBank).flags = 0x0060 := by
  unfold Runs; decide +kernel

def sourcing (m : BankMode) : State :=
  let s := bank m [] []
  (s.setPln { s.pln with flowTimer := some 1000, uvtTimer := some 5000 }).setScn
    { s.scn with ownFlow := some ⟨.reverse, 1234⟩ }

theorem witness_PeriodicFramesArePosted_readings :
    (∀ m ∈ [BankMode.dosing, .hold, .isolated, .failsafe],
      Runs (sourcing m) ∧ (sourcing m).pln.flowTimer.isSome = true ∧ (sourcing m).pln.uvtTimer.isSome = true) ∧
    ((after .flowTimerExpiry (sourcing .hold)).bus.queue.map (·.body)) = [.flow ⟨1234, 1⟩] ∧
    ((after .uvtTimerExpiry (sourcing .dosing)).bus.queue.map (·.body)) = [.uvt ⟨0, 2⟩] ∧
    (after .flowTimerExpiry (sourcing .isolated)).bus.queue = [] := by
  unfold Runs; decide +kernel

def sourced (s : State) : State :=
  s.setPln { s.pln with flow := .normal 100, flowSource := some ⟨3, 2999⟩, uvt := .normal 700
                        uvtSource := some ⟨9, 14999⟩, holdTimer := some 29999 }

theorem witness_LapsesAndTheHoldTimerAreTaken :
    (∀ s ∈ [sourced soleBank, sourced listening],
      Runs s ∧ s.pln.flowSource.isSome = true ∧ s.pln.uvtSource.isSome = true ∧ s.pln.holdTimer.isSome = true) ∧
    reasonStands (judgeRoster (setMode ((sourced soleBank).setPln
      { (sourced soleBank).pln with holdCond := true, holdTimer := none }) .hold)) = false ∧
    (after .flowSourceLapse (sourced soleBank)).pln.flow = .stale ∧
    uvtValue (after .uvtSourceLapse (sourced soleBank)) = 600 ∧
    (after .holdTimerExpiry (sourced soleBank)).ctl.mode = .hold := by
  unfold Runs; decide +kernel

/-- R66: in HOLD a lapse, a FLOW and an own reading that clear the condition bring DOSING, and one below 1.2 × Q_min
leaves HOLD; with a second board at the own address they bring ISOLATED, and so does the hold timer. -/
theorem witness_ModeFollowsTheHoldCondition :
    (let standing (m : BankMode) : State :=
       let s := flowing (bank m [] []) (.normal 100)
       s.setPln { s.pln with
         holdCond := decide (m = .hold), holdTimer := some 29999, flowSource := some ⟨2, 2999⟩ }
     let doubled (s : State) : State := s.setRos { s.ros with entries := twin :: s.ros.entries }
     let flow (v : BitVec 16) : State := after (.flowReceived ⟨0, 1⟩ ⟨v, 0⟩) (standing .hold)
     let own (v : BitVec 10) : State :=
       let s := standing .hold
       after (.scanComplete [160, 0, 0, 0, 0, 0, v, 180] false) (s.setScn { s.scn with scan := some 0 })
     TakesFrames (standing .hold) ∧ (standing .hold).ctl.mode = .hold ∧
       (after .flowSourceLapse (standing .hold)).ctl.mode = .dosing ∧
       (flow 600).ctl.mode = .dosing ∧ (flow 599).ctl.mode = .hold ∧
       (own 1003).ctl.mode = .dosing ∧ (own 180).ctl.mode = .hold ∧
       reasonStands (judgeRoster (setMode (doubled (standing .hold)) .dosing)) = true ∧
       (after .flowSourceLapse (doubled (standing .hold))).ctl.mode = .isolated ∧
       (after .holdTimerExpiry (doubled (standing .dosing))).ctl.mode = .isolated) := by
  unfold TakesFrames Runs; decide +kernel

/-- Q_min is 0.500 m³/s: 0.600 clears, 0.599 does not; 0.499 starts the timer, 0.500 stops it. -/
def holdAt (q : Nat) (cond : Bool) : State :=
  flowing (soleBank.setPln { soleBank.pln with holdCond := cond, holdTimer := some 7 }) (.normal q)

theorem witness_HoldConditionFollowsTheFlow :
    (judgeHold (holdAt 600 true)).pln.holdCond = false ∧ (judgeHold (holdAt 599 true)).pln.holdCond = true ∧
    (judgeHold (holdAt 499 false)).pln.holdTimer = some 7 ∧ (judgeHold (holdAt 500 false)).pln.holdTimer = none := by
  decide +kernel

/-! ### Witnesses: the roster -/

def key1 : EntryKey := ⟨0, 1, some 101⟩

def waitingOnOne (s : State) : State := s.setWip { s.wip with state := .want, wait := some ⟨1, 120000⟩ }

theorem witness_EntriesGoLostAndAreRemoved :
    (let s := waitingOnOne midBank
     let l := bank .dosing [lostPeer 1 300000] []
     Runs s ∧ heardEntry s key1 = true ∧ key1.chan = s.ldr.straps.channel ∧
       s.wip.wait.map (·.pos) = some key1.pos ∧ (after (.rosterEntryLost key1) s).wip.wait = none ∧
       (after (.rosterEntryLost key1) s).ros.role = .head ∧
       Runs l ∧ heardEntry l key1 = false ∧ l.ros.entries.any (fun e => e.hasKey key1 && e.isLost) = true ∧
       s.ros.entries.any (fun e => e.hasKey key1 && e.isLost) = false ∧
       (after (.rosterEntryRemove key1) l).ros.entries.length = 1) := by
  unfold Runs; decide +kernel

/-- A roster of `n` entries of other channels, the first in LOST where `first` says so. -/
def crowd (n : Nat) (first : Bool) : State :=
  let es := (List.range (n - 1)).map fun k =>
    { freshEntry (1 + k / 8) (k % 8 + 1) (some (BitVec.ofNat 32 (k + 500))) with
      state := if first && decide (k = 0) then .lost else .active
      sinceLost := if first && decide (k = 0) then some 5 else none }
  bank .dosing [] es

/-- Another board at position 1. -/
def otherOne : RosterEntry := { peer 1 1 with serial := some 999 }

/-- No entry held, the roster full with and without a LOST entry, one heard, two heard, none heard, and no
address. -/
theorem witness_FramesWithoutASerialAreLearned :
    (∀ s ∈ [soleBank, crowd 39 false, crowd 40 false, crowd 40 true, midBank, bank .dosing [peer 1 1, twin] [],
        bank .dosing [lostPeer 1 7] [], bank .dosing [peer 1 1, otherOne] [],
        bank .dosing [lostPeer 1 7, { otherOne with state := .lost, sinceLost := some 5 }] []], TakesFrames s) ∧
    ((after (.reportReceived ⟨0, 1⟩) (bank .dosing [{ peer 1 1 with lastHeard := 9 }, otherOne] [])).ros.entries.map
      (·.lastHeard)) = [9, 0, 0] ∧
    ((after (.reportReceived ⟨0, 1⟩) (bank .dosing
      [lostPeer 1 7, { otherOne with state := .lost, sinceLost := some 5 }] [])).ros.entries.map (·.state)) =
        [.lost, .heard, .active] ∧
    (crowd 40 false).ros.entries.length = 40 ∧
    (after (.reportReceived ⟨0, 1⟩) soleBank).ros.entries.length = 2 ∧
    (after (.reportReceived ⟨0, 1⟩) (crowd 39 false)).ros.entries.length = 40 ∧
    (after (.formatErrorFrame ⟨0, 1⟩) (crowd 40 false)).ros.unlearned = 1 ∧
    (after (.formatErrorFrame ⟨0, 1⟩) (crowd 40 true)).ros.entries.length = 40 ∧
    (after (.formatErrorFrame ⟨0, 1⟩) (crowd 40 true)).ros.unlearned = 0 ∧
    ((after (.reportReceived ⟨0, 1⟩) (bank .dosing [lostPeer 1 7] [])).ros.entries.map (·.state)) =
      [.heard, .active] ∧
    (after (.reportReceived ⟨4, 1⟩) soleBank).ros.entries.length = 1 ∧
    (after (.reportReceived ⟨15, 4⟩) soleBank).ros.entries.length = 2 ∧
    (after (.reportReceived ⟨15, 5⟩) soleBank).ros.entries.length = 1 := by
  unfold TakesFrames Runs; decide +kernel

theorem witness_PlainFrame : PlainFrame (.dischargeReceived ⟨0, 1⟩ ⟨1, 1, 0, 0, 1, 0⟩) ⟨0, 1⟩ ∧
    PlainFrame (.reportReceived ⟨0, 1⟩) ⟨0, 1⟩ ∧ PlainFrame (.formatErrorFrame ⟨0, 1⟩) ⟨0, 1⟩ :=
  ⟨.inl ⟨_, rfl⟩, .inr (.inl rfl), .inr (.inr rfl)⟩

theorem witness_FramesWithoutASerialAreLearned_loading : Runs State.reset ∧ State.reset.ctl.mode = .loading ∧
    (after (.formatErrorFrame ⟨0, 1⟩) State.reset).bus.formatErrors = 1 ∧
    (∀ c ∈ ([.flowReceived ⟨0, 1⟩ ⟨777, 0⟩, .leaveReceived ⟨0, 1⟩ 4, .wipeClaimReceived ⟨0, 1⟩, .reportReceived ⟨0, 1⟩,
        .joinReceived ⟨0, 1⟩ ⟨5, 0, 0, 1, 0⟩, .wipeDoneReceived ⟨0, 1⟩ 0] : List Instr),
      after c State.reset = State.reset) := by
  unfold Runs; decide +kernel

theorem witness_AcceptedFrame : AcceptedFrame (.wipeDoneReceived ⟨0, 1⟩ 0) ⟨0, 1⟩ ∧
    AcceptedFrame (.query plant (toBank 0 1)) plant := by
  simp [AcceptedFrame, IsCommand]

def joinOf (serial : Serial) : JoinBody := ⟨serial, 0, 0x21FB, 475, 0⟩

/-- The own serial at the own address, an entry that is held, one without a serial, and none; a break from above the
head and from below it. -/
theorem witness_JoinStartsAnEntryAfresh :
    (let plain : RosterEntry := { peer 1 0 with serial := none, state := .heard }
     TakesFrames soleBank ∧ TakesFrames midBank ∧ TakesFrames (bank .dosing [plain] []) ∧
       isBankAddress ⟨0, 2⟩ = true ∧ isBankAddress ⟨0, 1⟩ = true ∧ isBankAddress ⟨0, 8⟩ = true ∧
       (after (.joinReceived ⟨0, 2⟩ (joinOf 1)) soleBank).ros.entries = soleBank.ros.entries ∧
       (after (.joinReceived ⟨0, 1⟩ (joinOf 101)) midBank).ros.entries.length = 3 ∧
       ((after (.joinReceived ⟨0, 1⟩ (joinOf 101)) (bank .dosing [plain] [])).ros.entries.map (·.serial)) =
         [some 101, some 1] ∧
       (after (.joinReceived ⟨0, 1⟩ (joinOf 101)) soleBank).trk.brk = some ⟨475, 30000⟩ ∧
       (after (.joinReceived ⟨0, 8⟩ (joinOf 108)) soleBank).trk.brk = none ∧
       (after (.joinReceived ⟨0, 8⟩ (joinOf 108)) soleBank).ros.entries.length = 2 ∧
       TakesFrames (crowd 40 false) ∧ (crowd 40 false).ros.entries.length = 40 ∧
       (after (.joinReceived ⟨0, 8⟩ (joinOf 108)) (crowd 40 false)).ros.unlearned = 1 ∧
       (after (.joinReceived ⟨0, 8⟩ (joinOf 108)) (crowd 40 true)).ros.entries.length = 40 ∧
       (after (.joinReceived ⟨0, 1⟩ (joinOf 555)) midBank).ros.entries.length = 4) := by
  unfold TakesFrames Runs; decide +kernel

/-- Serial 0 with no entry held and with one, a plant station, a source outside the address space, each with a break
or none; STATUS likewise, and the watermark it teaches. -/
theorem witness_FramesWithoutIdentity :
    (let join (a : Src) (serial : Serial) (s : State) : State := after (.joinReceived a (joinOf serial)) s
     let status (a : Src) (serial : Serial) : State :=
       after (.statusReceived a { exampleStatus with serial := serial }) midBank
     isBankAddress ⟨0, 9⟩ = false ∧ isBankAddress ⟨15, 4⟩ = false ∧
       ((join ⟨0, 1⟩ 0 soleBank).ros.entries.map fun e => (e.serial, e.state, e.digest)) =
         [(none, .heard, none), (some 1, .active, none)] ∧
       (join ⟨0, 1⟩ 0 soleBank).trk.brk = some ⟨475, 30000⟩ ∧
       (join ⟨0, 1⟩ 0 midBank).ros.entries = midBank.ros.entries ∧
       ((join ⟨15, 4⟩ 104 soleBank).ros.entries.map (·.serial)) = [some 1, none] ∧
       (join ⟨15, 4⟩ 104 soleBank).trk.brk = none ∧
       (join ⟨0, 9⟩ 104 soleBank).ros.entries.length = 1 ∧ (join ⟨0, 0⟩ 104 soleBank).trk.brk = none ∧
       ((status ⟨0, 4⟩ 0).ros.entries.map fun e => (e.serial, e.p)) =
         [(some 101, some 2000), (some 1, none), (some 103, some 2500), (none, none)] ∧
       (status ⟨0, 4⟩ 0).trk.watermark = some 216 ∧ (status ⟨15, 1⟩ 104).ros.entries.length = 4 ∧
       (status ⟨15, 1⟩ 104).trk.watermark = none ∧ (status ⟨4, 1⟩ 104).ros.entries.length = 3) := by
  decide +kernel

theorem witness_StatusFillsItsEntry :
    (let b := { exampleStatus with serial := 101 }
     let plain : RosterEntry := { peer 1 0 with serial := none, state := .heard }
     let later := midBank.setTrk { midBank.trk with watermark := some 216 }
     TakesFrames midBank ∧ TakesFrames soleBank ∧ TakesFrames (bank .dosing [plain] []) ∧ TakesFrames later ∧
       (after (.statusReceived ⟨0, 2⟩ { b with serial := 1 }) soleBank).ros.entries = soleBank.ros.entries ∧
       ((after (.statusReceived ⟨0, 1⟩ b) midBank).ros.entries.head?.bind (·.p)) = some 1500 ∧
       ((after (.statusReceived ⟨0, 1⟩ b) (bank .dosing [plain] [])).ros.entries.map (·.serial)) =
         [some 101, some 1] ∧
       (after (.statusReceived ⟨0, 1⟩ b) midBank).trk.watermark = some 216 ∧
       (after (.statusReceived ⟨0, 1⟩ { b with nextSeq := 217 }) later).trk.watermark = some 217 ∧
       (after (.statusReceived ⟨0, 1⟩ { b with nextSeq := 215 }) later).trk.watermark = some 216 ∧
       (after (.statusReceived ⟨1, 1⟩ { b with nextSeq := 217 }) later).trk.watermark = some 216 ∧
       ((after (.statusReceived ⟨0, 1⟩ b) midBank).ros.entries.head?.bind (·.digest)) = some 0x5E21 ∧
       ((after (.statusReceived ⟨0, 1⟩ { b with mode := 5 }) midBank).ros.entries.head?.bind (·.digest)) = some 0 ∧
       (after (.statusReceived ⟨0, 8⟩ b) (crowd 40 false)).ros.unlearned = 1 ∧
       ((after (.statusReceived ⟨0, 1⟩ { b with serial := 555 }) midBank).ros.entries.map (·.state)) =
         [.conflict, .conflict, .active, .active]) := by
  unfold TakesFrames Runs; decide +kernel

theorem witness_EntriesGoLostAndAreRemoved_leave :
    (let s := waitingOnOne midBank
     let two := bank .isolated [] [twin]
     TakesFrames s ∧ isOwnAddress s ⟨0, 1⟩ = false ∧ heardAt s ⟨0, 1⟩ = true ∧
       s.wip.wait.map (·.pos) = some (1#8).toNat ∧ (after (.leaveReceived ⟨0, 1⟩ 4) s).wip.wait = none ∧
       TakesFrames two ∧ isOwnAddress two ⟨0, 2⟩ = true ∧
       ((after (.leaveReceived ⟨0, 2⟩ 4) two).ros.entries.map (·.state)) = [.active, .lost] ∧
       ((after (.leaveReceived ⟨0, 2⟩ 1) two).ros.entries.map (·.state)) = [.conflict, .conflict]) := by
  unfold TakesFrames Runs; decide +kernel

theorem witness_SettlementJudgesTheRoster :
    (let s := settle (soleBank.setRos { soleBank.ros with entries := [peer 1 1, selfEntry 0 2 1, twin, peer 3 1] })
     s.ros.entries.map (·.state) = [.active, .conflict, .conflict, .active] ∧ s.ctl.positionReason = true ∧
       s.ctl.mode = .isolated ∧ (settle midBank).ros.up = some 1 ∧ (settle midBank).ros.down = some 3 ∧
       (settle midBank).ctl.mode.doses = true ∧ (settle midBank).ros.refDigest = some 0x21FB ∧
       (settle soleBank).ros.up = none ∧ (settle (bank .isolated [] [])).ros.refDigest = some 0x21FB ∧
       (settle (bank .listen [] [])).ros.refDigest = none ∧
       (settle (bank .dosing [{ peer 1 1 with digest := some 7 }] [])).ctl.digestReason = true) := by decide +kernel

/-! ### Witnesses: conditions and parcels -/

def offered (pos slot : Nat) : State :=
  soleBank.setPln { soleBank.pln with flowSource := some ⟨pos, 5⟩, uvtSource := some ⟨slot, 5⟩ }

theorem witness_OffersAreJudgedByTheirSource :
    (let s := offered 3 9
     let flow (p : Byte) (t : State) : State := after (.flowReceived ⟨0, p⟩ ⟨777, 0⟩) t
     let uvt (p : Byte) (t : State) : State := after (.uvtReceived ⟨1, p⟩ ⟨700, 0⟩) t
     TakesFrames soleBank ∧ TakesFrames s ∧
       (flow 8 soleBank).pln.flowSource = some ⟨8, 0⟩ ∧ (flow 8 soleBank).pln.flowDup = none ∧
       (flow 3 s).pln.flow = .normal 777 ∧ (flow 3 s).pln.flowDup = none ∧
       (flow 2 s).pln.flowSource = some ⟨2, 0⟩ ∧ (flow 2 s).pln.flowDup = some 0 ∧
       (flow 4 s).pln.flowSource = some ⟨3, 5⟩ ∧ (flow 4 s).pln.flowDup = some 0 ∧
       (after (.flowReceived ⟨1, 1⟩ ⟨777, 0⟩) s).pln.flow = .stale ∧
       (after (.flowReceived ⟨0, 1⟩ ⟨499, 0⟩) s).pln.holdTimer = some 0 ∧
       (after (.flowReceived ⟨0, 1⟩ ⟨500, 0⟩) s).pln.holdTimer = none ∧
       (after (.flowReceived ⟨0, 1⟩ ⟨599, 0⟩) (holdAt 499 true)).pln.holdCond = true ∧
       (after (.flowReceived ⟨0, 1⟩ ⟨600, 0⟩) (holdAt 499 true)).pln.holdCond = false ∧
       (after (.flowReceived ⟨1, 1⟩ ⟨600, 0⟩) (holdAt 499 true)).pln.holdTimer = some 7 ∧
       (uvt 8 soleBank).pln.uvtSource = some ⟨15, 0⟩ ∧ (uvt 2 s).pln.uvtDup = none ∧
       (uvt 1 s).pln.uvtSource = some ⟨8, 0⟩ ∧ (uvt 3 s).pln.uvtSource = some ⟨9, 5⟩ ∧
       (after (.uvtReceived ⟨15, 1⟩ ⟨700, 0⟩) s).pln.uvt = .stale) := by
  unfold TakesFrames Runs; decide +kernel

def fourth (s : State) : State := s.setLdr { s.ldr with straps := { s.ldr.straps with position := 4 } }

/-- Another channel, a backward range, LISTEN, neither named nor adopted, named, adopted; an adoption with no number
expected, at the number expected, one past it at a break, and one short of a break. -/
theorem witness_ParcelsAreScreenedAndAccepted :
    (let s := fourth (bank .dosing [peer 1 1] [])
     TakesFrames s ∧ TakesFrames listening ∧
       (after (.parcelReceived ⟨1, 1⟩ (parcel 4 7 7 1)) s).trk.watermark = none ∧
       (after (.parcelReceived ⟨0, 1⟩ (parcel 4 8 7 1)) s).trk.watermark = none ∧
       (after (.parcelReceived ⟨0, 1⟩ (parcel 2 7 7 1)) listening).trk.watermark = some 8 ∧
       (after (.parcelReceived ⟨0, 1⟩ (parcel 4 7 7 1)) s).trk.queue.length = 1 ∧
       (after (.parcelReceived ⟨0, 1⟩ (parcel 3 7 7 1)) s).trk.queue.length = 1 ∧
       (after (.parcelReceived ⟨0, 1⟩ (parcel 3 7 7 1)) s).trk.adoptions = 0 ∧
       (let due (n : Seq) := s.setTrk { s.trk with nextExpected := some n, brk := some ⟨7, 1⟩ }
        let adopted (n : Seq) : Tracker := (after (.parcelReceived ⟨0, 1⟩ (parcel 3 7 7 1)) (due n)).trk
        let short : Tracker := (after (.parcelReceived ⟨0, 1⟩ (parcel 3 6 7 1)) (due 5)).trk
        TakesFrames (due 7) ∧ (adopted 7).adoptions = 1 ∧ (adopted 7).brk = some ⟨7, 1⟩ ∧
          (adopted 6).adoptions = 0 ∧ (adopted 6).brk = none ∧ (adopted 6).queue.length = 1 ∧
          (adopted 6).placeholders = 0 ∧ (adopted 8).adoptions = 1 ∧ (adopted 8).duplicates = 1 ∧
          short.adoptions = 1 ∧ short.placeholders = 1 ∧ short.brk = some ⟨7, 1⟩) ∧
       (after (.parcelReceived ⟨0, 3⟩ (parcel 3 7 7 1)) s).trk.queue = [] ∧
       (after (.parcelReceived ⟨0, 1⟩ (parcel 5 7 7 1)) s).trk.queue = []) := by
  unfold TakesFrames Runs; decide +kernel

def expecting (n : Nat) : Tracker :=
  { State.reset.trk with
    counter := 50000, nextExpected := some (BitVec.ofNat 16 n), queue := [record (n - 1) (n - 1) 49100 50300 1] }

def accepted (first last : Nat) : Tracker := (expecting 100).accept 1200 3 (record first last 0 0 5)

/-- `n` adjacent records from number 1 on. -/
def queueOf (n : Nat) : Tracker :=
  { State.reset.trk with
    nextExpected := some (BitVec.ofNat 16 (n + 1)), queue := (List.range n).map fun k => record (k + 1) (k + 1) 0 1200 9 }

/-- The rows of the continuity check at their boundaries, a break, and the joining of a record. -/
theorem witness_AcceptedRecordsJoinInLine :
    (accepted 100 100).queue.length = 2 ∧ (accepted 164 164).placeholders = 1 ∧ (accepted 164 164).resyncs = 0 ∧
    (accepted 165 165).resyncs = 1 ∧ (accepted 99 99).duplicates = 1 ∧ (accepted 99 100).overlaps = 1 ∧
    (accepted 99 100).queue.getLast?.map (·.firstSeq) = some 100 ∧
    (({ expecting 100 with brk := some ⟨475, 3⟩ }).accept 1200 3 (record 475 475 0 0 5)).brk = none ∧
    (({ expecting 100 with nextExpected := none, queue := [] }).accept 1200 3 (record 7 8 0 0 5)).nextExpected =
      some 9 ∧
    ((queueOf 15).join 1200 (record 16 16 0 0 4)).queue.length = 16 ∧
    ((queueOf 16).join 1200 (record 17 17 0 0 4)).queue.getLast?.map (fun r => (r.lastSeq, r.dose, r.flags)) =
      some (17, 4, 4) ∧
    ((queueOf 2).join 1200 (record 5 5 0 0 4)).queue.getLast?.map (fun r => (r.firstSeq, r.flags)) =
      some (3, 64) ∧
    ((queueOf 2).join 1200 (record 2 3 0 0 4)).queue.getLast?.map (fun r => (r.firstSeq, r.flags)) =
      some (3, 128) ∧
    ((queueOf 2).join 1200 (record 2 2 0 0 4)).duplicates = 1 := by decide +kernel

/-! ### Witnesses: the wipers of other banks -/

def wiper (st : WiperState) (s : State) : State := s.setWip { s.wip with state := st }

def claiming : State :=
  (soleBank.setWip { soleBank.wip with state := .claiming, claim := some 7 }).setBus
    { soleBank.bus with queue := [frame .wipeClaim 7], nextTicket := 8 }

theorem witness_WipesOfOthersAreWaitedFor :
    (∀ s ∈ [wiper .want soleBank, claiming, soleBank], TakesFrames s ∧ isBankAddress ⟨0, 1⟩ = true) ∧
    (after (.wipeClaimReceived ⟨0, 1⟩) (wiper .want soleBank)).wip.wait = some ⟨1, 120000⟩ ∧
    (after (.wipeClaimReceived ⟨0, 1⟩) claiming).bus.queue = [] ∧
    (after (.wipeClaimReceived ⟨0, 1⟩) claiming).wip.state = .want ∧
    (after (.wipeClaimReceived ⟨0, 2⟩) claiming).wip.state = .claiming ∧
    (after (.wipeActiveReceived ⟨0, 8⟩) claiming).wip.wait = some ⟨8, 120000⟩ ∧
    (after (.wipeActiveReceived ⟨0, 8⟩) soleBank).wip = soleBank.wip ∧
    (after (.wipeActiveReceived ⟨1, 8⟩) claiming).wip.state = .claiming := by
  unfold TakesFrames Runs; decide +kernel

/-- The own claim in flight at a lower claim, a frame of another ticket in flight, and a window that runs. -/
theorem witness_WipesOfOthersAreWaitedFor_claim :
    (let flying (n : Nat) : State := claiming.setBus
       { claiming.bus with inFlight := some ⟨frame .wipeClaim n, false⟩, queue := parcels 1 }
     let window := soleBank.setWip { soleBank.wip with state := .claiming, window := some 5 }
     let yielded (s : State) : Bus := (after (.wipeClaimReceived ⟨0, 1⟩) s).bus
     (∀ s ∈ [flying 7, flying 6, window], TakesFrames s ∧ (learned s ⟨0, 1⟩).wip.state = .claiming) ∧
       yielded (flying 7) = { (learned (flying 7) ⟨0, 1⟩).bus with
         inFlight := some ⟨frame .wipeClaim 7, true⟩ } ∧
       yielded (flying 6) = (learned (flying 6) ⟨0, 1⟩).bus ∧ (yielded (flying 6)).queue.length = 1 ∧
       yielded window = (learned window ⟨0, 1⟩).bus ∧
       (after (.wipeClaimReceived ⟨0, 1⟩) window).wip.window = none) := by
  unfold TakesFrames Runs; decide +kernel

/-- The indication of R56 with one entry at the source, with none, with one LOST, and with two outside LOST. -/
theorem witness_WipesOfOthersAreWaitedFor_indication :
    (let shown (es : List RosterEntry) : List (Option Nat) := es.map (·.wiping)
     let active (s : State) : List RosterEntry := (after (.wipeActiveReceived ⟨0, 1⟩) s).ros.entries
     let done (s : State) : List RosterEntry := (after (.wipeDoneReceived ⟨0, 1⟩ 1) s).ros.entries
     let one := bank .dosing [{ peer 1 1 with wiping := some 7, lastHeard := 9 }] []
     let two := bank .dosing [{ peer 1 1 with wiping := some 7, lastHeard := 9 }, otherOne] []
     shown (active one) = [some 0, none] ∧ shown (done one) = [none, none] ∧
       (active one).map (·.lastHeard) = [0, 0] ∧
       shown (active soleBank) = [some 0, none] ∧ shown (done soleBank) = [none, none] ∧
       shown (active (bank .dosing [lostPeer 1 7] [])) = [some 0, none] ∧
       shown (active two) = [some 7, none, none] ∧ done two = two.ros.entries ∧
       shown (active (crowd 40 false)) = shown (crowd 40 false).ros.entries) := by decide +kernel

/-- In WANT and waiting on position 3, with light in hand. -/
def waitingOnThree : State :=
  headBank.setWip { headBank.wip with state := .want, wait := some ⟨3, 1⟩ }

theorem witness_WipesOfOthersAreWaitedFor_ends :
    Runs waitingOnThree ∧ TakesFrames waitingOnThree ∧ waitingOnThree.wip.wait.isSome = true ∧
    waitingOnThree.bus.queue.length < 12 ∧ waitingOnThree.wip.wait.map (·.pos) = some 3 ∧
    admitted (waitingOnThree.setWip { waitingOnThree.wip with wait := none }) = true ∧
    (after .waitRecordExpiry waitingOnThree).wip.state = .claiming ∧
    (after (.wipeDoneReceived ⟨0, 3⟩ 0) waitingOnThree).wip.state = .claiming ∧
    (after (.wipeDoneReceived ⟨0, 4⟩ 0) waitingOnThree).wip.wait.isSome = true ∧
    (let s := waitingOnThree.setPln { waitingOnThree.pln with shortfall := true }
     (after .waitRecordExpiry s).wip.wait = none ∧ (after .waitRecordExpiry s).wip.state = .want) := by
  unfold TakesFrames Runs; decide +kernel

/-! ### Witnesses: commands -/

def elsewhere : CommandBody := ⟨0, 3, 0, 0⟩

theorem witness_CommandsAreIgnoredOrRefused :
    IsCommand (.wipeNow plant elsewhere) plant elsewhere ∧ soleBank.hold.held = false ∧
    soleBank.ctl.mode ≠ .loading ∧ soleBank.cmd.restart = none ∧ ¬ AimedHere soleBank plant elsewhere ∧
    restarting.cmd.restart.isSome = true ∧
    (after (.wipeNow plant elsewhere) soleBank).cmd.ignored = 1 ∧
    (after (.wipeNow ⟨0, 1⟩ (toBank 0 0)) soleBank).cmd.ignored = 1 ∧
    (after (.query plant (toBank 0 1)) restarting).cmd.ignored = 1 := by
  unfold IsCommand AimedHere
  exact ⟨by simp, by decide +kernel⟩

theorem witness_CommandsAreIgnoredOrRefused_refused :
    (let b : CommandBody := ⟨0, 1, 0, 0⟩
     TakesFrames failsafe ∧ AimedHere failsafe plant b ∧ IsOwnersCommand (.wipeNow plant b) 5 plant b ∧
       (readied failsafe plant).ctl.mode = .failsafe ∧ TakesFrames soleBank ∧
       AimedHere soleBank ⟨15, 1⟩ (toBank 0 0) ∧ AimedHere soleBank ⟨15, 4⟩ (toBank 0 0) ∧
       TakesFrames listening ∧ AimedHere listening plant (toBank 0 0) ∧
       ((after (.wipeNow plant b) failsafe).bus.queue.map (·.body)) =
         [.report ⟨5, 1, 0, 0, 0, []⟩] ∧
       ((after (.commandOtherCode plant 8 (toBank 0 0)) soleBank).bus.queue.map (·.body)) =
         [.report ⟨8, 1, 0, 0, 0, []⟩] ∧
       (after (.commandOtherCode plant 0 (toBank 0 0)) listening).cmd.reply = some (.heldAnswer 0 1)) := by
  unfold TakesFrames Runs AimedHere IsOwnersCommand
  refine ⟨by decide +kernel, by decide +kernel, by simp, by decide +kernel⟩

def failedLamps : State :=
  let s := setLamps soleBank (soleBank.seq.lamps.map fun l =>
    if l.index = 7 ∨ l.index = 8 then { l.fail .ballastLost with e := 600 } else l)
  s.setLink { s.link with ballasts := s.link.ballasts.map fun x => if x.addr = 3 then { x with lost := true } else x }

def faultySensor : State :=
  soleBank.setScn { soleBank.scn with
    inputs := soleBank.scn.inputs.mapIdx fun k x => if k = 0 ∨ k = 5 then { x with fault := true } else x }

def outcomes (c : Instr) (s : State) : List (Byte × Byte) :=
  (after c s).bus.queue.map fun f =>
    match f.body with
    | .report r => (r.code, r.outcome)
    | _ => (0, 255)

/-- Done and refused at each command, with the indices at their bounds. -/
theorem witness_ClearCommandsActOrAreRefused :
    (∀ s ∈ [failedLamps, faultySensor],
      TakesFrames s ∧ AimedHere s plant (toBank 0 0) ∧ (readied s plant).ctl.mode ≠ .failsafe) ∧
    outcomes (.clearLamp plant (toBank 0 0)) failedLamps = [(1, 0)] ∧
    outcomes (.clearLamp plant (toBank 8 0)) failedLamps = [(1, 0)] ∧
    outcomes (.clearLamp plant (toBank 6 0)) failedLamps = [(1, 1)] ∧
    outcomes (.clearLamp plant (toBank 25 0)) failedLamps = [(1, 1)] ∧
    ((lampAt (after (.clearLamp plant (toBank 7 0)) failedLamps) 7).map (·.e)) = some 1000 ∧
    outcomes (.clearBallast plant (toBank 3 0)) failedLamps = [(2, 0)] ∧
    outcomes (.clearBallast plant (toBank 0 0)) failedLamps = [(2, 1)] ∧
    outcomes (.clearBallast plant (toBank 5 0)) failedLamps = [(2, 1)] ∧
    outcomes (.clearSensor plant (toBank 0 0)) faultySensor = [(3, 0)] ∧
    outcomes (.clearSensor plant (toBank 5 0)) faultySensor = [(3, 1)] ∧
    outcomes (.clearSensor plant (toBank 7 0)) faultySensor = [(3, 1)] ∧
    (∀ c ∈ [Instr.clearLamp plant (toBank 0 0), .clearBallast plant (toBank 0 0), .clearSensor plant (toBank 0 0),
        .wipeNow plant (toBank 0 0), .clearWiper plant (toBank 0 0)], outcomes c listening = []) ∧
    (readied listening plant).ctl.mode = .listen ∧
    (after (.clearLamp plant (toBank 0 0)) listening).cmd.reply = some (.heldAnswer 1 0) ∧
    (after (.clearBallast plant (toBank 0 0)) listening).cmd.reply = some (.heldAnswer 2 1) ∧
    (after (.clearWiper plant (toBank 0 0)) listening).cmd.reply = some (.heldAnswer 4 1) := by
  unfold TakesFrames Runs AimedHere; decide +kernel


theorem witness_WiperCommandsTakeTheirStates :
    (∀ s ∈ [soleBank, lowSupply, wiper .fault soleBank, wiper .homing soleBank],
      TakesFrames s ∧ AimedHere s plant (toBank 0 0) ∧ (readied s plant).ctl.mode ≠ .failsafe) ∧
    admitted ((readied soleBank plant).setWip { (readied soleBank plant).wip with state := .want }) = true ∧
    admitted ((readied lowSupply plant).setWip { (readied lowSupply plant).wip with state := .want }) = false ∧
    (after (.wipeNow plant (toBank 0 0)) soleBank).wip.state = .claiming ∧
    outcomes (.wipeNow plant (toBank 0 0)) (wiper .homing soleBank) = [(5, 1)] ∧
    outcomes (.clearWiper plant (toBank 0 0)) soleBank = [(4, 1)] ∧
    (after (.clearWiper plant (toBank 0 0)) (wiper .fault soleBank)).wip.state = .parked ∧
    (let away := (wiper .fault soleBank).setWip { (wiper .fault soleBank).wip with whome := false }
     (after (.clearWiper plant (toBank 0 0)) away).wip.state = .homing) ∧
    (let both := (wiper .fault soleBank).setWip { (wiper .fault soleBank).wip with wend := true }
     (after (.clearWiper plant (toBank 0 0)) both).wip.faults = 1) ∧
    (let owing (s : State) : State := (wiper .fault s).setWip { (wiper .fault s).wip with owed := true }
     (after (.clearWiper plant (toBank 0 0)) (owing soleBank)).wip.state = .claiming ∧
       (after (.clearWiper plant (toBank 0 0)) (owing lowSupply)).wip.state = .want) := by
  unfold TakesFrames Runs AimedHere; decide +kernel

theorem witness_RestartLeavesAndResets :
    TakesFrames listening ∧ AimedHere listening plant (toBank 0 0) ∧ (readied listening plant).ctl.mode = .listen ∧
    TakesFrames (waiting (parcels 10)) ∧ AimedHere (waiting (parcels 10)) plant (toBank 0 0) ∧
    (readied (waiting (parcels 10)) plant).bus.queue.length ≤ 10 ∧ restarting.hold.held = false ∧
    restarting.cmd.restart = some ⟨999, some 0, some 1⟩ ∧
    (after (.restart plant (toBank 0 0)) listening).hold.restart = true ∧
    (after (.restart plant (toBank 0 0)) (waiting (parcels 10))).bus.queue.length = 12 := by
  unfold TakesFrames Runs AimedHere; decide +kernel

theorem witness_QueryBeginsItsReply :
    (∀ s ∈ [soleBank, listening, waiting (parcels 11)], TakesFrames s ∧ AimedHere s plant (toBank 0 4)) ∧
    (readied (waiting (parcels 11)) plant).bus.queue.length < 12 ∧
    (after (.query plant (toBank 20 24)) soleBank).cmd.reply = some (.running 0 24 0 0) ∧
    (after (.query plant (toBank 19 24)) soleBank).cmd.reply = some (.running 0 23 1 0) ∧
    (after (.query plant (toBank 64 3)) soleBank).cmd.reply = some (.running 1 0 0 0) ∧
    (after (.query plant (toBank 128 9)) soleBank).cmd.reply = some (.running 2 2 0 0) ∧
    (after (.query plant (toBank 192 28)) listening).cmd.reply = some (.heldQuery 3 0 28) := by
  unfold TakesFrames Runs AimedHere; decide +kernel

/-! ### Witnesses: the line -/

def char (mark stop : Bool) (quiet : Nat) : RxChar := ⟨0x55, mark, stop, quiet⟩

/-- The rows of R171 at 6, 7, 13 and 14 bit times of quiet and at 53 and 54 characters. -/
theorem witness_AssemblerTakesAndCountsErrors :
    (let full := List.replicate 53 (0x55#8)
     let on (p : AsmPhase) (chars : List Byte) (own : Bool) : Assembler := ⟨p, chars, own⟩
     (on .inFrame [1] false).take false (char false true 6) = (on .inFrame [1, 0x55] false, false) ∧
     (on .inFrame [1] false).take false (char false true 7) = (on .skip [] false, true) ∧
     (on .inFrame [1] true).take false (char false true 7) = (on .skip [] false, false) ∧
     (on .inFrame full false).take false (char false true 0) = (on .skip [] false, true) ∧
     ((on .inFrame (full.drop 1) false).take false (char false true 0)).1.chars.length = 53 ∧
     (on .idle [] false).take true (char true true 20) = (on .inFrame [0x55] true, false) ∧
     (on .inFrame [1] false).settle 13 = (on .inFrame [1] false, false) ∧
     (on .inFrame [1] false).settle 14 = (on .idle [] false, true) ∧
     (on .inFrame [1] true).settle 14 = (on .idle [] false, false) ∧
     soleBank.hold.held = false ∧ soleBank.bus.inFlight = none ∧ soleBank.bus.asm = on .idle [] false ∧
     judgeFrame ([char true true 20, char false true 0].map (·.byte)) = none ∧
     (after (.rxFrameBroken [char true true 20, char false true 6, char false true 13]) soleBank).bus.rxErrors = 1 ∧
     (after (.rxFrameRejected [char true true 20, char false true 0]) soleBank).bus.rxErrors = 1 ∧
     (after (.idleMarkZeroCharacter (char false true 20)) soleBank).bus.rxErrors = 1 ∧
     (after (.idleMarkZeroCharacter (char true false 20)) soleBank).bus.asm.phase = .skip ∧
     (∀ p ∈ [AsmPhase.idle, .inFrame, .skip], ((on p [1] false).take false (char true false 0)).1 = on .skip [] false) ∧
     (let s := soleBank.setBus { soleBank.bus with inFlight := some ⟨frame (.leave 1) 7, false⟩ }
      s.bus.inFlight.isSome = true ∧
        ∀ c ∈ [Instr.rxFrameBroken [char true true 20, char true true 0], .rxFrameRejected [char true true 20],
          .idleMarkZeroCharacter (char false true 20)], after c s = s)) := by
  decide +kernel

/-- Slot 1, a LOW frame and a set served flag: W is 144 + 1 + 36. -/
def accessing : State :=
  after .quietGapEnd (soleBank.setBus { soleBank.bus with served := true, queue := [frame (.status exampleStatus) 0] })

theorem witness_FramesAreStartedAndCompleted : accessing.hold.held = false ∧ accessing.bus.access = some 36 ∧
    accessing.bus.inFlight = none ∧ (after (.transmitStart 181) accessing).bus.inFlight.isSome = true ∧
    after (.transmitStart 180) accessing = accessing ∧
    (after .quietGapEnd (completed (after (.transmitStart 181) accessing))).bus.rxErrors = 0 := by
  decide +kernel

def sending (b : Body) (s : State) : State :=
  s.setBus { s.bus with inFlight := some ⟨frame b 7, false⟩, busFault := true, nextTicket := 8 }

/-- A completion with no one to tell, the own claim, a reply that ends, one that goes on, and a restart. -/
theorem witness_FramesAreStartedAndCompleted_completion :
    (let claim := sending .wipeClaim (claiming.setBus { claiming.bus with queue := [] })
     let reply (owed : Nat) : State :=
       (sending (.report ⟨7, 2, 3, 0, 20, []⟩) soleBank).setCmd
         { soleBank.cmd with reply := some (.running 3 20 owed 7) }
     let last := (sending (.leave 4) soleBank).setCmd { soleBank.cmd with restart := some ⟨1, none, some 7⟩ }
     (∀ s ∈ [sending (.leave 1) soleBank, claim, reply 0, reply 8, last], s.hold.held = false) ∧
       (completed (sending (.leave 1) soleBank)).bus.busFault = false ∧
       (completed claim).wip.window = some 0 ∧ (completed (reply 0)).cmd.reply = none ∧
       (completed (reply 8)).cmd.reply = some (.running 3 28 0 8) ∧
       (completed last).hold.restart = true) := by decide +kernel

/-- Completions of another ticket while a reply runs, of the REPORT of a restart while its LEAVE is outstanding, of the
LEAVE while the REPORT is, and of a third frame. -/
theorem witness_FramesAreStartedAndCompleted_others :
    (let running : State :=
       (sending (.leave 1) soleBank).setCmd { soleBank.cmd with reply := some (.running 3 20 8 6) }
     let pending (report leave : Option Nat) : State :=
       (sending (.leave 4) soleBank).setCmd { soleBank.cmd with restart := some ⟨1, report, leave⟩ }
     let done (s : State) : State := completed s
     (done running).cmd = running.cmd ∧ (done running).bus.queue = [] ∧
       (done (pending (some 7) (some 8))).cmd.restart = some ⟨1, none, some 8⟩ ∧
       (done (pending (some 6) (some 7))).cmd.restart = some ⟨1, some 6, none⟩ ∧
       (done (pending (some 5) (some 6))).cmd.restart = some ⟨1, some 5, some 6⟩ ∧
       (done (pending (some 7) (some 8))).hold.held = false) := by decide +kernel

/-- Characters short by one, one too many, and a completion with no frame in flight. -/
theorem witness_FramesAreStartedAndCompleted_readBack :
    (let s := sending (.leave 1) soleBank
     (∀ read ∈ [[], (sent s).dropLast, sent s ++ [0x7FF]],
       read ≠ sentChars ⟨frame (.leave 1) 7, false⟩ ∧ after (.transmitComplete read) s = s) ∧
     (sent s).length = 6 ∧ soleBank.bus.inFlight = none ∧ soleBank.cmd.restart = none ∧
     after (.transmitComplete (sent s)) soleBank = soleBank ∧ s.bus.asm = ⟨.idle, [], false⟩ ∧
     (completed s).bus.asm = ⟨.inFrame, frameBytes ⟨0, 2⟩ (.leave 1), true⟩) := by decide +kernel

/-- A return at 15, a drop at 16, a newer STATUS that waits, a full queue and a withdrawn PARCEL. -/
theorem witness_CollisionReturnsTheFrame :
    (let at14 (b : Body) (q : List Frame) (n : Nat) (w : Bool) : State :=
       soleBank.setBus { soleBank.bus with queue := q, inFlight := some ⟨{ frame b 30 with coll := n }, w⟩ }
     Runs (at14 (.leave 1) [] 14 false) ∧
       (collided (at14 (.leave 1) [] 14 false)).bus.queue.map (·.coll) = [15] ∧
       (collided (at14 (.leave 1) [] 15 false)).bus.busFault = true ∧
       (collided (at14 (.status exampleStatus) [frame (.status exampleStatus) 3] 0 false)).bus.queue.length = 1 ∧
       (collided (at14 (.leave 1) (parcels 12) 0 false)).bus.lost = 1 ∧
       (collided (at14 (.leave 1) (parcels 11) 0 false)).bus.queue.length = 12 ∧
       (collided (at14 (.parcel (parcel 3 1 1 1)) [] 0 true)).bus.lost = 1 ∧
       (collided (at14 .wipeClaim [] 15 true)).bus.queue = []) := by
  unfold Runs; decide +kernel

/-- The first, a middle and the last character of a LEAVE read back otherwise, by start bit, stop bit, mark and byte,
and what the assembler then holds; characters all as sent, none, one that differs before the last, and no frame. -/
theorem witness_CollisionReturnsTheFrame_readBack :
    (let s := sending (.leave 1) soleBank
     let bytes := frameBytes ⟨0, 2⟩ (.leave 1)
     let cut (k : Nat) (r : BitVec 11) : Assembler := (after (.collision ((sent s).take k ++ [r])) s).bus.asm
     (∀ k < 6, ∀ r ∈ [0x7FF#11, 0x0AA, 0x6AA, 0x4AA], (sent s)[k]? ≠ some r ∧
       (after (.collision ((sent s).take k ++ [r])) s).bus.collisions = 1) ∧
     [cut 0 0x7FF, cut 0 0x0AA, cut 0 0x6AA, cut 0 0x4AA] =
       [⟨.idle, [], false⟩, ⟨.skip, [], false⟩, ⟨.inFrame, [0x55], true⟩, ⟨.skip, [], false⟩] ∧
     [cut 5 0x7FF, cut 5 0x0AA, cut 5 0x6AA, cut 5 0x4AA] =
       [⟨.inFrame, bytes.take 5, true⟩, ⟨.skip, [], false⟩, ⟨.inFrame, [0x55], true⟩,
        ⟨.inFrame, bytes.take 5 ++ [0x55], true⟩] ∧
     (∀ read ∈ [[], sent s, (sent s).take 2, [0x7FF, 0x7FF]], after (.collision read) s = s) ∧
     after (.collision [0x7FF]) soleBank = soleBank ∧
     (after .quietGapEnd (collided s)).bus.rxErrors = 0) := by decide +kernel

/-- What is given up at the sixteenth collision and from a full queue: a DISCHARGE, a claim, a REPORT, a restart's
frame with the other still to come, and its last. -/
theorem witness_CollisionReturnsTheFrame_givenUp :
    (let last (b : Body) : State :=
       soleBank.setBus { soleBank.bus with inFlight := some ⟨{ frame b 7 with coll := 15 }, false⟩ }
     let claims := (last .wipeClaim).setWip { soleBank.wip with state := .claiming, claim := some 7 }
     let replies := (last (.report (answerBody 1 0))).setCmd { soleBank.cmd with reply := some (.running 0 4 4 7) }
     let restarts (leave : Option Nat) : State :=
       (last (.report (answerBody 6 0))).setCmd { soleBank.cmd with restart := some ⟨1, some 7, leave⟩ }
     let full := soleBank.setBus { soleBank.bus with
       queue := parcels 11 ++ [frame (.discharge ⟨1, 1, 0, 0, 1, 0⟩) 11], inFlight := some ⟨frame (.leave 1) 7, false⟩ }
     (collided (last (.discharge ⟨1, 1, 0, 0, 1, 0⟩))).bus.refusedDischarges = 1 ∧
       (collided (last (.leave 1))).bus.inFlight = none ∧ (collided claims).wip.state = .want ∧
       (collided replies).cmd.reply = none ∧
       (collided (restarts (some 8))).cmd.restart = some ⟨1, none, some 8⟩ ∧
       (collided (restarts none)).hold.restart = true ∧
       (collided full).bus.refusedDischarges = 1 ∧ (collided full).bus.queue.length = 12 ∧
       (collided full).bus.inFlight = none) := by decide +kernel

def visiting (b misses : Nat) (phase : LinkPhase) : State :=
  soleBank.setLink { soleBank.link with
    phase := phase, visit := some (visitOf soleBank b)
    ballasts := soleBank.link.ballasts.map fun x => if x.addr = b then { x with misses := misses } else x }

/-- Sound and unsound fields, a reply that is good at one address alone, a link at rest, and the outputs at the bounds
of the phases of an exchange. -/
theorem witness_ExchangesAreDrivenAndJudged :
    (let r : BallastReply := ⟨.hot, ⟨.lit, 5⟩, ⟨.shortCircuit, 0⟩⟩
     reportSound r.a ∧ reportSound r.b ∧ ¬ reportSound ⟨.lit, 11⟩ ∧ ¬ reportSound ⟨.off, 5⟩ ∧
       replyBits 12 r = 0x254029 ∧ judgeReply 12 0x254029 = .good r ∧ judgeReply 11 0x254029 = .miss .badChecksum ∧
       State.reset.link.outputs 0 = ⟨false, true⟩ ∧ soleBank.link.visit = none ∧
       soleBank.link.outputs 63 = ⟨false, true⟩ ∧
       (let l := (visiting 3 0 .running).link
        [0, 6, 23, 24, 55, 56, 63, 64].map l.outputs =
          [⟨true, false⟩, ⟨true, true⟩, ⟨true, false⟩, ⟨true, true⟩, ⟨true, true⟩, ⟨false, true⟩, ⟨false, true⟩,
           ⟨false, true⟩]) ∧
       (after (.resetnLow 10) (visiting 3 0 .running)).link.outputs 0 = ⟨false, true⟩) := by
  unfold reportSound; decide +kernel

/-! ### Witnesses: ballasts and lamps -/

def bothOff (c : TempClass) : BallastReply := ⟨c, ⟨.off, 0⟩, ⟨.off, 0⟩⟩

/-- The bits of that reply at address `b`. -/
def bothOffBits (b : Nat) (c : TempClass) : BitVec 24 := replyBits b (bothOff c)

/-- Misses that do and do not lose the ballast, and good replies, after readback and within it. -/
theorem witness_RepliesAndMissesAreTakenInOrder :
    (∀ s ∈ [visiting 1 1 .running, visiting 1 2 .running, visiting 2 2 (.readback [none])],
      s.hold.held = false ∧ s.link.visit.isSome = true) ∧
    ballastLost (after (.ballastMiss 0xFFFFFF) (visiting 1 1 .running)) 1 = false ∧
    ((lampAt (after (.ballastMiss 0x000000) (visiting 1 2 .running)) 1).bind (·.cause)) = some .ballastLost ∧
    (after (.ballastMiss 0x500007) (visiting 2 2 (.readback [none]))).link.phase = .readback [none, none] ∧
    (after (.ballastMiss 0xFFFFFF) (visiting 2 1 (.readback [none]))).link.visit.map (·.ballast) = some 2 ∧
    ((lampAt (after (.ballastGoodReply (bothOffBits 1 .normal)) (visiting 1 2 .running)) 1).map (·.state)) =
      some .cooling ∧
    ((lampAt (after (.ballastGoodReply (bothOffBits 1 .hot)) (visiting 1 2 .running)) 1).bind (·.cause)) =
      some .ballastHot ∧
    (after (.ballastGoodReply (bothOffBits 3 .warm)) (visiting 3 0 (.readback [none, none]))).link.visit.map (·.ballast) =
      some 4 ∧
    (after (.ballastGoodReply (bothOffBits 4 .warm)) (visiting 4 0 (.readback [none, none, none]))).link.phase =
      .running ∧
    judgeReply 2 0x500007 = .miss .malformed ∧ judgeReply 1 0x000000 = .miss .badChecksum ∧
    judgeReply 1 (bothOffBits 1 .normal) = .good (bothOff .normal) ∧
    after (.ballastMiss (bothOffBits 1 .normal)) (visiting 1 1 .running) = visiting 1 1 .running ∧
    after (.ballastGoodReply 0xFFFFFF) (visiting 1 1 .running) = visiting 1 1 .running := by decide +kernel

/-- A ballast whose lamps fail, one whose lamps have failed; a status at a fitted lamp, an unfitted one and none; a
request once, again, and for a ballast that is not configured. -/
theorem witness_RepliesAndMissesAreTakenInOrder_lamps :
    (let hot := failBallast soleBank 1 .ballastHot
     (lampAt hot 1).map (fun l => (l.state, l.slot, l.cause)) = some (.failed, ⟨.off, 0⟩, some .ballastHot) ∧
       (lampAt hot 3) = lampAt soleBank 3 ∧ hot.link.urgent = [1] ∧ failBallast hot 1 .ballastLost = hot ∧
       failBallast soleBank 9 .ballastHot = soleBank) ∧
    ((lampAt (statusEvent soleBank 1 .openCircuit) 1).bind (·.cause)) = some .lampOpen ∧
    (statusEvent soleBank 2 .shortCircuit).link.urgent = [1] ∧ statusEvent soleBank 9 .openCircuit = soleBank ∧
    statusEvent soleBank 25 .lit = soleBank ∧ (statusEvent soleBank 1 .off).link.urgent = [] ∧
    (requestUrgent (requestUrgent soleBank 4) 4).link.urgent = [4] ∧ requestUrgent soleBank 5 = soleBank := by
  decide +kernel

/-- Every row of R101, R118 and R117 once. -/
theorem witness_ReportsMoveTheLamps :
    (let st (x : LampState) : Lamp := lamp 1 x 0 0
     (takeStatus 7 (st .striking) .lit).state = .warming ∧ (takeStatus 7 (st .lit) .striking).state = .cooling ∧
     (takeStatus 7 (st .warming) .openCircuit).cause = some .lampOpen ∧
     (takeStatus 7 (st .cooling) .lit).state = .cooling ∧ (takeStatusFailsafe (st .off) .lit).state = .lit ∧
     (takeStatusFailsafe (st .lit) .off).slot = ⟨.strike, 10⟩ ∧ (takeStatusFailsafe (st .lit) .striking).state = .off ∧
     takeStatusFailsafe (st .lit) .lit = st .lit ∧ takeStatusFailsafe (st .off) .striking = st .off ∧
     (builtLamp failsafe [some (bothOff .warm)] 10 (lamp 1 .off 0 0)).slot = ⟨.strike, 10⟩ ∧
     readbackLevel failsafe [] = 10 ∧ readbackLevel soleBank [some ⟨.warm, ⟨.lit, 7⟩, ⟨.lit, 9⟩⟩] = 9 ∧
     (let s := soleBank.setSeq { soleBank.seq with lockouts := 2 }
      let built (i : Nat) (r : Option BallastReply) : Lamp := builtLamp s [r, r, r] 8 (lamp i .off 0 0)
      (lamp 1 .off 0 0).fitted = true ∧ (built 5 none).state = .locked ∧
      (built 1 none).cause = some .ballastLost ∧ (built 1 (some (bothOff .hot))).cause = some .ballastHot ∧
      (built 1 (some ⟨.warm, ⟨.shortCircuit, 0⟩, ⟨.lit, 7⟩⟩)).cause = some .lampShort ∧
      (built 2 (some ⟨.warm, ⟨.shortCircuit, 0⟩, ⟨.lit, 7⟩⟩)).slot = ⟨.on, 8⟩ ∧
      (built 1 (some ⟨.normal, ⟨.striking, 0⟩, ⟨.lit, 7⟩⟩)).state = .off)) := by decide +kernel

/-- A scan that begins and one that waits; a cycle that begins with ballast 1, with the urgent list, and one that
waits. -/
theorem witness_ScansAndPollCyclesBegin :
    (let scanning := soleBank.setScn { soleBank.scn with scan := some 3 }
     let urgent := soleBank.setLink { soleBank.link with urgent := [3, 4] }
     soleBank.hold.held = false ∧ soleBank.scn.timer.isSome = true ∧ soleBank.scn.scan = none ∧
       (after .scanStart soleBank).scn.scan = some 0 ∧ (after .scanStart scanning).scn.scanDue = true ∧
       soleBank.link.phase = .running ∧ soleBank.link.visit = none ∧ soleBank.link.cycleRunning = false ∧
       1 ≤ soleBank.link.count ∧ (after .pollCycleDue soleBank).link.visit.map (·.ballast) = some 1 ∧
       (after .pollCycleDue urgent).link.visit.map (·.ballast) = some 3 ∧
       (after .pollCycleDue (visiting 1 0 .running)).link.cycleDue = true) ∧
    visitOf soleBank 1 = ⟨1, ⟨.on, 10⟩, ⟨.on, 10⟩⟩ ∧ visitOf soleBank 4 = ⟨4, ⟨.off, 0⟩, ⟨.off, 0⟩⟩ ∧
    visitOf (setLamps soleBank (lamps.map fun l => if l.index = 5 then { l with slot := ⟨.strike, 10⟩ } else l)) 3 =
      ⟨3, ⟨.strike, 10⟩, ⟨.off, 0⟩⟩ ∧
    visitOf soleBank 13 = ⟨13, ⟨.read, 0⟩, ⟨.read, 0⟩⟩ := by decide +kernel

/-- The ballast visited, the cursor, the cycle and the urgent list after the event of a free link. -/
def walked (running due : Bool) (cursor : Nat) (urgent : List Nat) : Option Nat × Nat × Bool × List Nat :=
  let l := (lampEvent (soleBank.setLink { soleBank.link with
    cycleRunning := running, cycleDue := due, cursor := cursor, urgent := urgent })).link
  (l.visit.map (·.ballast), l.cursor, l.cycleRunning, l.urgent)

/-- A link in readback and one with a visit in flight; an urgent ballast within a cycle and between two, with a cycle
due; the cursor at 1 and at the highest ballast; the end of a cycle with and without the next one due. -/
theorem witness_ScansAndPollCyclesBegin_walk :
    (∀ phase ∈ [LinkPhase.running, .readback []],
      (lampEvent (visiting 1 0 phase)).link = (visiting 1 0 phase).link) ∧
    [walked true false 2 [4, 3], walked false false 5 [4], walked false true 5 [4], walked true false 1 [],
        walked true false 4 [], walked true false 5 [], walked true true 5 [], walked false false 5 [],
        walked false true 5 []] =
      [(some 4, 2, true, [3]), (some 4, 5, false, []), (some 4, 1, true, []), (some 1, 2, true, []),
        (some 4, 5, true, []), (none, 5, false, []), (some 1, 2, true, []), (none, 5, false, []),
        (some 1, 2, true, [])] := by decide +kernel

def lampInState (st : LampState) (attempt : Nat) : State :=
  setLamps soleBank (soleBank.seq.lamps.map fun l =>
    if l.index = 3 then { lamp 3 st 5 5 with attempt := attempt, residue := 60000 } else l)

theorem witness_LampAndSequencerTimersAreTaken :
    (∀ st ∈ [LampState.striking, .warming, .cooling, .lit],
      (lampInState st 2).hold.held = false ∧ lampIn (lampInState st 2) 3 st = true) ∧
    ((lampAt (after (.strikeAttemptExpiry 3) (lampInState .striking 2)) 3).map (·.attempt)) = some 3 ∧
    ((lampAt (after (.strikeAttemptExpiry 3) (lampInState .striking 3)) 3).bind (·.cause)) = some .noStrike ∧
    after (.strikeAttemptExpiry 3) (lampInState .lit 0) = lampInState .lit 0 ∧
    ((lampAt (after (.warmupEnd 3) (lampInState .warming 0)) 3).map (·.state)) = some .lit ∧
    ((lampAt (after (.coolingEnd 3) (lampInState .cooling 0)) 3).map (·.state)) = some .off ∧
    ((lampAt (after (.runMinute 3) (lampInState .lit 0)) 3).map fun l => (l.runMinutes, l.residue)) =
      some (6, 0) ∧
    ((lampAt (after (.runMinute 4) (lampInState .lit 0)) 4).map (·.runMinutes)) = some 0 ∧
    ((lampAt (after (.coolingEnd 3) ((lampInState .cooling 0).setCtl failsafe.ctl)) 3).map (·.slot)) =
      some ⟨.strike, 10⟩ := by decide +kernel

theorem witness_LampAndSequencerTimersAreTaken_sequencer :
    (let s := soleBank.setSeq { soleBank.seq with spacing := some 4999, holdoff := some 599999 }
     s.hold.held = false ∧ s.seq.spacing.isSome = true ∧ s.seq.holdoff.isSome = true ∧ s.ctl.mode ≠ .failsafe ∧
       s.seq.lamps.any Lamp.isLit = true ∧
       ((lampAt (after .extinguishHoldoffExpiry s) 2).map (·.state)) = some .cooling ∧
       (after .strikeSpacingExpiry (s.setPln { s.pln with fReq := 2800 })).seq.spacing = some 0 ∧
       ((lampAt (after .dayTimerExpiry (strikeBank 800)) 4).map (·.strikesDay)) = some 0 ∧
       soleBank.seq.spacing = none ∧ soleBank.seq.holdoff = none ∧
       after .strikeSpacingExpiry soleBank = soleBank ∧ after .extinguishHoldoffExpiry soleBank = soleBank ∧
       (let dark := setLamps s (s.seq.lamps.map fun l => lamp l.index .off 0 0)
        dark.seq.lamps.all (fun l => decide (l.state ≠ .lit)) = true ∧
          after .extinguishHoldoffExpiry dark = lampEvent dark)) := by decide +kernel

/-- At 49 and at 50 ms; a module with neither, one and both ballasts LOST, of which one is on the urgent list already. -/
theorem witness_LockoutsMoveTheModule_urgent :
    (let open1 := after (.lockoutOpen 1) soleBank
     let lost (bs : List Nat) (urgent : List Nat) : State := open1.setLink { open1.link with
       visit := some (visitOf open1 4), urgent := urgent
       ballasts := open1.link.ballasts.map fun x => if x.addr ∈ bs then { x with lost := true } else x }
     after (.lockoutOpen 1 49) soleBank = soleBank ∧ after (.lockoutClose 1 49) open1 = open1 ∧
       (after (.lockoutOpen 1 50) soleBank).seq.lockouts = 1 ∧ (after (.lockoutClose 1 50) open1).seq.lockouts = 0 ∧
       open1.seq.lockouts.getLsbD 0 = true ∧ open1.link.phase = .running ∧ LampsInv open1 ∧
       ([lost [] [], lost [1] [], lost [2] [3], lost [1, 2] [2]].map fun s =>
         (after (.lockoutClose 1) s).link.urgent) = [[], [1], [3, 2], [2, 1]] ∧
       ([lost [] [], lost [1, 2] []].map fun s => ((after (.lockoutClose 1) s).seq.lamps.take 9).map (·.state)) =
         [List.replicate 4 .cooling ++ [.striking, .off, .off, .off, .off],
          List.replicate 4 .failed ++ [.striking, .off, .off, .off, .off]]) := by
  unfold LampsInv; decide +kernel

/-- Modules 1 and 6, opened and closed, before and after readback; a lamp of a LOST ballast fails. -/
theorem witness_LockoutsMoveTheModule :
    (let open1 := after (.lockoutOpen 1) soleBank
     let lost := open1.setLink { open1.link with
       ballasts := open1.link.ballasts.map fun x => if x.addr = 2 then { x with lost := true } else x }
     let early := soleBank.setLink { soleBank.link with phase := .readback [] }
     soleBank.seq.lockouts.getLsbD 0 = false ∧ open1.seq.lockouts = 1 ∧
       ((lampAt open1 1).map (·.state)) = some .locked ∧ after (.lockoutOpen 1) open1 = open1 ∧
       after (.lockoutClose 6) soleBank = soleBank ∧ (after (.lockoutOpen 6) early).seq.lockouts = 32 ∧
       (after (.lockoutClose 6) (after (.lockoutOpen 6) early)).seq.lockouts = 0 ∧
       ((lampAt (after (.lockoutClose 1) lost) 2).map (·.state)) = some .cooling ∧
       ((lampAt (after (.lockoutClose 1) lost) 3).bind (·.cause)) = some .ballastLost) := by decide +kernel

theorem witness_LampJudgementsStrikeOrLevel : LampsInv (strikeBank 900) ∧ LampsInv soleBank ∧
    (strikeBank 900).seq.spacing = none ∧ isolated.ctl.mode = .isolated ∧ LampsInv isolated ∧
    (lampEvent isolated).pln.fReq = 2800 ∧
    (let s := (strikeBank 900).setSeq { (strikeBank 900).seq with spacing := some 0 }
     s.seq.spacing.isSome = true ∧ (lampEvent s).seq.lamps.all (fun l => decide (l.state ≠ .striking)) = true) ∧
    extinguishHolds (strikeBank 300) = false ∧
    (let burning := setLamps (strikeBank 600) ((strikeBank 600).seq.lamps.map fun l =>
       if l.index ≤ 4 then lamp l.index .lit 0 0 else l)
     LampsInv burning ∧ (lampEvent burning).seq.holdoff = some 0 ∧ (lampEvent burning).seq.level = 5) ∧
    (lampEvent failsafe).seq = failsafe.seq ∧ LampsInv failsafe := by
  unfold LampsInv; decide +kernel

/-- Due, with lamp 5 the first, and lamp 4 beyond its day budget; not due for light, for spacing, for a lamp that
strikes. -/
theorem witness_StrikeRuleStrikesItsLamp :
    (let s := strikeBank 900
     let spaced := s.setSeq { s.seq with spacing := some 0 }
     let dark := setLamps (strikeBank 0) ((strikeBank 0).seq.lamps.map fun l => lamp l.index .off 0 8)
     LampsInv s ∧ LampsInv dark ∧ s.link.phase = .running ∧ s.ctl.mode = .dosing ∧
       ((lampEvent s).seq.lamps.filter fun l => decide (l.state = .striking)).map (·.index) = [5] ∧
       (lampEvent (strikeBank 800)).seq.spacing = none ∧ (lampEvent spaced).seq.spacing = some 0 ∧
       (lampEvent (lampEvent s)).seq.lamps.countP (fun l => decide (l.state = .striking)) = 1 ∧
       ((lampEvent dark).seq.lamps.filter fun l => decide (l.state = .striking)).map (·.index) = [1]) := by
  unfold LampsInv; decide +kernel

/-! ### Witnesses: scans and the wiper -/

def scanning (due : Bool) : State := soleBank.setScn { soleBank.scn with scan := some 0, scanDue := due }

def samples : List (BitVec 10) := [160, 1023, 0, 0, 0, 0, 180, 1003]

/-- The runs of R142 at 3, 4, 19 and 20, and a completion with and without a scan that is due. -/
theorem witness_ScansJudgeTheirSamples :
    (∀ d ∈ [true, false], Runs (scanning d) ∧ (scanning d).scn.scan.isSome = true) ∧
    (⟨[1], false, 2, 0⟩ : Input).sample false 9 = ⟨[1], false, 3, 0⟩ ∧
    (⟨[1], false, 3, 0⟩ : Input).sample false 9 = ⟨[], true, 0, 0⟩ ∧
    (⟨[1], true, 2, 18⟩ : Input).sample true 9 = ⟨[1, 9], true, 0, 19⟩ ∧
    (⟨[1], true, 0, 19⟩ : Input).sample true 9 = ⟨[1, 9], false, 0, 0⟩ ∧
    (⟨[1], false, 2, 20⟩ : Input).sample true 9 = ⟨[1, 9], false, 0, 20⟩ ∧
    (after (.scanComplete samples false) (scanning true)).scn.scan = some 0 ∧
    (let t := after (.scanComplete samples true) (scanning false)
     t.scn.scan = none ∧ t.scn.fEffBegun = true ∧ (inputAt t 0).window = [160] ∧ (inputAt t 1).outRun = 1 ∧
       (inputAt t 6).window = [180] ∧ t.scn.ownFlow.map (·.state) = some .reverse ∧
       t.pln.flowSource = some ⟨2, 0⟩ ∧ t.scn.ownUvt.isSome = true ∧ t.scn.sensorFaults = 0) ∧
    (let out := scanning false
     let out := out.setScn { out.scn with inputs := out.scn.inputs.map fun x => { x with outRun := 3 } }
     let t := after (.scanComplete (List.replicate 8 1023) true) out
     t.scn.sensorFaults = 4 ∧ t.scn.fEffBegun = false ∧ (inputAt t 7).fault = true ∧ t.scn.ownFlow = some ⟨.fault, 0⟩ ∧
       t.scn.ownUvt = some ⟨.fault, 0⟩) ∧
    (let bare := (scanning false).setLdr { soleBank.ldr with straps := { soleBank.ldr.straps with uvtSrc := false } }
     (after (.scanComplete samples true) bare).scn.ownUvt = none ∧ (inputAt (scanning false) 7).window = []) := by
  unfold Runs; decide +kernel

/-- The own offers, from position 2 and slot 1, against no source, the own, one below and one above: FAULT, REVERSE
and NORMAL, and none handed. -/
theorem witness_ScansJudgeTheirSamples_offers :
    (let run (raw : List (BitVec 10)) (fdir : Bool) (s : State) : Planner :=
       (after (.scanComplete raw fdir) (s.setScn { s.scn with scan := some 0 })).pln
     let four (s : State) := s.setScn { s.scn with inputs := s.scn.inputs.map fun x => { x with outRun := 3 } }
     let bad : List (BitVec 10) := List.replicate 8 1023
     let unstrapped (s : State) := s.setLdr { s.ldr with straps := { s.ldr.straps with flowSrc := false } }
     ownSlot soleBank = 1 ∧
       [run samples false soleBank, run samples true (offered 2 1), run samples true (offered 3 2),
         run samples true (offered 1 0), run bad true (four (offered 3 2)), run bad true (offered 3 2),
         run samples true (unstrapped (offered 3 2))].map Planner.flowHeld =
         [(.normal 0, some ⟨2, 0⟩, none), (.reverse, some ⟨2, 0⟩, none), (.reverse, some ⟨2, 0⟩, some 0),
          (.stale, some ⟨1, 5⟩, some 0), (.stale, some ⟨2, 0⟩, some 0), (.stale, some ⟨3, 5⟩, none),
          (.stale, some ⟨3, 5⟩, none)] ∧
       [run samples true soleBank, run samples true (offered 2 1), run samples true (offered 3 2),
         run samples true (offered 1 0), run bad true (four (offered 3 2)), run bad true (offered 3 2)].map
           Planner.uvtHeld =
         [(.normal 1000, some ⟨1, 0⟩, none), (.normal 1000, some ⟨1, 0⟩, none), (.normal 1000, some ⟨1, 0⟩, some 0),
          (.stale, some ⟨0, 5⟩, some 0), (.stale, some ⟨1, 0⟩, some 0), (.stale, some ⟨2, 5⟩, none)]) := by
  decide +kernel

/-- Lamps 1 and 2 LIT for 60 s at 100 %, and every sensor at 16 counts above its zero, 1.60 mW/cm². -/
def learning : State :=
  let s := scanning false
  let s := setLamps s (s.seq.lamps.map fun l => if l.index ≤ 2 then { lamp l.index .lit 0 0 with timer := 60000 } else l)
  s.setScn { s.scn with inputs := s.scn.inputs.map fun x => { x with window := [36, 36, 36] } }

/-- A module that learns, one without a LIT lamp, a lamp lit a millisecond too short. -/
theorem witness_OutputEstimatesAreLearned :
    (let scan (s : State) : State := after (.scanComplete (List.replicate 8 36) false) s
     let short := setLamps learning (learning.seq.lamps.map fun l =>
       if l.index = 1 then { l with timer := 59999 } else l)
     Runs learning ∧ LampsInv learning ∧ learning.scn.scan.isSome = true ∧ 1 ≤ learning.ldr.cfg.nMod ∧
       (sensorValue learning.ldr.cfg.sensorSpan (inputAt (scan learning) 0)).isSome = true ∧
       ((lampAt (scan learning) 1).map (·.e)) = some 942 ∧ ((lampAt (scan learning) 5).map (·.e)) = some 1000 ∧
       ((lampAt (scan short) 1).map (·.e)) = some 1000) := by
  unfold Runs LampsInv; decide +kernel

/-- A lapse and a UVT that lower G strike lamp 5, a scan whose estimates fall strikes lamp 3, one whose flow isolates the
bank ends with two judgements, and LISTEN ends with one at DOSING and at ISOLATED. -/
theorem witness_LampJudgementsStrikeOrLevel_events :
    (let bright := (strikeBank 800).setPln { (strikeBank 800).pln with uvt := .normal 700, uvtSource := some ⟨9, 5⟩ }
     let bright := bright.setLdr { bright.ldr with
       cfg := { bright.ldr.cfg with table := (List.range 8).map fun k => (500 + 50 * k, 600 + 100 * k) } }
     let scanned (raw : BitVec 10) (s : State) : State := after (.scanComplete (List.replicate 8 raw) false) s
     let flows := (bank .hold [] [twin]).setPln { (bank .hold [] [twin]).pln with holdCond := true }
     let flows := flows.setScn { flows.scn with scan := some 0 }
     let ends (s t : State) : Prop :=
       let learnt := (setMode s t.ctl.mode).setSeq { s.seq with
         lamps := List.zipWith (fun l g => { l with e := g.e }) s.seq.lamps t.seq.lamps }
       let judged := if t.ctl.mode = .isolated ∧ s.ctl.mode ≠ .isolated then lampEvent learnt else learnt
       EndsAsLampEvent (judged.setPln { judged.pln with uvt := t.pln.uvt }) t
     let served := learning.setPln { learning.pln with fReq := 595 }
     bright.hold.held = false ∧ bright.pln.uvtSource.isSome = true ∧ TakesFrames bright ∧
       lampIn (lampEvent bright) 5 .striking = false ∧ lampIn (after .uvtSourceLapse bright) 5 .striking = true ∧
       lampIn (after (.uvtReceived ⟨0, 1⟩ ⟨500, 0⟩) bright) 5 .striking = true ∧
       lampIn (after (.uvtReceived ⟨15, 1⟩ ⟨500, 0⟩) bright) 5 .striking = false ∧
       Runs served ∧ lampIn (lampEvent served) 3 .striking = false ∧ lampIn (scanned 36 served) 3 .striking = true ∧
       ends served (scanned 36 served) ∧ Runs flows ∧ (scanned 1003 flows).ctl.mode = .isolated ∧
       ends flows (scanned 1003 flows) ∧
       (∀ s ∈ [listeningAmong [] [], listeningAmong [] [twin]], Runs s ∧ s.ctl.mode = .listen ∧
         EndsAsLampEvent (setMode s (after .listenEnd s).ctl.mode) (after .listenEnd s)) ∧
       (after .listenEnd (listeningAmong [] [twin])).pln.fReq = 2800) := by
  unfold EndsAsLampEvent TakesFrames Runs; decide +kernel

/-- The count of an armed module, a reference that is taken, a judgement at 48 and 49 runs, and a request. -/
theorem witness_FoulingIsReferencedAndJudged :
    (let armed : FoulRef := { FoulRef.fresh with armed := true, postCount := 3 }
     let taken : FoulRef := { FoulRef.fresh with ratio := some ⟨100, 0⟩, eRef := [1000, 1000, 1000, 1000], belowRun := 49 }
     let ls := lampsOf learning 1
     let fouled (st : WiperState) : State :=
       (wiper st learning).setScn { learning.scn with refs := [taken] ++ learning.scn.refs.drop 1 }
     let scan (s : State) : State := after (.scanComplete (List.replicate 8 36) false) s
     countPost true false armed = { armed with postCount := 4 } ∧ countPost true true armed = { armed with postCount := 0 } ∧
       (takeReference ls (inputAt learning 0) (some 80) { armed with postCount := 4 }).ratio = some ⟨800, 19999⟩ ∧
       takeReference ls (inputAt learning 0) (some 80) armed = armed ∧ ls.any Lamp.isLit = true ∧
       judgeFouling 70 ls true (some 80) { taken with belowRun := 48 } = (taken, false) ∧
       judgeFouling 70 ls true (some 80) taken = ({ taken with belowRun := 0 }, true) ∧
       judgeFouling 70 ls false (some 80) taken = (taken, false) ∧
       judgeFouling 70 ls true (some 80) FoulRef.fresh = (FoulRef.fresh, false) ∧
       (∀ st ∈ [WiperState.parked, .homing, .fault], Runs (fouled st) ∧ (fouled st).scn.scan.isSome = true) ∧
       (scan (fouled .parked)).scn.foulRequests = 1 ∧ (scan (fouled .parked)).wip.state = .claiming ∧
       (scan (fouled .homing)).wip.owed = true ∧ (scan (fouled .fault)).wip.state = .fault) := by
  unfold Runs; decide +kernel

/-- No lamp burning, a faulty sensor, an empty window, a value, a stroke, and the time before the first light. -/
theorem witness_FluencesAreComputed :
    (let begun := learning.setScn { learning.scn with fEffBegun := true }
     let faulty := begun.setScn { begun.scn with inputs := begun.scn.inputs.map fun x => { x with fault := true } }
     contribution learning 2 = 0 ∧ contribution faulty 1 = gFactor faulty * 20000 ∧
       moduleEstimated faulty 1 = true ∧ moduleEstimated faulty 2 = false ∧ contribution soleBank 1 = 0 ∧
       contribution learning 1 = 160 * gFactor learning * 20 ∧
       fEff learning = 0 ∧ fEff begun ≠ 0 ∧ 5 * fEff (wiper .strokeOut faulty) = 4 * fEff faulty ∧ fEff faulty ≠ 0 ∧
       State.reset.ldr.cfg = .absent) := by decide +kernel

/-- The UVT at and below the first point, at the second, between them at a half, and above the last; the means of
one count and of four at 20, 200 and 1000 counts, a step beside each, and the values that are limited. -/
theorem witness_FluencesAreComputed_scaling :
    (let at_ (u : Nat) : State := soleBank.setPln { soleBank.pln with uvt := .normal u }
     soleBank.ldr.cfg.table.take 3 = [(500, 600), (550, 650), (600, 700)] ∧
       (soleBank.ldr.cfg.table.Pairwise fun p q => p.1 < q.1) ∧
       (([0, 500, 525, 550, 849, 850, 1000]).map fun u => gFactor (at_ u)) = [600, 600, 625, 650, 949, 950, 950]) ∧
    (let one (raw : Nat) : Input := ⟨[raw], false, 0, 20⟩
     sensorValue 9800 ⟨[], false, 0, 0⟩ = none ∧
       (([19, 20, 21, 1000]).map fun r => sensorValue 9800 (one r)) = [some 0, some 0, some 10, some 9800] ∧
       sensorValue 65535 (one 1003) = some 65535 ∧ sensorValue 980 ⟨[20, 20, 20, 22], false, 0, 20⟩ = some 1 ∧
       (([199, 200, 201, 1000, 1003]).map fun r => flowInputValue 20000 (one r)) =
         [some 0, some 0, some 25, some 20000, some 20000] ∧
       (([199, 200, 201, 204, 1000, 1003]).map fun r => uvtInputValue (one r)) =
         [some 0, some 0, some 1, some 5, some 1000, some 1000] ∧
       flowInputValue 65535 (one 1000) = some 65535 ∧ flowInputValue 799 (one 201) = some 0) := by decide +kernel

theorem witness_ReportRecordsAreLaidOut :
    (leavingFrom midBank).trk.queue.length = 3 ∧
    (∀ r ∈ (leavingFrom midBank).trk.queue, 1 ≤ r.origin.toNat ∧ r.origin.toNat ≤ 8) ∧
    (∀ e ∈ midBank.ros.entries, e.pos < 16) ∧
    (tableRecords midBank 2)[0]? = some [0x01, 0, 0, 0, 101, 0x52, 0x21, 0xFB] ∧
    ((tableRecords midBank 0)[0]?.map (·.take 4)) = some [0xB0, 10, 3, 232] ∧
    (let s := midBank.setTrk { midBank.trk with counter := 0xFFFFFFFF, queue := [record 1 1 0 65535 100] }
     (tableRecords s 1)[0]?.map (·.drop 4) = some [0x10, 0, 100, 0, 0, 0]) := by decide +kernel

/-- A request in PARKED, admitted and not, in HOMING and elsewhere; the window's end with and without WEND. -/
theorem witness_WipesAreRequestedAndBegun :
    (∀ s ∈ [soleBank, isolated, wiper .homing soleBank, wiper .fault soleBank],
      Runs s ∧ s.wip.interval.isSome = true ∧ s.bus.queue.length < 12) ∧
    (after .wipeIntervalExpiry soleBank).wip.state = .claiming ∧
    (after .wipeIntervalExpiry isolated).wip.state = .want ∧
    (after .wipeIntervalExpiry (wiper .homing soleBank)).wip.owed = true ∧
    (after .wipeIntervalExpiry (wiper .fault soleBank)).wip.interval = some 0 ∧
    (let window (whome wend : Bool) : State := soleBank.setWip
       { soleBank.wip with state := .claiming, window := some 399, whome := whome, wend := wend }
     (∀ b ∈ [true, false], Runs (window b b) ∧ (window b b).wip.window.isSome = true) ∧
       (after .claimWindowExpiry (window true false)).wip.release = some 0 ∧
       (after .claimWindowExpiry (window false false)).wip.state = .strokeOut ∧
       (after .claimWindowExpiry (window false true)).wip.state = .strokeBack ∧
       (after .claimWindowExpiry (window true true)).wip.state = .fault) := by
  unfold Runs; decide +kernel

/-- F_req at 70 % of F_max and a step above it, each other condition of R159 missing alone, and the accrual expiry
in WANT, admitted and not. -/
theorem witness_WipesAreRequestedAndBegun_admission :
    (let s := strikeBank 2800
     let wiping (chan : Nat) (st : EntryState) : RosterEntry :=
       { peer 3 1 with chan := chan, state := st, wiping := some 4 }
     let hears (e : RosterEntry) : State := s.setRos { s.ros with entries := [selfEntry 0 2 1, e] }
     fMax s = 4000 ∧ admitted (strikeBank 2800) = true ∧ admitted (strikeBank 2801) = false ∧
       (∀ m ∈ [BankMode.loading, .listen, .isolated, .failsafe], admitted (setMode s m) = false) ∧
       admitted (setMode s .hold) = true ∧ admitted (s.setPln { s.pln with shortfall := true }) = false ∧
       admitted (s.setLdr { s.ldr with supply := ⟨true, false, false⟩ }) = false ∧
       admitted (hears (wiping 0 .active)) = false ∧ admitted (hears (wiping 0 .lost)) = true ∧
       admitted (hears (wiping 1 .active)) = true ∧ admitted (waitingOnOne s) = false) ∧
    (∀ s ∈ [wiper .want soleBank, wiper .want isolated, waitingOnOne soleBank],
      Runs s ∧ s.trk.accrual.isSome = true ∧ s.bus.queue.length < 12) ∧
    (after .accrualTimerExpiry (wiper .want soleBank)).wip.state = .claiming ∧
    (after .accrualTimerExpiry (wiper .want isolated)).wip.state = .want ∧
    (after .accrualTimerExpiry (waitingOnOne soleBank)).wip.state = .want := by
  unfold Runs; decide +kernel

/-- The wiper in `st` with both limits as given and its timers running. -/
def driving (st : WiperState) (whome wend owed : Bool) : State :=
  soleBank.setWip { soleBank.wip with
    state := st, whome := whome, wend := wend, owed := owed, stroke := some 39999, release := some 1999
    claim := if st = .claiming then some 7 else none }

/-- WFWD and WREV in the eight states, in HOMING at home, and in reset (R155). -/
theorem test_wiperOutputs :
    ([WiperState.absent, .homing, .parked, .want, .claiming, .strokeOut, .strokeBack, .fault].map fun st =>
      (wfwd (driving st false false false), wrev (driving st false false false))) =
      [(false, false), (false, true), (false, false), (false, false), (false, false), (true, false), (false, true),
        (false, false)] ∧
    wrev (driving .homing true false false) = false ∧
    wrev ((driving .strokeBack false false false).setHold heldInReset.hold) = false ∧
    wfwd (after (.resetnLow 10) (driving .strokeOut false false false)) = false := by decide +kernel

/-- Every clause of the statement once. -/
theorem witness_LimitsAndTimersEndTheDrive :
    Runs (driving .strokeOut false false false) ∧ (driving .strokeOut false false false).bus.queue.length < 12 ∧
    (after .whomeInactive (driving .strokeOut true false false)).wip.release = none ∧
    (after (.wendActive false) (driving .parked false true false)).wip.wend = false ∧
    after (.wendActive true) (driving .parked false true false) = driving .parked false true false ∧
    (after (.wendActive true) (driving .strokeOut false false false)).wip.state = .strokeBack ∧
    (after (.wendActive true) (driving .homing false false false)).wip.state = .homing ∧
    after .whomeActive (driving .parked true false false) = driving .parked true false false ∧
    (after (.wendActive true) (driving .absent true false false)).wip.state = .absent ∧
    (after (.wendActive true) (driving .claiming true false false)).wip.state = .fault ∧
    ((after (.wendActive true) (driving .strokeOut true false false)).bus.queue.map (·.body)) = [.wipeDone 1] ∧
    ((after .whomeActive (driving .strokeBack false true false)).bus.queue.map (·.body)) = [.wipeDone 1] ∧
    (after (.wendActive true) (driving .want true false false)).wip.faults = 1 ∧
    (after .whomeActive (driving .homing false true false)).wip.state = .fault ∧
    ((after .whomeActive (driving .strokeBack false false false)).bus.queue.map (·.body)) = [.wipeDone 0] ∧
    (after .whomeActive (driving .strokeBack false false false)).wip.strokes = 1 ∧
    (after .whomeActive (driving .homing false false false)).wip.state = .parked ∧
    (after .whomeActive ((driving .homing false false true).setCtl isolated.ctl)).wip.state = .want ∧
    (after .strokeTimerExpiry (driving .strokeBack false false false)).wip.state = .fault ∧
    (after .strokeTimerExpiry (driving .homing false false false)).wip.faults = 1 ∧
    (after .releaseTimerExpiry (driving .strokeOut true false false)).wip.state = .fault ∧
    after .releaseTimerExpiry (driving .parked true false false) = driving .parked true false false := by
  unfold Runs; decide +kernel

/-- At 9 ms nothing, at 10 ms the change (R155). -/
theorem witness_LimitsAndTimersEndTheDrive_filter :
    (let s := driving .strokeBack false false false
     let out := driving .strokeOut true true false
     after (.whomeActive 9) s = s ∧ (after (.whomeActive 10) s).wip.state = .parked ∧
       after (.wendActive true 9) s = s ∧ (after (.wendActive true 10) s).wip.wend = true ∧
       after (.wendActive false 9) out = out ∧ (after (.wendActive false 10) out).wip.wend = false ∧
       after (.whomeInactive 9) out = out ∧ (after (.whomeInactive 10) out).wip.whome = false) := by decide +kernel

/-- Both limits in the other states, an owed wipe that is admitted and one that is not, stopped timers. -/
theorem witness_LimitsAndTimersEndTheDrive_states :
    (∀ st ∈ [WiperState.parked, .want, .homing, .claiming, .strokeOut, .strokeBack],
      (after .whomeActive (driving st false true true)).wip.state = .fault ∧
        (after .whomeActive (driving st false true true)).wip.owed = false) ∧
    (∀ st ∈ [WiperState.absent, .fault],
      (after .whomeActive (driving st false true false)) = driving st true true false) ∧
    (∀ st ∈ [WiperState.parked, .want, .claiming, .absent, .fault, .strokeOut],
      (after .whomeActive (driving st false false false)) = driving st true false false) ∧
    (let window := (driving .claiming false true false).setWip
       { (driving .claiming false true false).wip with claim := none, window := some 5 }
     ((after .whomeActive window).bus.queue.map (·.body)) = [.wipeDone 1]) ∧
    (after .whomeActive (driving .claiming false true false)).bus.queue = [] ∧
    (after .whomeActive (driving .homing false false true)).wip.state = .claiming ∧
    (let still := (driving .strokeOut false false false).setWip
       { (driving .strokeOut false false false).wip with stroke := none, release := none }
     after .strokeTimerExpiry still = still ∧ after .releaseTimerExpiry still = still) := by decide +kernel

/-! ### Witnesses: the headline statements -/

/-- A REPORT of the longest body is read back. -/
theorem witness_BuiltFramesAreReadBack :
    (let r : ReportBody := ⟨7, 2, 0, 0, 4, List.replicate 43 0xA5⟩
     r.records.length ≤ 43 ∧ judgeFrame (frameBytes ⟨3, 8⟩ (.report r)) = some (.reportReceived ⟨3, 8⟩)) := by
  decide +kernel

/-- The characters of 0x01 and 0x81 on the line; the frame in flight is driven, and nothing else is. -/
theorem test_lineBits :
    lineBits [0x01, 0x81] =
      [false, true, false, false, false, false, false, false, false, true, true,
       false, true, false, false, false, false, false, false, true, false, true] ∧
    lineBits [] = [] ∧ State.reset.bus.driven = [] ∧
    { soleBank.bus with inFlight := some ⟨frame .wipeClaim 7, false⟩ }.driven.length = 55 := by decide +kernel

theorem witness_StepsKeepTheStationAndItsReset_station :
    (∀ s ∈ [State.reset, soleBank, midBank, holding, listening, failsafe, heldInReset,
        bank .isolated [] [twin], after (.rosterEntryLost key1) midBank], StationInv s) ∧
    ¬ StationInv (bank .dosing [] [twin]) ∧ ¬ StationInv isolated ∧
    (after (.rosterEntryLost key1) midBank).ros.role = .head := by
  unfold StationInv; decide +kernel

/-- Held by each cause and running; a bank not held whose supply stands below the reset level is ruled out. -/
theorem witness_StepsKeepTheStationAndItsReset_reset :
    (∀ s ∈ [soleBank, brownedOut, after (.resetnLow 10) soleBank, after (.restart plant (toBank 0 0)) listening,
      after (.resetnLow 10) brownedOut], ResetInv s) ∧
    ¬ ResetInv (soleBank.setLdr { soleBank.ldr with supply := ⟨true, true, false⟩ }) := by
  unfold ResetInv; refine ⟨?_, ?_⟩ <;> decide +kernel

/-- A board at position 1 heard without a serial. -/
def unnamedOne : RosterEntry := { peer 1 1 with serial := none, state := .heard }

/-- Serials in order, after none; out of order, twice the same, and none after one. -/
theorem witness_StepsKeepTheRoster :
    (∀ s ∈ [State.reset, heldInReset, midBank, bank .dosing [unnamedOne, peer 1 1, otherOne] []], RosterInv s) ∧
    (∀ es ∈ [[otherOne, peer 1 1], [peer 1 1, peer 1 1], [peer 1 1, unnamedOne]], ¬ RosterInv (bank .dosing es [])) ∧
    (after (.joinReceived ⟨0, 1⟩ (joinOf 7)) midBank).ros.entries.map (·.serial) =
      [some 7, some 101, some 1, some 103] := by
  refine ⟨?_, ?_, by decide +kernel⟩ <;>
    · unfold RosterInv rosterSound RosterEntry.placed RosterEntry.before; decide +kernel

theorem witness_StepsKeepTheInvariants :
    (let s := (leavingFrom midBank).setPending [.accrualTimerExpiry]
     ParcelsInv s ∧ TransmitInv s ∧ LampsInv s ∧
       (after .accrualTimerExpiry (s.setPending [])).bus.queue.length = 2) := by
  unfold ParcelsInv Tracker.sound TransmitInv queueSound LampsInv; decide +kernel

end Sys2Proof.Tests
end

section
/-! Every command keeps the parcel queue sound, and a millisecond too (O55). -/

namespace Sys2Proof.Machine

/-! ### Operations that leave the account alone -/

theorem SameAccount.refl (s : State) : SameAccount s s := by constructor <;> rfl

theorem SameAccount.trans {s t u : State} (h : SameAccount s t) (g : SameAccount t u) : SameAccount s u :=
  ⟨g.queue.trans h.queue, g.next.trans h.next, g.z.trans h.z, g.mode.trans h.mode, g.role.trans h.role⟩

/-- The invariant reads four blocks. -/
theorem sameAccount_of_blocks {s t : State} (hc : t.ctl = s.ctl) (hl : t.ldr = s.ldr) (ht : t.trk = s.trk)
    (hr : t.ros = s.ros) : SameAccount s t := by
  constructor <;> simp only [hc, hl, ht, hr]

theorem foldl_account {α : Type} (f : State → α → State) (hf : ∀ s a, SameAccount s (f s a)) (l : List α)
    (s : State) : SameAccount s (l.foldl f s) := by
  induction l generalizing s with
  | nil => exact .refl s
  | cons a l ih => exact (hf s a).trans (ih _)

theorem freeWait_account (s : State) (c p : Nat) : SameAccount s (freeWait s c p) := by
  unfold freeWait; split
  · constructor <;> simp
  · exact .refl s

theorem strikeBoundary_account (s : State) (i : Nat) : SameAccount s (strikeBoundary s i) := by
  unfold strikeBoundary; split
  · split <;> constructor <;> simp
  · exact .refl s

theorem putOut_account (s : State) : SameAccount s (putOut s) := by
  unfold putOut; split
  · constructor <;> simp
  · exact .refl s

theorem lockModule_account (s : State) (m : Nat) : SameAccount s (lockModule s m) := by
  constructor <;> simp [lockModule]

theorem unlockLamp_account (s : State) (i : Nat) : SameAccount s (unlockLamp s i) := by
  unfold unlockLamp; split
  · split <;> constructor <;> simp
  · exact .refl s

theorem goodReply_account (s : State) (v : Visit) (r : BallastReply) : SameAccount s (goodReply s v r) := by
  unfold goodReply
  simp only
  split <;> constructor <;> simp

theorem missedReply_account (s : State) (v : Visit) : SameAccount s (missedReply s v) := by
  unfold missedReply
  simp only
  split
  · constructor <;> simp
  · split <;> constructor <;> simp
  · split <;> constructor <;> simp

theorem wendReached_account (s : State) : SameAccount s (wendReached s) := by
  unfold wendReached; split
  · constructor <;> simp
  · split
    · constructor <;> simp
    · exact .refl s

theorem whomeReached_account (s : State) : SameAccount s (whomeReached s) := by
  unfold whomeReached; split
  · constructor <;> simp
  · split
    · constructor <;> simp
    · constructor <;> simp
    · exact .refl s

theorem closeExpiry_account (s : State) (q : Nat) : SameAccount s (closeExpiry s q) := by
  constructor <;> simp [closeExpiry]

theorem answer_account (s : State) (c o : Byte) : SameAccount s (answer s c o) := by
  constructor <;> simp

theorem applyCommand_account (s : State) (c : Byte) (d : Bool) (f : State → State) (hf : SameAccount s (f s)) :
    SameAccount s (applyCommand s c d f) := by
  unfold applyCommand; split
  · exact hf.trans (answer_account _ _ _)
  · exact answer_account _ _ _

/-! ### Events that leave the account alone -/

theorem event_parcels_of_same {s : State} (f : State → State) (h : ParcelsInv s) (hf : SameAccount s (f s)) :
    ParcelsInv (event s f) := event_parcels s f h fun h => parcelsInv_of_same h hf

theorem outsideReset_parcels_of_same {s : State} (f : State → State) (h : ParcelsInv s) (hf : SameAccount s (f s)) :
    ParcelsInv (outsideReset s f) := outsideReset_parcels s f h fun h => parcelsInv_of_same h hf

theorem commandEvent_parcels_of_same {s : State} (a : Src) (b : CommandBody) (f : State → State) (h : ParcelsInv s)
    (hf : ∀ t, SameAccount t (f t)) : ParcelsInv (commandEvent s a b f) :=
  commandEvent_parcels s a b f h fun t ht => parcelsInv_of_same ht (hf t)

/-- An expiry that acts where its timer runs, and changes nothing elsewhere. -/
theorem ite_account {s t : State} {p : Prop} [Decidable p] (h : SameAccount s t) :
    SameAccount s (if p then t else s) := by
  split
  · exact h
  · exact .refl s

theorem ite_parcels {s t : State} {p : Prop} [Decidable p] (hs : ParcelsInv s) (ht : ParcelsInv t) :
    ParcelsInv (if p then t else s) := by
  split <;> assumption

theorem readLine_parcels (s : State) (f : Bus → Bus) (h : ParcelsInv s) : ParcelsInv (readLine s f) :=
  outsideReset_parcels_of_same _ h (ite_account (sameAccount_of_blocks rfl rfl rfl rfl))

/-! ### Reset and supply -/

theorem takeSupply_parcels (s : State) (mv : Nat) (h : ParcelsInv s) : ParcelsInv (takeSupply s mv) := by
  unfold takeSupply
  simp only
  split
  · exact parcelsInv_of_same h (by constructor <;> simp)
  · split
    · exact takeReset_parcels _ _
    · exact parcelsInv_of_same h (by constructor <;> simp)

theorem takeLevels_parcels (s : State) (p : ResetPins) (h : ParcelsInv s) : ParcelsInv (takeLevels s p) :=
  parcelsInv_of_same (takeSupply_parcels s p.supply h) (by constructor <;> simp [takeLevels])

theorem releaseReset_account (s : State) (p : ResetPins) : SameAccount s (releaseReset s p) := by
  constructor <;> simp [releaseReset]

theorem releaseOrHold_parcels (s : State) (p : ResetPins) (h : ParcelsInv s) :
    ParcelsInv (if causeStands (takeLevels s p) then takeLevels s p else releaseReset (takeLevels s p) p) := by
  have hl := takeLevels_parcels s p h
  split
  · exact hl
  · exact parcelsInv_of_same hl (releaseReset_account _ _)

/-- RESETN low: noted in reset, and outside it a reset. -/
theorem lowResetn_parcels (s : State) (h : ParcelsInv s) :
    ParcelsInv (if s.hold.held then s.setHold { s.hold with resetn := true, resetnLow := true }
      else takeReset s { noHold with resetn := true, resetnLow := true }) := by
  split
  · exact parcelsInv_of_same h (by constructor <;> rfl)
  · exact takeReset_parcels _ _

/-- An attempt at the image that fails: counted, and the third enters FAILSAFE. -/
theorem busErrorTaken_parcels (s : State) (h : ParcelsInv s) :
    ParcelsInv (if s.ctl.mode = .loading then
      (let u := s.setLdr { s.ldr with attempts := s.ldr.attempts + 1 }
       if 3 ≤ u.ldr.attempts then enterFailsafe u .imageAbsent else u) else s) := by
  split
  · rename_i hl
    have hu : ParcelsInv (s.setLdr { s.ldr with attempts := s.ldr.attempts + 1 }) :=
      parcelsInv_of_same h (by constructor <;> rfl)
    exact ite_parcels hu (enterFailsafe_parcels _ _ hu hl)
  · exact h

/-! ### Scan and frames -/

theorem handFlow_parcels (s : State) (o : Option Offer) (h : ParcelsInv s) : ParcelsInv (handFlow s o) := by
  unfold handFlow; split
  · exact flowChanged_parcels _ (parcelsInv_of_same h (by constructor <;> simp))
  · exact h

theorem completeScan_parcels (s : State) (raw : List (BitVec 10)) (d : Bool) (h : ParcelsInv s) :
    ParcelsInv (completeScan s raw d) := by
  unfold completeScan
  simp only
  generalize hu : stepFouling (stepPublish (stepLearn (stepSamples s raw))) s.scn.inputs raw = u
  have hsame : SameAccount s u := by
    rw [← hu]; constructor <;> simp
  exact parcelsInv_of_same (handFlow_parcels u (flowOffer u d) (parcelsInv_of_same h hsame))
    (by constructor <;> simp)

theorem noteBreak_account (s : State) (head : Option Nat) (a : Src) (b : JoinBody) :
    SameAccount s (noteBreak s head a b) := by
  unfold noteBreak; split
  · constructor <;> simp
  · exact .refl s

theorem statusWatermark_account (s : State) (a : Src) (b : StatusBody) : SameAccount s (statusWatermark s a b) := by
  unfold statusWatermark; split
  · constructor <;> simp [Tracker.offerWatermark_same]
  · exact .refl s

theorem Roster.leaveFromTwin_role (r : Roster) (a : Src) (x : Byte) : (r.leaveFromTwin a x).role = r.role := by
  unfold Roster.leaveFromTwin; split <;> rfl

theorem learnPlain_parcels (s : State) (a : Src) (h : ParcelsInv s) : ParcelsInv (learnSource s a) :=
  learnSource_parcels s a h (Roster.learnPlain_role _ _)

theorem learnWiping_parcels (s : State) (a : Src) (w : Option Nat) (h : ParcelsInv s) :
    ParcelsInv (settle (s.setRos ((s.ros.learnPlain a).setWiping a w))) :=
  settleRos_parcels s _ h ((Roster.setWiping_role _ _ _).trans (Roster.learnPlain_role _ _))

theorem leaveTaken_parcels (t : State) (a : Src) (reason : Byte) (h : ParcelsInv t) :
    ParcelsInv (if isOwnAddress t a then settle (t.setRos (t.ros.leaveFromTwin a reason))
      else
        let u := settle (t.setRos (t.ros.leaveFrom a))
        if heardAt t a then freeWait u a.chan.toNat a.pos.toNat else u) := by
  split
  · exact settleRos_parcels t _ h (Roster.leaveFromTwin_role _ _ _)
  · exact parcelsInv_of_same (settleRos_parcels t (t.ros.leaveFrom a) h rfl) (ite_account (freeWait_account _ _ _))

theorem formatErrorTaken_parcels (s : State) (a : Src) (h : ParcelsInv s) :
    ParcelsInv (let u := s.setBus { s.bus.frameTaken with formatErrors := bump16 s.bus.formatErrors }
      if u.ctl.mode = .loading then u else learnSource u a) := by
  have hu : ParcelsInv (s.setBus { s.bus.frameTaken with formatErrors := bump16 s.bus.formatErrors }) :=
    parcelsInv_of_same h (by constructor <;> rfl)
  simp only
  split
  · exact hu
  · exact learnPlain_parcels _ _ hu

/-! ### Lockouts -/

/-- A lockout that opens: scan and, once readback has completed, lamps alone. -/
theorem lockoutOpened_account (s : State) (m : Nat) :
    SameAccount s (if m = 0 ∨ 6 < m ∨ lockoutOpenAt s m then s
      else
        let u := restartScan (s.setSeq { s.seq with lockouts := s.seq.lockouts ||| BitVec.twoPow 6 (m - 1) })
        if linkRuns u then lampEvent (lockModule u m) else u) := by
  split
  · exact .refl s
  · refine SameAccount.trans (t := restartScan (s.setSeq
      { s.seq with lockouts := s.seq.lockouts ||| BitVec.twoPow 6 (m - 1) })) (by constructor <;> simp) ?_
    exact ite_account ((lockModule_account _ _).trans (lampEvent_account _))

/-- A lockout that closes likewise. -/
theorem lockoutClosed_account (s : State) (m : Nat) :
    SameAccount s (let u := restartScan (s.setSeq
        { s.seq with lockouts := s.seq.lockouts &&& ~~~(BitVec.twoPow 6 (m - 1)) })
      if linkRuns u then lampEvent ([4 * m - 3, 4 * m - 2, 4 * m - 1, 4 * m].foldl unlockLamp u) else u) := by
  refine SameAccount.trans (t := restartScan (s.setSeq
    { s.seq with lockouts := s.seq.lockouts &&& ~~~(BitVec.twoPow 6 (m - 1)) })) (by constructor <;> simp) ?_
  exact ite_account ((foldl_account _ unlockLamp_account _ _).trans (lampEvent_account _))

/-! ### Every command, and a millisecond -/

/-- Every command keeps the invariant: by the operations of its meaning. -/
theorem exec_parcels (c : Instr) (s : State) (h : ParcelsInv s) : ∃ t, exec c s = .next t ∧ ParcelsInv t := by
  cases c with
  | supplyBelowReset mv | supplyLowChange mv => exact ⟨_, rfl, takeSupply_parcels s mv h⟩
  | resetnLow us => exact ⟨_, rfl, onceStood_keeps h (lowResetn_parcels s h)⟩
  | resetRelease pins => exact ⟨_, rfl, ite_parcels h (releaseOrHold_parcels s pins h)⟩
  | cfgBusError => exact ⟨_, rfl, event_parcels _ _ h fun h => busErrorTaken_parcels s h⟩
  | imageReadComplete image =>
    refine ⟨_, rfl, event_parcels _ _ h fun h => ?_⟩
    split
    · rename_i hl
      split
      · exact enterFailsafe_parcels _ _ h hl
      · exact enterListen_parcels _ _ _ h hl
    · exact h
  | listenEnd =>
    exact ⟨_, rfl, event_parcels _ _ h fun h =>
      ite_parcels h (parcelsInv_of_same (listenOver_parcels s h) (by constructor <;> simp))⟩
  | accrualTimerExpiry =>
    exact ⟨_, rfl, event_parcels _ _ h fun h => ite_parcels h (parcelsInv_of_same
      (accrue_parcels _ (parcelsInv_of_same h (by constructor <;> rfl))) (closeExpiry_account _ _))⟩
  | statusTimerExpiry | wipeIntervalExpiry | claimWindowExpiry | waitRecordExpiry | releaseTimerExpiry =>
    exact ⟨_, rfl, event_parcels_of_same _ h (ite_account (by constructor <;> simp))⟩
  | flowTimerExpiry | uvtTimerExpiry =>
    refine ⟨_, rfl, event_parcels_of_same _ h (ite_account ?_)⟩
    simp only; split <;> constructor <;> simp
  | flowSourceLapse =>
    exact ⟨_, rfl, event_parcels _ _ h fun h =>
      ite_parcels h (flowChanged_parcels _ (parcelsInv_of_same h (by constructor <;> rfl)))⟩
  | holdTimerExpiry =>
    exact ⟨_, rfl, event_parcels _ _ h fun h =>
      ite_parcels h (followHold_parcels _ (parcelsInv_of_same h (by constructor <;> rfl)))⟩
  | flowSourceDupClear | uvtSourceDupClear | pendingBreakExpiry | quietGapEnd | dayTimerExpiry | runMinute _ =>
    exact ⟨_, rfl, outsideReset_parcels_of_same _ h (by constructor <;> rfl)⟩
  | uvtSourceLapse | pollCycleDue | warmupEnd _ | coolingEnd _ | strikeSpacingExpiry | scanStart | servedFlagClear
  | transmitStart _ =>
    exact ⟨_, rfl, outsideReset_parcels_of_same _ h (ite_account (by constructor <;> simp))⟩
  | rosterEntryLost key =>
    exact ⟨_, rfl, event_parcels _ _ h fun h => ite_parcels h
      (parcelsInv_of_same (settleRos_parcels s (s.ros.change key RosterEntry.goneLost) h rfl)
        (freeWait_account _ _ _))⟩
  | rosterEntryRemove key => exact ⟨_, rfl, event_parcels _ _ h fun h => ite_parcels h (settleRos_parcels s _ h rfl)⟩
  | rxFrameBroken _ | rxFrameRejected _ | idleMarkZeroCharacter _ => exact ⟨_, rfl, readLine_parcels _ _ h⟩
  | formatErrorFrame src => exact ⟨_, rfl, event_parcels _ _ h fun h => formatErrorTaken_parcels s src h⟩
  | joinReceived src b =>
    exact ⟨_, rfl, frameEvent_parcels _ _ h fun t h =>
      parcelsInv_of_same (settleRos_parcels t _ h (learnNamed_role _ _ _ _)) (noteBreak_account _ _ _ _)⟩
  | statusReceived src b =>
    exact ⟨_, rfl, frameEvent_parcels _ _ h fun t h =>
      parcelsInv_of_same (settleRos_parcels t _ h (learnNamed_role _ _ _ _)) (statusWatermark_account _ _ _)⟩
  | flowReceived src b =>
    exact ⟨_, rfl, frameEvent_parcels _ _ h fun t h =>
      have hl := learnPlain_parcels t src h
      ite_parcels hl (flowChanged_parcels _ (parcelsInv_of_same hl (by constructor <;> simp)))⟩
  | uvtReceived src _ | wipeClaimReceived src =>
    exact ⟨_, rfl, frameEvent_parcels _ _ h fun t h =>
      parcelsInv_of_same (learnPlain_parcels t src h) (ite_account (by constructor <;> simp))⟩
  | parcelReceived src b =>
    exact ⟨_, rfl, frameEvent_parcels _ _ h fun t h =>
      have hl := learnPlain_parcels t src h
      ite_parcels hl (takeParcel_parcels _ _ _ hl)⟩
  | dischargeReceived src _ | reportReceived src =>
    exact ⟨_, rfl, frameEvent_parcels _ _ h fun t h => learnPlain_parcels t src h⟩
  | leaveReceived src reason => exact ⟨_, rfl, frameEvent_parcels _ _ h fun t h => leaveTaken_parcels t src reason h⟩
  | wipeActiveReceived src | wipeDoneReceived src _ =>
    exact ⟨_, rfl, frameEvent_parcels _ _ h fun t h =>
      parcelsInv_of_same (learnWiping_parcels t src _ h) (ite_account (by constructor <;> simp))⟩
  | clearLamp _ _ | clearBallast _ _ | clearSensor _ _ | clearWiper _ _ | wipeNow _ _ =>
    exact ⟨_, rfl, commandEvent_parcels_of_same _ _ _ h fun t =>
      applyCommand_account _ _ _ _ (by constructor <;> simp)⟩
  | restart src b =>
    refine ⟨_, rfl, commandEvent_parcels _ _ _ _ h fun t h => ?_⟩
    split
    · exact takeReset_parcels _ _
    · exact parcelsInv_of_same h (by constructor <;> simp)
  | query src b =>
    refine ⟨_, rfl, commandEvent_parcels_of_same _ _ _ h fun t => ?_⟩
    split <;> constructor <;> simp
  | commandOtherCode src code b =>
    exact ⟨_, rfl, commandEvent_parcels_of_same _ _ _ h fun t => answer_account _ _ _⟩
  | restartTimeout => exact ⟨_, rfl, outsideReset_parcels _ _ h fun h => ite_parcels h (takeReset_parcels _ _)⟩
  | transmitComplete _ | collision _ =>
    refine ⟨_, rfl, event_parcels_of_same _ h ?_⟩
    split
    · exact ite_account (by constructor <;> simp)
    · exact .refl s
  | ballastGoodReply reply =>
    refine ⟨_, rfl, outsideReset_parcels_of_same _ h ?_⟩
    split
    · exact goodReply_account _ _ _
    · exact .refl s
  | ballastMiss reply =>
    refine ⟨_, rfl, outsideReset_parcels_of_same _ h ?_⟩
    split
    · exact missedReply_account _ _
    · exact .refl s
  | strikeAttemptExpiry lamp =>
    exact ⟨_, rfl, outsideReset_parcels_of_same _ h
      (ite_account ((strikeBoundary_account _ _).trans (lampEvent_account _)))⟩
  | extinguishHoldoffExpiry =>
    exact ⟨_, rfl, outsideReset_parcels_of_same _ h (ite_account ((putOut_account _).trans (lampEvent_account _)))⟩
  | lockoutOpen m ms =>
    exact ⟨_, rfl, onceStood_keeps h (outsideReset_parcels_of_same _ h (lockoutOpened_account s m))⟩
  | lockoutClose m ms =>
    exact ⟨_, rfl, onceStood_keeps h
      (outsideReset_parcels_of_same _ h (ite_account (lockoutClosed_account s m)))⟩
  | scanComplete raw fdir =>
    exact ⟨_, rfl, event_parcels _ _ h fun h => ite_parcels h (completeScan_parcels _ _ _ h)⟩
  | wendActive active ms =>
    refine ⟨_, rfl, onceStood_keeps h (event_parcels_of_same _ h ?_)⟩
    split
    · exact .refl s
    · exact SameAccount.trans (t := s.setWip { s.wip with wend := active }) (by constructor <;> rfl)
        (ite_account (wendReached_account _))
  | whomeActive ms =>
    refine ⟨_, rfl, onceStood_keeps h (event_parcels_of_same _ h ?_)⟩
    split
    · exact .refl s
    · exact SameAccount.trans (t := s.setWip { s.wip with whome := true }) (by constructor <;> rfl)
        (whomeReached_account _)
  | whomeInactive ms =>
    exact ⟨_, rfl, onceStood_keeps h (outsideReset_parcels_of_same _ h (by constructor <;> rfl))⟩
  | strokeTimerExpiry =>
    refine ⟨_, rfl, event_parcels_of_same _ h (ite_account ?_)⟩
    split <;> constructor <;> simp

theorem tick_account (s : State) : SameAccount s (tick s) := by
  unfold tick; split
  · exact .refl s
  · constructor <;> rfl

/-- Settles O55: a step is a command or a millisecond, and both keep the invariant. -/
theorem stepsKeepTheParcelQueue : Obligations.StepsKeepTheParcelQueue := by
  unfold Obligations.StepsKeepTheParcelQueue
  intro s t h ht
  unfold step at ht
  cases hp : s.pending with
  | nil =>
    rw [hp] at ht
    obtain rfl := Host.Outcome.next.inj ht
    exact parcelsInv_of_same h (tick_account s)
  | cons c rest =>
    rw [hp] at ht
    obtain ⟨u, hu, hi⟩ := exec_parcels c (s.setPending rest)
      (parcelsInv_of_same h (sameAccount_of_blocks rfl rfl rfl rfl))
    obtain rfl := Host.Outcome.next.inj (hu.symm.trans ht)
    exact hi

end Sys2Proof.Machine
end

section
/-! The reset: the six invariants right after it (O60), and what is left of the dose account by every command that
takes the part into it (O5). -/

namespace Sys2Proof.Machine

/-! ### The invariants after reset -/

theorem reset_parcels : ParcelsInv State.reset := parcelsInv_of_empty rfl rfl rfl

theorem reset_transmit : TransmitInv State.reset := queueSound_nil

/-- The table of 24 fresh lamps. -/
theorem reset_lamps : LampsInv State.reset := by
  constructor <;> decide

theorem reset_station : StationInv State.reset := loading_station rfl

/-- No entry in LOADING, and straps in their range. -/
theorem reset_roster : RosterInv State.reset := by
  refine ⟨?_, fun _ => rfl, fun _ => rfl, fun h => absurd rfl h⟩
  decide

theorem reset_resetInv : ResetInv State.reset := by
  refine ⟨fun _ => ⟨rfl, rfl⟩, fun h => ?_, fun h => ?_⟩ <;> simp [State.reset] at h

/-- Settles O60, invariant by invariant. -/
theorem invariantsHoldAtReset : Obligations.InvariantsHoldAtReset := by
  unfold Obligations.InvariantsHoldAtReset
  exact ⟨reset_parcels, reset_transmit, reset_lamps, reset_station, reset_roster, reset_resetInv⟩

/-! ### What a command does to the holding: nothing, or the part has gone into reset -/

/-- `t` is held as `s` is, or is a part gone into reset. -/
def HeldOrReset (s t : State) : Prop := t.hold = s.hold ∨ ∃ u k, t = takeReset u k

theorem heldOrReset_takeReset (s u : State) (k : ResetHold) : HeldOrReset s (takeReset u k) := .inr ⟨u, k, rfl⟩

theorem takeReset_held (u : State) (k : ResetHold) : (takeReset u k).hold.held = true := rfl

theorem HeldOrReset.of_hold {r s t : State} (h : HeldOrReset s t) (e : s.hold = r.hold) : HeldOrReset r t :=
  h.imp_left (·.trans e)

theorem closeRestart_heldOrReset {s t : State} (h : HeldOrReset s t) : HeldOrReset s (closeRestart t) := by
  unfold closeRestart; split
  · exact heldOrReset_takeReset _ _ _
  · exact h

theorem event_heldOrReset {s : State} (f : State → State) (hf : HeldOrReset s (f s)) : HeldOrReset s (event s f) := by
  unfold event outsideReset; split
  · exact .inl rfl
  · exact closeRestart_heldOrReset hf

theorem outsideReset_heldOrReset {s : State} (f : State → State) (hf : (f s).hold = s.hold) :
    HeldOrReset s (outsideReset s f) := by
  unfold outsideReset; split
  · exact .inl rfl
  · exact .inl hf

theorem onceStood_heldOrReset {least stood : Nat} {s : State} (f : State → State) (hf : HeldOrReset s (f s)) :
    HeldOrReset s (onceStood least stood s f) := by
  unfold onceStood; split
  · exact .inl rfl
  · exact hf

theorem frameEvent_heldOrReset {s : State} (f : State → State) (hf : ∀ t, HeldOrReset t (f t)) :
    HeldOrReset s (frameEvent s f) := by
  refine event_heldOrReset _ ?_
  simp only
  split
  · exact .inl rfl
  · exact (hf _).of_hold rfl

theorem commandEvent_heldOrReset {s : State} (a : Src) (b : CommandBody) (f : State → State)
    (hf : ∀ t, HeldOrReset t (f t)) : HeldOrReset s (commandEvent s a b f) := by
  refine frameEvent_heldOrReset _ fun t => ?_
  simp only
  split
  · exact (hf _).of_hold (by simp)
  · exact .inl (by simp)

theorem ite_hold {s t : State} {p : Prop} [Decidable p] (h : t.hold = s.hold) :
    (if p then t else s).hold = s.hold := by
  split
  · exact h
  · rfl

theorem foldl_hold {α : Type} (f : State → α → State) (hf : ∀ s a, (f s a).hold = s.hold) (l : List α) (s : State) :
    (l.foldl f s).hold = s.hold := by
  induction l generalizing s with
  | nil => rfl
  | cons a l ih => rw [List.foldl_cons, ih, hf]

@[simp] theorem sendRecord_hold (role : Role) (s : State) (r : ParcelRec) : (sendRecord role s r).hold = s.hold := by
  unfold sendRecord; split <;> simp

@[simp] theorem accrue_hold (s : State) : (accrue s).hold = s.hold := by
  unfold accrue
  split
  · exact foldl_hold _ (fun s r => sendRecord_hold _ s r) _ _
  · rfl

@[simp] theorem closeExpiry_hold (s : State) (q : Nat) : (closeExpiry s q).hold = s.hold := by simp [closeExpiry]

@[simp] theorem freeWait_hold (s : State) (c p : Nat) : (freeWait s c p).hold = s.hold := by
  unfold freeWait; exact ite_hold (by simp)

@[simp] theorem noteBreak_hold (s : State) (head : Option Nat) (a : Src) (b : JoinBody) :
    (noteBreak s head a b).hold = s.hold := by
  unfold noteBreak; exact ite_hold rfl

@[simp] theorem statusWatermark_hold (s : State) (a : Src) (b : StatusBody) :
    (statusWatermark s a b).hold = s.hold := by
  unfold statusWatermark; exact ite_hold rfl

theorem applyCommand_hold {s : State} {c : Byte} {d : Bool} {f : State → State} (hf : (f s).hold = s.hold) :
    (applyCommand s c d f).hold = s.hold := by
  unfold applyCommand; split <;> simp [hf]

@[simp] theorem strikeBoundary_hold (s : State) (i : Nat) : (strikeBoundary s i).hold = s.hold := by
  unfold strikeBoundary; split
  · split <;> simp
  · rfl

@[simp] theorem putOut_hold (s : State) : (putOut s).hold = s.hold := by
  unfold putOut; split <;> simp

@[simp] theorem lockModule_hold (s : State) (m : Nat) : (lockModule s m).hold = s.hold := by simp [lockModule]

theorem unlockLamp_hold (s : State) (i : Nat) : (unlockLamp s i).hold = s.hold := by
  unfold unlockLamp; split
  · split <;> simp
  · rfl

theorem goodReply_hold (s : State) (v : Visit) (r : BallastReply) : (goodReply s v r).hold = s.hold := by
  unfold goodReply
  simp only
  split <;> simp

theorem missedReply_hold (s : State) (v : Visit) : (missedReply s v).hold = s.hold := by
  unfold missedReply
  simp only
  split
  · simp
  · split <;> simp
  · split <;> simp

@[simp] theorem wendReached_hold (s : State) : (wendReached s).hold = s.hold := by
  unfold wendReached; split
  · simp
  · exact ite_hold (by simp)

@[simp] theorem whomeReached_hold (s : State) : (whomeReached s).hold = s.hold := by
  unfold whomeReached; split
  · simp
  · split <;> simp

theorem takeSupply_heldOrReset {s : State} (mv : Nat) (h : s.hold.held = false) : HeldOrReset s (takeSupply s mv) := by
  cases hm : (supplyAt s.ldr.supply mv).belowReset with
  | false => rw [takeSupply_of_good h hm]; exact .inl rfl
  | true => rw [takeSupply_of_low h hm]; exact heldOrReset_takeReset _ _ _

/-- Every command at a part outside reset leaves the holding alone, or has taken the part into reset. -/
theorem exec_heldOrReset (c : Instr) (s : State) (h : s.hold.held = false) :
    ∃ t, exec c s = .next t ∧ HeldOrReset s t := by
  cases c with
  | supplyBelowReset mv | supplyLowChange mv => exact ⟨_, rfl, takeSupply_heldOrReset mv h⟩
  | resetnLow us =>
    exact ⟨_, rfl, onceStood_heldOrReset _ (by rw [if_neg (by simp [h])]; exact heldOrReset_takeReset _ _ _)⟩
  | resetRelease pins => exact ⟨_, rfl, by rw [if_neg (by simp [h])]; exact .inl rfl⟩
  | cfgBusError =>
    refine ⟨_, rfl, event_heldOrReset _ (.inl <| ite_hold ?_)⟩
    simp only
    split <;> simp
  | imageReadComplete image =>
    refine ⟨_, rfl, event_heldOrReset _ (.inl <| ite_hold ?_)⟩
    split <;> simp
  | flowTimerExpiry | uvtTimerExpiry =>
    refine ⟨_, rfl, event_heldOrReset _ (.inl <| ite_hold ?_)⟩
    simp only
    split <;> simp
  | listenEnd | accrualTimerExpiry | statusTimerExpiry | flowSourceLapse | holdTimerExpiry | rosterEntryLost _
  | rosterEntryRemove _ | scanComplete _ _ | wipeIntervalExpiry | claimWindowExpiry | waitRecordExpiry
  | releaseTimerExpiry => exact ⟨_, rfl, event_heldOrReset _ (.inl <| ite_hold (by simp))⟩
  | flowSourceDupClear | uvtSourceDupClear | pendingBreakExpiry | quietGapEnd | dayTimerExpiry | runMinute _ =>
    exact ⟨_, rfl, outsideReset_heldOrReset _ rfl⟩
  | uvtSourceLapse | rxFrameBroken _ | rxFrameRejected _ | idleMarkZeroCharacter _ | transmitStart _ | servedFlagClear
  | pollCycleDue | strikeAttemptExpiry _ | warmupEnd _ | coolingEnd _ | strikeSpacingExpiry | extinguishHoldoffExpiry
  | scanStart => exact ⟨_, rfl, outsideReset_heldOrReset _ (ite_hold (by simp))⟩
  | formatErrorFrame src =>
    refine ⟨_, rfl, event_heldOrReset _ (.inl ?_)⟩
    simp only
    split <;> simp
  | joinReceived _ _ | statusReceived _ _ | dischargeReceived _ _ | reportReceived _ =>
    exact ⟨_, rfl, frameEvent_heldOrReset _ fun t => .inl (by simp)⟩
  | flowReceived _ _ | uvtReceived _ _ | parcelReceived _ _ | wipeClaimReceived _ | wipeActiveReceived _
  | wipeDoneReceived _ _ =>
    refine ⟨_, rfl, frameEvent_heldOrReset _ fun t => .inl ?_⟩
    simp only
    split <;> simp
  | leaveReceived src reason =>
    refine ⟨_, rfl, frameEvent_heldOrReset _ fun t => .inl ?_⟩
    simp only
    split
    · simp
    · split <;> simp
  | clearLamp _ _ | clearBallast _ _ | clearSensor _ _ | clearWiper _ _ | wipeNow _ _ =>
    exact ⟨_, rfl, commandEvent_heldOrReset _ _ _ fun t => .inl (applyCommand_hold (by simp))⟩
  | restart src b =>
    refine ⟨_, rfl, commandEvent_heldOrReset _ _ _ fun t => ?_⟩
    split
    · exact heldOrReset_takeReset _ _ _
    · exact .inl (by simp)
  | query src b =>
    refine ⟨_, rfl, commandEvent_heldOrReset _ _ _ fun t => .inl ?_⟩
    split <;> simp
  | commandOtherCode src code b => exact ⟨_, rfl, commandEvent_heldOrReset _ _ _ fun t => .inl (by simp)⟩
  | restartTimeout =>
    refine ⟨_, rfl, ?_⟩
    rw [outsideReset_of_run _ h]
    split
    · exact heldOrReset_takeReset _ _ _
    · exact .inl rfl
  | transmitComplete read | collision read =>
    refine ⟨_, rfl, event_heldOrReset _ (.inl ?_)⟩
    split
    · exact ite_hold (by simp)
    · rfl
  | ballastGoodReply reply =>
    refine ⟨_, rfl, outsideReset_heldOrReset _ ?_⟩
    split
    · exact goodReply_hold _ _ _
    · rfl
  | ballastMiss reply =>
    refine ⟨_, rfl, outsideReset_heldOrReset _ ?_⟩
    split
    · exact missedReply_hold _ _
    · rfl
  | lockoutOpen m ms =>
    refine ⟨_, rfl, onceStood_heldOrReset _ (outsideReset_heldOrReset _ ?_)⟩
    split
    · rfl
    · simp only
      split <;> simp
  | lockoutClose m ms =>
    refine ⟨_, rfl, onceStood_heldOrReset _ (outsideReset_heldOrReset _ (ite_hold ?_))⟩
    simp only
    split
    · simp [unlockLamp_hold]
    · simp
  | wendActive active ms =>
    refine ⟨_, rfl, onceStood_heldOrReset _ (event_heldOrReset _ (.inl ?_))⟩
    split
    · rfl
    · simp only
      split <;> simp
  | whomeActive ms =>
    refine ⟨_, rfl, onceStood_heldOrReset _ (event_heldOrReset _ (.inl ?_))⟩
    split <;> simp
  | whomeInactive ms => exact ⟨_, rfl, onceStood_heldOrReset _ (outsideReset_heldOrReset _ rfl)⟩
  | strokeTimerExpiry =>
    refine ⟨_, rfl, event_heldOrReset _ (.inl <| ite_hold ?_)⟩
    split <;> simp

/-! ### The dose account after a reset (R7) -/

theorem accountCleared_of_trk {t : State} (h : t.trk = State.reset.trk) : AccountCleared t := by
  unfold AccountCleared; rw [h]; exact ⟨rfl, rfl, rfl, rfl, rfl, rfl, rfl, rfl, rfl, rfl⟩

/-- A release, whether it ends the reset or not, leaves the tracker of a held part alone. -/
theorem execResetRelease_trk (p : ResetPins) {s : State} (h : s.hold.held = true) :
    ∃ u, exec (.resetRelease p) s = .next u ∧ u.trk = s.trk := by
  have hl : (takeLevels s p).trk = s.trk := by simp [takeLevels, takeSupply_of_held _ h, supplyNoted]
  refine ⟨_, rfl, ?_⟩
  rw [if_pos h]
  simp only
  split
  · exact hl
  · simpa [releaseReset] using hl

/-! ### Commands that take the part into reset -/

/-- The last frame of a restart resolved makes the restart due. -/
theorem restartDue_of_resolved {s t : State} {n : Nat} (h : LastOfRestart s n)
    (ht : t.cmd.restart = s.cmd.restart.map (Restart.resolve · n)) : restartDue t = true := by
  obtain ⟨r, hr, hreport, hleave⟩ := h
  unfold restartDue
  rw [ht, hr]
  rcases hreport with e | e <;> rcases hleave with g | g <;> simp [Restart.resolve, e, g]

/-- A due restart stays due whatever else is given up. -/
theorem giveUpAll_restartDue (s : State) (fs : List Frame) (h : restartDue s = true) :
    restartDue (giveUpAll s fs) = true := by
  unfold giveUpAll
  induction fs generalizing s with
  | nil => exact h
  | cons f fs ih =>
    refine ih _ ?_
    cases hr : s.cmd.restart with
    | none => simp [restartDue, hr] at h
    | some r =>
      simp only [restartDue, hr, Bool.and_eq_true, Option.isNone_iff_eq_none] at h
      simp [restartDue, giveUp, Handler.frameGone, hr, Restart.resolve, h.1, h.2]

theorem nextReply_restartDue (s : State) (table next owed : Nat) (h : restartDue s = true) :
    restartDue (nextReply s table next owed) = true := by
  unfold nextReply; split
  · exact h
  · exact giveUpAll_restartDue _ _ h

/-- Told of the last frame of a restart, the handler has the restart due (R199). -/
theorem handlerTold_restartDue {s : State} {n : Nat} (h : LastOfRestart s n) :
    restartDue (handlerTold s n) = true := by
  have hu := restartDue_of_resolved (t := s.setCmd { s.cmd with restart := s.cmd.restart.map (Restart.resolve · n) })
    h rfl
  unfold handlerTold
  simp only
  split
  · split
    · exact nextReply_restartDue _ _ _ _ hu
    · exact hu
  · exact hu

/-- An event after which a restart is due has taken the part into reset. -/
theorem event_held_of_due {s : State} (f : State → State) (h : s.hold.held = false)
    (hd : restartDue (f s) = true) : (event s f).hold.held = true := by
  rw [event, outsideReset_of_run _ h, closeRestart, if_pos hd]
  exact takeReset_held _ _

/-- The completion of the last frame of a restart. -/
theorem transmitComplete_held {s : State} {x : InFlight} (h : s.hold.held = false) (hx : s.bus.inFlight = some x)
    (hl : LastOfRestart s x.frame.ticket) :
    ∃ t, exec (.transmitComplete (sentChars x)) s = .next t ∧ t.hold.held = true := by
  refine ⟨_, rfl, event_held_of_due _ h ?_⟩
  have hc : sentChars x = x.frame.chars := rfl
  simp only [hx, hc, if_true]
  refine handlerTold_restartDue ?_
  unfold LastOfRestart at hl ⊢
  simpa using hl

/-- The sixteenth collision of the last frame of a restart. -/
theorem collision_held {s : State} {x : InFlight} {read : List (BitVec 11)} (h : s.hold.held = false)
    (hx : s.bus.inFlight = some x) (hl : LastOfRestart s x.frame.ticket) (hr : ReadBackDiffers x read)
    (hw : x.withdrawn = false) (hn : 15 ≤ x.frame.coll) :
    ∃ t, exec (.collision read) s = .next t ∧ t.hold.held = true := by
  refine ⟨_, rfl, event_held_of_due _ h ?_⟩
  have hd : differsLast x.frame.chars read = true := (differsLast_iff _ _).mpr hr
  have hlast : ¬ x.frame.coll + 1 < 16 := by omega
  simp only [hx, hd, if_true, Bus.collide, hw, hlast, if_false, Bool.false_eq_true]
  refine restartDue_of_resolved hl ?_
  rfl

/-- A RESTART taken in LISTEN is taken at once. -/
theorem restart_held {s : State} {a : Src} {b : CommandBody} (h : TakesFrames s) (ha : AimedHere s a b)
    (hm : s.ctl.mode = .listen) : ∃ t, exec (.restart a b) s = .next t ∧ t.hold.held = true := by
  refine ⟨_, rfl, ?_⟩
  have hl : (readied s a).ctl.mode = .listen := by
    simp [readied, learned, learnSource, settle, judgeRoster, hm]
  rw [commandEvent_of_aimed _ h ha] <;> simp only [if_pos hl]
  · exact takeReset_held _ _
  · simp [takeRestart, State.restarting, State.reset, h.1.2]

/-- Each of the commands named has taken a part outside reset into it (R194, R199). -/
theorem exec_of_beginsReset {c : Instr} {s : State} (h : s.hold.held = false) (hb : BeginsReset c s) :
    ∃ t, exec c s = .next t ∧ t.hold.held = true := by
  rcases hb with ⟨mv, hc, hlow⟩ | ⟨us, rfl, hus⟩ | ⟨rfl, hr⟩ | ⟨a, b, rfl, ht, ha, hm⟩ | ⟨x, hx, hl, hc⟩
  · have ht : (takeSupply s mv).hold.held = true := by rw [takeSupply_of_low h hlow]; exact takeReset_held _ _
    rcases hc with rfl | rfl <;> exact ⟨_, rfl, ht⟩
  · refine ⟨_, rfl, ?_⟩
    rw [onceStood_of_le _ _ hus, if_neg (by simp [h])]
    exact takeReset_held _ _
  · refine ⟨_, rfl, ?_⟩
    rw [outsideReset_of_run _ h, if_pos hr]
    exact takeReset_held _ _
  · exact restart_held ht ha hm
  · rcases hc with rfl | ⟨⟨read, rfl, hr⟩, hw, hn⟩
    · exact transmitComplete_held h hx hl
    · exact collision_held h hx hl hr hw hn

/-- Settles O5: a part held after a command that found it running has gone through `takeReset`. -/
theorem resetClearsTheDoseAccount : Obligations.ResetClearsTheDoseAccount := by
  unfold Obligations.ResetClearsTheDoseAccount
  refine ⟨fun c s t h ht hheld => ?_, fun c s h hb => exec_of_beginsReset h hb⟩
  obtain ⟨t', ht', hor⟩ := exec_heldOrReset c s h
  obtain rfl := Host.Outcome.next.inj (ht'.symm.trans ht)
  rcases hor with hsame | ⟨u, k, rfl⟩
  · rw [hsame, h] at hheld; exact absurd hheld (by simp)
  · have htrk : (takeReset u k).trk = State.reset.trk := by simp
    refine ⟨accountCleared_of_trk htrk, htrk, rfl, rfl, fun p => ?_⟩
    obtain ⟨v, hv, hvt⟩ := execResetRelease_trk p hheld
    exact ⟨v, hv, accountCleared_of_trk (hvt.trans htrk), hvt.trans htrk⟩

end Sys2Proof.Machine
end

section
/-! One millisecond on an empty queue: what advances, and which expiries are queued (O2). -/

namespace Sys2Proof.Machine

/-! ### What a tick queues -/

theorem agesTo_iff (a n : Nat) : agesTo a (n + 1) = true ↔ a = n := by simp [agesTo]

theorem runsOut_iff (t : Option Nat) : runsOut t = true ↔ t = some 1 := by simp [runsOut]

theorem burning_iff (l : Lamp) : l.burning = true ↔ l.state = .lit ∨ l.state = .warming := by simp [Lamp.burning]

/-- The commands of the elements that pass a test. -/
theorem mem_map_filter {α : Type} (l : List α) (p : α → Bool) (f : α → Instr) (c : Instr) :
    c ∈ (l.filter p).map f ↔ ∃ a ∈ l, p a = true ∧ f a = c := by
  simp only [List.mem_map, List.mem_filter, and_assoc]

theorem mem_map_filter_comm {α : Type} (l : List α) (p : α → Bool) (f : α → Instr) (c : Instr) :
    c ∈ (l.filter p).map f ↔ ∃ a ∈ l, f a = c ∧ p a = true :=
  (mem_map_filter l p f c).trans (exists_congr fun _ => and_congr_right fun _ => and_comm)

theorem mem_lampsDue (s : State) (st : LampState) (limit : Lamp → Nat) (f : Lamp → Instr) (c : Instr) :
    c ∈ (lampsDue s st limit).map f ↔
      s.link.phase = .running ∧ ∃ l ∈ s.seq.lamps, f l = c ∧ l.state = st ∧ l.timer + 1 = limit l := by
  unfold lampsDue linkRuns
  by_cases h : s.link.phase = .running <;> simp [h, agesTo, and_comm, and_left_comm]

/-- A tick queues what falls due, in the four groups of the opcode table. -/
theorem mem_tick_pending {s : State} (hp : s.pending = []) (hh : s.hold.held = false) (c : Instr) :
    c ∈ (tick s).pending ↔ c ∈ dueStation s ∨ c ∈ dueRoster s ∨ c ∈ dueLamps s ∨ c ∈ dueWiper s := by
  simp [tick, hh, hp, dueCommands]

theorem mem_dueStation (s : State) (c : Instr) : c ∈ dueStation s ↔
    (s.ctl.listenTimer = some 1999 ∧ c = .listenEnd) ∨ (s.trk.accrual = some 199 ∧ c = .accrualTimerExpiry) ∨
      (s.ctl.statusTimer = some 999 ∧ c = .statusTimerExpiry) ∨
      (s.pln.flowTimer = some 999 ∧ c = .flowTimerExpiry) ∨ (s.pln.uvtTimer = some 4999 ∧ c = .uvtTimerExpiry) ∨
      (s.pln.flowSource.map (·.age) = some 2999 ∧ c = .flowSourceLapse) ∨
      (s.pln.flowDup = some 2999 ∧ c = .flowSourceDupClear) ∨
      (s.pln.uvtSource.map (·.age) = some 14999 ∧ c = .uvtSourceLapse) ∨
      (s.pln.uvtDup = some 2999 ∧ c = .uvtSourceDupClear) ∨
      (s.pln.holdTimer = some 29999 ∧ c = .holdTimerExpiry) := by
  simp only [dueStation, List.mem_append, mem_dueIf, fallsDue_iff, or_assoc]

theorem mem_dueRoster (s : State) (c : Instr) : c ∈ dueRoster s ↔
    (∃ e ∈ s.ros.entries, e.isSelf = false ∧ e.state ≠ .lost ∧ e.lastHeard = 2999 ∧ .rosterEntryLost e.key = c) ∨
      (∃ e ∈ s.ros.entries, e.isSelf = false ∧ e.state = .lost ∧ e.sinceLost = some 299999 ∧
        .rosterEntryRemove e.key = c) ∨
      (s.trk.brk.map (·.life) = some 1 ∧ c = .pendingBreakExpiry) ∨
      (s.cmd.restart.map (·.elapsed) = some 999 ∧ c = .restartTimeout) ∨
      (s.link.cycleTimer = some 249 ∧ c = .pollCycleDue) := by
  simp only [dueRoster, List.mem_append, mem_map_filter, mem_dueIf, fallsDue_iff, agesTo_iff, runsOut_iff, or_assoc,
    RosterEntry.isLost, Bool.and_eq_true, Bool.not_eq_true', decide_eq_false_iff_not, decide_eq_true_eq, and_assoc,
    ne_eq]

theorem mem_dueLamps (s : State) (c : Instr) : c ∈ dueLamps s ↔
    (s.link.phase = .running ∧ ∃ l ∈ s.seq.lamps, .strikeAttemptExpiry l.index = c ∧
        l.state = .striking ∧ l.timer + 1 = 3000 * l.attempt) ∨
      (s.link.phase = .running ∧ ∃ l ∈ s.seq.lamps, .warmupEnd l.index = c ∧
        l.state = .warming ∧ l.timer + 1 = 1000 * s.ldr.cfg.warmup) ∨
      (s.link.phase = .running ∧ ∃ l ∈ s.seq.lamps, .coolingEnd l.index = c ∧
        l.state = .cooling ∧ l.timer + 1 = 60000) ∨
      (s.seq.spacing = some 4999 ∧ c = .strikeSpacingExpiry) ∨
      (s.seq.holdoff = some 599999 ∧ c = .extinguishHoldoffExpiry) ∨
      (s.seq.day = 86399999 ∧ c = .dayTimerExpiry) ∨
      (∃ l ∈ s.seq.lamps, .runMinute l.index = c ∧ (l.state = .lit ∨ l.state = .warming) ∧ l.residue = 59999) := by
  simp only [dueLamps, List.mem_append, mem_lampsDue, mem_map_filter_comm, mem_dueIf, fallsDue_iff, agesTo_iff,
    burning_iff, Bool.and_eq_true, or_assoc]

theorem fallsDue_some_iff (t : Option Nat) (n : Nat) : fallsDue t n = true ↔ ∃ v, t = some v ∧ v + 1 = n := by
  cases t <;> simp [fallsDue]

theorem mem_dueWiper (s : State) (c : Instr) : c ∈ dueWiper s ↔
    (s.scn.timer = some 99 ∧ c = .scanStart) ∨
      ((∃ v, s.wip.interval = some v ∧ v + 1 = 60000 * s.ldr.cfg.wipeMin) ∧ c = .wipeIntervalExpiry) ∨
      (s.wip.window = some 399 ∧ c = .claimWindowExpiry) ∨
      (s.wip.wait.map (·.remaining) = some 1 ∧ c = .waitRecordExpiry) ∨
      (s.wip.stroke = some 39999 ∧ c = .strokeTimerExpiry) ∨
      (s.wip.release = some 1999 ∧ c = .releaseTimerExpiry) := by
  have hi := fallsDue_some_iff s.wip.interval (60000 * s.ldr.cfg.wipeMin)
  simp only [dueWiper, List.mem_append, mem_dueIf, hi, fallsDue_iff, runsOut_iff, or_assoc]

/-! ### What a tick moves -/

theorem tick_of_run {s : State} (hh : s.hold.held = false) :
    tick s = (advance s).setPending (s.pending ++ dueCommands s) := by
  simp [tick, hh]

theorem advance_lamps (s : State) : (advance s).seq.lamps = s.seq.lamps.map fun l => { l with
    timer := if s.link.phase = .running then l.timer + 1 else l.timer
    residue := if l.state = .lit ∨ l.state = .warming then l.residue + 1 else l.residue } := by
  refine List.map_congr_left fun l _ => ?_
  simp only [tickLamp, linkRuns, burning_iff, decide_eq_true_eq]

theorem tick_onlyChanges {s : State} (hh : s.hold.held = false) :
    OnlyChanges [.pending, .ctl, .trk, .ros, .pln, .seq, .link, .scn, .wip, .cmd] s (tick s) := by
  rw [tick_of_run hh]
  intro b hb
  cases b <;> simp at hb <;> rfl

/-- Settles O2: the millisecond advances what runs, and each expiry is found in its group of those due. -/
theorem emptyQueueStepIsOneMillisecond : Obligations.EmptyQueueStepIsOneMillisecond := by
  unfold Obligations.EmptyQueueStepIsOneMillisecond
  intro s hp
  have hs : step s = .next (tick s) := by simp [step, hp]
  refine ⟨fun hh => by rw [hs]; simp [tick, hh], fun hh => ⟨tick s, hs, tick_onlyChanges hh, ?_, ?_⟩⟩
  · rw [tick_of_run hh]
    refine ⟨rfl, rfl, rfl, rfl, ?_, rfl, rfl, rfl, rfl⟩
    simp only [State.setPending_seq, ← advance_lamps]
    rfl
  · simp only [mem_tick_pending hp hh, mem_dueStation, mem_dueRoster, mem_dueLamps, mem_dueWiper]
    simp

end Sys2Proof.Machine
end

section
/-! The accrual expiry: counting, creating, crediting and leaving, and what is sent of it (O13–O16). -/

namespace Sys2Proof.Machine

/-! ### The words of the statements are the model's -/

theorem flowTaken_eq (s : State) : flowTaken s = flowQ s := rfl

theorem numbers_iff (r : Role) : r.numbers = true ↔ r = .head ∨ r = .sole := by cases r <;> simp [Role.numbers]

theorem doses_iff (m : BankMode) : m.doses = true ↔ m = .dosing ∨ m = .hold := by cases m <;> simp [BankMode.doses]

theorem standingFlags_eq (s : State) : standingFlags s = accrualFlags s := by
  have hw : (s.wip.state = .strokeOut ∨ s.wip.state = .strokeBack) ↔ inStroke s = true := by
    unfold inStroke; cases s.wip.state <;> simp [WiperState.stroking]
  simp only [standingFlags, accrualFlags, hw, flagIf, flagEstimated, flagHoldSeen, flagShortfallSeen, flagWipeSeen,
    decide_eq_true_eq]
  rfl

theorem markReached_eq (counter mark : Mark) : markReached counter mark = decide (¬ 0 < (mark - counter).toInt) := by
  simp only [markReached, markLater, decide_not]

theorem creditRecord_eq (counter : Mark) (f : Nat) (c : Byte) (r : ParcelRec) : creditRecord counter f c r =
    if 0 < (counter - r.exitMark).toInt then r
    else { r with dose := min (r.dose + 2 * f) 999999, flags := r.flags ||| c } := by
  simp [creditRecord, markPassed, markLater]

/-! ### The account of an expiry, step by step -/

/-- The tracker after counting (R11, R12). -/
def counted (s : State) : Tracker := if s.ctl.mode = .dosing then s.trk.count (flowQ s) else s.trk

/-- The tracker after counting and creating (R11–R16). -/
def created (s : State) : Tracker :=
  if s.ros.role.numbers then (counted s).create s.ldr.cfg.z s.ldr.straps.position s.ldr.cfg.vP else counted s

theorem accrued_eq (s : State) : accrued s = (created s).credit (fEff s) (accrualFlags s) := rfl

/-! ### The operations do not read the accrual timer -/

/-- A tracker with its accrual timer at `x`. -/
def Tracker.timed (t : Tracker) (x : Option Nat) : Tracker := { t with accrual := x }

/-- The state with its accrual timer restarted, as an expiry begins (R10). -/
def restarted (s : State) : State := s.setTrk (s.trk.timed (some 0))

theorem Tracker.join_timed (t : Tracker) (z : Nat) (r : ParcelRec) (x : Option Nat) :
    (t.timed x).join z r = (t.join z r).timed x := by
  have hq : (t.timed x).queue = t.queue := rfl
  have hm : (t.timed x).marked z r = t.marked z r := rfl
  unfold Tracker.join
  rw [hq, hm]
  split
  · rfl
  · split <;> rfl

theorem Tracker.create_timed (t : Tracker) (z own vP : Nat) (x : Option Nat) :
    (t.timed x).create z own vP = (t.create z own vP).timed x := by
  have hc : (t.timed x).creating = t.creating := rfl
  have hn : (t.timed x).nextExpected = t.nextExpected := rfl
  have hk : (t.timed x).completed vP = t.completed vP := rfl
  unfold Tracker.create
  rw [hc, hn, hk]
  split
  · split
    · rfl
    · simp only [Tracker.join_timed]; rfl
  · rfl

theorem counted_restarted (s : State) : counted (restarted s) = (counted s).timed (some 0) := by
  have hm : (restarted s).ctl.mode = s.ctl.mode := rfl
  unfold counted
  rw [hm]
  split <;> rfl

theorem created_restarted (s : State) : created (restarted s) = (created s).timed (some 0) := by
  have hr : (restarted s).ros = s.ros := rfl
  have hl : (restarted s).ldr = s.ldr := rfl
  unfold created
  rw [counted_restarted, hr, hl, Tracker.create_timed]
  split <;> rfl

/-- Counting, creating and crediting do not see that the timer has restarted. -/
theorem accrued_restarted (s : State) : accrued (restarted s) = (accrued s).timed (some 0) := by
  rw [accrued_eq, created_restarted]; rfl

/-! ### What creating keeps -/

/-- Joining and creating leave the counting and the tail's counts alone. -/
theorem Tracker.join_counts (t : Tracker) (z : Nat) (r : ParcelRec) :
    (t.join z r).discharged = t.discharged ∧ (t.join z r).underdosed = t.underdosed ∧
      (t.join z r).estimated = t.estimated := by
  unfold Tracker.join
  split
  · exact ⟨rfl, rfl, rfl⟩
  · split <;> exact ⟨rfl, rfl, rfl⟩

theorem Tracker.create_counts (t : Tracker) (z own vP : Nat) :
    (t.create z own vP).counter = t.counter ∧ (t.create z own vP).residue = t.residue ∧
      (t.create z own vP).discharged = t.discharged ∧ (t.create z own vP).underdosed = t.underdosed ∧
      (t.create z own vP).estimated = t.estimated := by
  unfold Tracker.create
  split
  · split
    · exact ⟨rfl, rfl, rfl, rfl, rfl⟩
    · simp only [Tracker.join_keeps, Tracker.join_counts, and_self]
  · exact ⟨rfl, rfl, rfl, rfl, rfl⟩

theorem created_counts (s : State) :
    (created s).counter = (counted s).counter ∧ (created s).residue = (counted s).residue ∧
      (created s).discharged = s.trk.discharged ∧ (created s).underdosed = s.trk.underdosed ∧
      (created s).estimated = s.trk.estimated := by
  have hc : (counted s).discharged = s.trk.discharged ∧ (counted s).underdosed = s.trk.underdosed ∧
      (counted s).estimated = s.trk.estimated := by
    unfold counted; split <;> exact ⟨rfl, rfl, rfl⟩
  obtain ⟨hd, hu, he⟩ := hc
  unfold created
  split
  · obtain ⟨h1, h2, h3, h4, h5⟩ :=
      Tracker.create_counts (counted s) s.ldr.cfg.z s.ldr.straps.position s.ldr.cfg.vP
    exact ⟨h1, h2, h3.trans hd, h4.trans hu, h5.trans he⟩
  · exact ⟨rfl, rfl, hd, hu, he⟩

/-! ### The records that leave -/

theorem giveUpAll_setTrk (s : State) (v : Tracker) (fs : List Frame) :
    giveUpAll (s.setTrk v) fs = (giveUpAll s fs).setTrk v := by
  unfold giveUpAll
  induction fs generalizing s with
  | nil => rfl
  | cons f fs ih => exact ih (giveUp s f)

/-- Posting does not read the tracker. -/
theorem post_setTrk (s : State) (v : Tracker) (b : Body) : post (s.setTrk v) b = (post s b).setTrk v := by
  have hf : ownFrame (s.setTrk v) b = ownFrame s b := rfl
  have hb (x : Bus) : (s.setTrk v).setBus x = (s.setBus x).setTrk v := rfl
  unfold post
  simp only [hf, hb, State.setTrk_bus, giveUpAll_setTrk]

theorem postAll_setTrk (s : State) (v : Tracker) (bs : List Body) :
    postAll (s.setTrk v) bs = (postAll s bs).setTrk v := by
  unfold postAll
  induction bs generalizing s with
  | nil => rfl
  | cons b bs ih => rw [List.foldl_cons, post_setTrk, ih, List.foldl_cons]

/-- At HEAD and MID the records leave as PARCELs to the downstream neighbour (R22, R28). -/
theorem foldl_sendRecord_handoff {role : Role} (hr : role = .head ∨ role = .mid) (l : List ParcelRec) (s : State) :
    l.foldl (sendRecord role) s = postAll s (l.map fun r => .parcel (parcelOf (s.ros.down.getD 0) r)) := by
  induction l generalizing s with
  | nil => rfl
  | cons r l ih =>
    have hs : sendRecord role s r = post s (.parcel (parcelOf (s.ros.down.getD 0) r)) := by
      rcases hr with rfl | rfl <;> rfl
    have hd : (post s (.parcel (parcelOf (s.ros.down.getD 0) r))).ros = s.ros := by simp
    rw [List.foldl_cons, ih, hs, hd]
    rfl

/-- At TAIL and SOLE they are judged, counted and discharged (R23, R24, R28). -/
theorem foldl_sendRecord_discharge {role : Role} (hr : role = .tail ∨ role = .sole) (l : List ParcelRec) (s : State) :
    l.foldl (sendRecord role) s =
      (postAll s (l.map fun r => .discharge (dischargeOf s.ldr.cfg.dT r))).setTrk
        (l.foldl (fun t r => t.judged s.ldr.cfg.dT r) s.trk) := by
  induction l generalizing s with
  | nil => rfl
  | cons r l ih =>
    have hs : sendRecord role s r =
        (post s (.discharge (dischargeOf s.ldr.cfg.dT r))).setTrk (s.trk.judged s.ldr.cfg.dT r) := by
      rw [← post_setTrk]; rcases hr with rfl | rfl <;> rfl
    have hl : (post s (.discharge (dischargeOf s.ldr.cfg.dT r))).ldr = s.ldr := by simp
    rw [List.foldl_cons, ih, hs, postAll_setTrk]
    simp only [State.setTrk_twice, State.setTrk_ldr, State.setTrk_trk, hl]
    rfl

/-- Judging records moves the tail's three counts alone, each by the ranges it counts (R24). -/
theorem foldl_judged (dT : Nat) (l : List ParcelRec) (t : Tracker) :
    l.foldl (fun t r => t.judged dT r) t = { t with
      discharged := t.discharged + BitVec.ofNat 32 (sumOf (l.map rangeOf))
      underdosed := t.underdosed + BitVec.ofNat 32 (sumOf ((l.filter fun r => r.dose < dT).map rangeOf))
      estimated := t.estimated + BitVec.ofNat 32 (sumOf ((l.filter fun r => r.flags.getLsbD 0).map rangeOf)) } := by
  induction l generalizing t with
  | nil => simp [sumOf]
  | cons r l ih =>
    have hr : rangeLen r.firstSeq r.lastSeq = rangeOf r := rfl
    rw [List.foldl_cons, ih]
    by_cases hv : dT ≤ r.dose <;> by_cases hf : r.flags[0] = true <;>
      simp [Tracker.judged, verdictMet, hv, hf, hr, sumOf, BitVec.ofNat_add, BitVec.add_assoc, Nat.not_lt.mpr,
        Nat.lt_of_not_le]

/-! ### The expiry as a whole -/

/-- The state an expiry leaves: restart the timer, accrue, close (R10). -/
def expired (s : State) : State := closeExpiry (accrue (restarted s)) (flowQ s)

theorem exec_accrualTimerExpiry {s : State} (hr : Runs s) (ha : s.trk.accrual.isSome = true) :
    exec .accrualTimerExpiry s = .next (expired s) := by
  have he : event s (fun s => if s.trk.accrual.isSome then
      closeExpiry (accrue (s.setTrk { s.trk with accrual := some 0 })) (flowQ s) else s) = expired s := by
    rw [event_of_runs _ hr] <;> rw [if_pos ha]
    · rfl
    · simp [State.restarting]
  exact congrArg Host.Outcome.next he

theorem closeExpiry_keeps (s : State) (q : Nat) :
    (closeExpiry s q).pending = s.pending ∧ (closeExpiry s q).serial = s.serial ∧ (closeExpiry s q).hold = s.hold ∧
      (closeExpiry s q).ctl = s.ctl ∧ (closeExpiry s q).ldr = s.ldr ∧ (closeExpiry s q).trk = s.trk ∧
      (closeExpiry s q).ros = s.ros ∧ (closeExpiry s q).scn = s.scn := by
  simp [closeExpiry]

/-- Where no wipe is admitted the close of an expiry moves neither wiper nor bus nor handler (R159). -/
theorem closeExpiry_of_refused (s : State) (q : Nat) (h : s.wip.state ≠ .want ∨ s.ctl.mode.doses = false) :
    (closeExpiry s q).wip = s.wip ∧ (closeExpiry s q).bus = s.bus ∧ (closeExpiry s q).cmd = s.cmd := by
  have hn (u : State) (hw : u.wip = s.wip) (hc : u.ctl = s.ctl) : judgeAdmission u = u := by
    unfold judgeAdmission admitted
    rw [hw, hc]
    rcases h with h | h <;> simp [h]
  unfold closeExpiry
  rw [hn] <;> simp

theorem accrue_of_doses {s : State} (h : s.ctl.mode.doses = true) :
    accrue s = (accrued s).leaving.foldl (sendRecord s.ros.role) (s.setTrk (accrued s).exit) := by
  unfold accrue; rw [if_pos h]

theorem accrue_of_rests {s : State} (h : s.ctl.mode.doses = false) : accrue s = s := by
  unfold accrue; rw [if_neg (by simp [h])]

theorem foldl_sendRecord_noRole (l : List ParcelRec) (s : State) : l.foldl (sendRecord .noRole) s = s := by
  induction l with
  | nil => rfl
  | cons r l ih => exact ih

/-- From `s` to `t` no block has moved but bus, wiper, handler, and of the tracker the tail's counts. -/
def MovesCountsAlone (s t : State) : Prop :=
  OnlyChanges [.trk, .wip, .bus, .cmd] s t ∧
    ∃ d u e, t.trk = { s.trk with discharged := d, underdosed := u, estimated := e }

theorem foldl_sendRecord_movesCounts (role : Role) (l : List ParcelRec) (s : State) :
    MovesCountsAlone s (l.foldl (sendRecord role) s) := by
  have handoff (hr : role = .head ∨ role = .mid) : MovesCountsAlone s (l.foldl (sendRecord role) s) := by
    rw [foldl_sendRecord_handoff hr]
    exact ⟨fun b hb => by cases b <;> simp [Block.same] at hb ⊢,
      s.trk.discharged, s.trk.underdosed, s.trk.estimated, by simp⟩
  have discharge (hr : role = .tail ∨ role = .sole) : MovesCountsAlone s (l.foldl (sendRecord role) s) := by
    rw [foldl_sendRecord_discharge hr, foldl_judged]
    exact ⟨fun b hb => by cases b <;> simp [Block.same] at hb ⊢, _, _, _, rfl⟩
  cases role with
  | head => exact handoff (.inl rfl)
  | mid => exact handoff (.inr rfl)
  | tail => exact discharge (.inl rfl)
  | sole => exact discharge (.inr rfl)
  | noRole => rw [foldl_sendRecord_noRole]; exact ⟨fun b _ => by cases b <;> rfl, _, _, _, rfl⟩

/-- In DOSING and HOLD an expiry leaves of the account what counting and creating leave, but for the records credited
and left behind, the timer and the tail's counts (R10–R21). -/
theorem expired_trk {s : State} (h : s.ctl.mode.doses = true) : ∃ d u e, (expired s).trk = { created s with
    queue := (accrued s).exit.queue, accrual := some 0, discharged := d, underdosed := u, estimated := e } := by
  have hm : (restarted s).ctl.mode.doses = true := h
  obtain ⟨d, u, e, ht⟩ := (foldl_sendRecord_movesCounts (restarted s).ros.role (accrued (restarted s)).leaving
    ((restarted s).setTrk (accrued (restarted s)).exit)).2
  obtain ⟨-, -, -, -, -, hc, -, -⟩ := closeExpiry_keeps (accrue (restarted s)) (flowQ s)
  refine ⟨d, u, e, ?_⟩
  rw [expired, hc, accrue_of_doses hm, ht, accrued_restarted]
  rfl

/-- What an expiry in DOSING or HOLD leaves alone (R10). -/
theorem expired_onlyChanges {s : State} (h : s.ctl.mode.doses = true) :
    OnlyChanges [.trk, .pln, .seq, .link, .wip, .bus, .cmd] s (expired s) := by
  have hm : (restarted s).ctl.mode.doses = true := h
  have hf := (foldl_sendRecord_movesCounts (restarted s).ros.role (accrued (restarted s)).leaving
    ((restarted s).setTrk (accrued (restarted s)).exit)).1
  rw [← accrue_of_doses hm] at hf
  obtain ⟨h1, h2, h3, h4, h5, -, h7, h8⟩ := closeExpiry_keeps (accrue (restarted s)) (flowQ s)
  intro b hb
  have hs := hf b
  cases b <;> simp at hb hs
  · exact h1.trans hs
  · exact h2.trans hs
  · exact h3.trans hs
  · exact h4.trans hs
  · exact h5.trans hs
  · exact h7.trans hs
  · exact h8.trans hs

/-- Outside DOSING and HOLD an expiry restarts the timer and moves nothing else of the account (R5, R10, R12). -/
theorem expired_of_rests {s : State} (h : s.ctl.mode.doses = false) :
    (expired s).trk = { s.trk with accrual := some 0 } ∧ OnlyChanges [.trk, .pln, .seq, .link] s (expired s) := by
  have hm : (restarted s).ctl.mode.doses = false := h
  obtain ⟨h1, h2, h3, h4, h5, h6, h7, h8⟩ := closeExpiry_keeps (restarted s) (flowQ s)
  obtain ⟨h9, h10, h11⟩ := closeExpiry_of_refused (restarted s) (flowQ s) (.inr hm)
  rw [expired, accrue_of_rests hm]
  refine ⟨h6, fun b hb => ?_⟩
  cases b <;> simp at hb <;> assumption

/-! ### The statements -/

theorem counted_of_rests {s : State} (h : s.ctl.mode ≠ .dosing) : counted s = s.trk := if_neg h

theorem counted_of_dosing {s : State} (h : s.ctl.mode = .dosing) : counted s = s.trk.count (flowQ s) := if_pos h

/-- Counter and residue after an expiry are those after counting. -/
theorem expired_counter {s : State} (h : s.ctl.mode.doses = true) :
    (expired s).trk.counter = (counted s).counter ∧ (expired s).trk.residue = (counted s).residue := by
  obtain ⟨d, u, e, ht⟩ := expired_trk h
  obtain ⟨hc, hr, -, -, -⟩ := created_counts s
  rw [ht]
  exact ⟨hc, hr⟩

/-- Settles O13: the counting step, and what follows it leaves counter and residue alone. -/
theorem dosingCountsTheFlow : Obligations.DosingCountsTheFlow := by
  unfold Obligations.DosingCountsTheFlow
  intro s hr ha hm
  obtain ⟨hc, hres⟩ := expired_counter (s := s) (by rw [hm]; rfl)
  rw [counted_of_dosing hm] at hc hres
  refine ⟨expired s, exec_accrualTimerExpiry hr ha, hc, hres, fun hrev hlow => ?_⟩
  have hq : flowQ s = 0 := by unfold flowQ; rw [hrev]
  rw [hc, hq]
  simp [Tracker.count, Nat.div_eq_of_lt (Nat.lt_succ_of_le hlow)]

/-- The tracker after counting and creating, in the words of the statements. -/
theorem created_eq (s : State) : created s =
    (let u := if s.ctl.mode = .dosing then s.trk.count (flowTaken s) else s.trk
     if s.ros.role = .head ∨ s.ros.role = .sole then u.create s.ldr.cfg.z s.ldr.straps.position s.ldr.cfg.vP
     else u) := by
  simp only [created, counted, numbers_iff, flowTaken_eq]

/-- The queue an expiry leaves: the records credited, without those at the front that have reached their exit mark. -/
theorem expired_queue {s : State} (h : s.ctl.mode.doses = true) : (expired s).trk.queue =
    ((created s).queue.map fun r =>
      if 0 < ((expired s).trk.counter - r.exitMark).toInt then r
      else { r with dose := min (r.dose + 2 * fEff s) 999999, flags := r.flags ||| standingFlags s }).dropWhile
      fun r => ¬ 0 < (r.exitMark - (expired s).trk.counter).toInt := by
  obtain ⟨d, u, e, ht⟩ := expired_trk h
  rw [ht]
  simp only [accrued_eq, Tracker.credit, Tracker.exit, markReached_eq, standingFlags_eq]
  congr 1
  exact List.map_congr_left fun r _ => creditRecord_eq _ _ _ r

/-- Settles O14, by the mode. -/
theorem recordsAreCreditedAndLeave : Obligations.RecordsAreCreditedAndLeave := by
  unfold Obligations.RecordsAreCreditedAndLeave
  refine ⟨fun s hr ha hm => ⟨expired s, exec_accrualTimerExpiry hr ha, ?_⟩, fun s hr ha hm =>
    ⟨expired s, exec_accrualTimerExpiry hr ha, expired_onlyChanges hm, ?_⟩⟩
  · cases hd : s.ctl.mode.doses with
    | true =>
      obtain ⟨hc, hres⟩ := expired_counter hd
      rw [counted_of_rests hm] at hc hres
      refine ⟨hc, hres, fun hh => ?_⟩
      exact absurd ((doses_iff _).mp hd) (by simp [hm, hh])
    | false =>
      obtain ⟨ht, hb⟩ := expired_of_rests hd
      exact ⟨by rw [ht], by rw [ht], fun _ => ⟨ht, hb⟩⟩
  · rw [expired_queue hm, created_eq]

end Sys2Proof.Machine
end

section
/-! What the head creates at an expiry, and how the records that leave are sent (O15, O16). -/

namespace Sys2Proof.Machine

/-! ### Creating, case by case (R14) -/

theorem Tracker.create_of_idle {t : Tracker} (z own vP : Nat) (h : t.creating = false ∨ t.nextExpected = none) :
    t.create z own vP = t := by
  unfold Tracker.create
  split
  · rename_i hc hn
    rcases h with h | h
    · exact absurd (hc.symm.trans h) (by simp)
    · exact absurd (hn.symm.trans h) (by simp)
  · rfl

theorem Tracker.create_of_none {t : Tracker} (z own : Nat) {vP : Nat} (h : t.completed vP = 0) :
    t.create z own vP = t := by
  unfold Tracker.create
  split
  · rw [if_pos h]
  · rfl

theorem Tracker.create_of_some {t : Tracker} (z own : Nat) {vP : Nat} {ne : Seq} (hc : t.creating = true)
    (hn : t.nextExpected = some ne) (hk : 1 ≤ t.completed vP) :
    t.create z own vP = { t.join z (createdRecord own ne (t.completed vP) t.firstResync) with
      creationMark := t.creationMark + BitVec.ofNat 32 (t.completed vP * vP)
      firstResync := false
      resyncs := if t.firstResync then bump16 t.resyncs else t.resyncs } := by
  unfold Tracker.create
  rw [hc, hn]
  simp only
  rw [if_neg (by omega)]

/-- The record made, in the words of the statement. -/
theorem createdRecord_eq (own : Nat) (ne : Seq) (k : Nat) (resync : Bool) : createdRecord own ne k resync =
    { firstSeq := ne, lastSeq := ne + BitVec.ofNat 16 k - 1, entryMark := 0, exitMark := 0, dose := 0
      origin := BitVec.ofNat 8 own, flags := if resync then 64#8 else 0 } := rfl

theorem Tracker.join_of_empty {t : Tracker} (z : Nat) (r : ParcelRec) (h : t.queue = []) :
    t.join z r = { t with queue := [t.marked z r], nextExpected := some (r.lastSeq + 1) } := by
  unfold Tracker.join
  rw [h]
  rfl

/-! ### A mark Z ahead of the counter -/

theorem mark_ahead (c : Mark) {z : Nat} (h1 : 1 ≤ z) (h2 : z < 2 ^ 31) :
    ¬ 0 < (c - (c + BitVec.ofNat 32 z)).toInt ∧ 0 < (c + BitVec.ofNat 32 z - c).toInt := by
  have hz : (BitVec.ofNat 32 z).toNat = z := by simp; omega
  have hf : c + BitVec.ofNat 32 z - c = BitVec.ofNat 32 z := by bv_omega
  have hb : (c - (c + BitVec.ofNat 32 z)).toNat = 2 ^ 32 - z := by bv_omega
  rw [hf, BitVec.toInt_eq_toNat_cond, BitVec.toInt_eq_toNat_cond, hb, hz]
  split <;> split <;> omega

theorem ne_add_sub_one (ne : Seq) (k : Nat) : ne + BitVec.ofNat 16 k - 1 + 1 = ne + BitVec.ofNat 16 k := by
  simp

/-! ### The head with an empty queue -/

/-- One record made for the completed parcels, credited on the same expiry, and waiting for its mark. -/
theorem expired_head_created {s : State} {ne : Seq} (hm : s.ctl.mode = .dosing)
    (hrole : s.ros.role = .head ∨ s.ros.role = .sole) (hc : s.trk.creating = true)
    (hn : s.trk.nextExpected = some ne) (hq : s.trk.queue = []) (hz1 : 1 ≤ s.ldr.cfg.z) (hz : s.ldr.cfg.z < 2 ^ 31)
    (hk : 1 ≤ (counted s).completed s.ldr.cfg.vP) :
    (let k := (counted s).completed s.ldr.cfg.vP
     let t := (expired s).trk
     t.queue = [{ firstSeq := ne, lastSeq := ne + BitVec.ofNat 16 k - 1, entryMark := t.counter,
                  exitMark := t.counter + BitVec.ofNat 32 s.ldr.cfg.z, dose := min (2 * fEff s) 999999,
                  origin := BitVec.ofNat 8 s.ldr.straps.position,
                  flags := (if s.trk.firstResync then 64#8 else 0) ||| standingFlags s }] ∧
       t.nextExpected = some (ne + BitVec.ofNat 16 k) ∧
       t.creationMark = s.trk.creationMark + BitVec.ofNat 32 (k * s.ldr.cfg.vP) ∧ t.firstResync = false ∧
       t.resyncs = if s.trk.firstResync then bump16 s.trk.resyncs else s.trk.resyncs) := by
  have hd : s.ctl.mode.doses = true := by rw [hm]; rfl
  have hcounted := counted_of_dosing hm
  have hfirst : (counted s).firstResync = s.trk.firstResync := by rw [hcounted]; rfl
  have hmark : (counted s).creationMark = s.trk.creationMark := by rw [hcounted]; rfl
  have hresyncs : (counted s).resyncs = s.trk.resyncs := by rw [hcounted]; rfl
  have hcr : created s = _ := (if_pos ((numbers_iff _).mpr hrole)).trans
    (Tracker.create_of_some (t := counted s) s.ldr.cfg.z s.ldr.straps.position (by rw [hcounted]; exact hc)
      (by rw [hcounted]; exact hn) hk)
  rw [Tracker.join_of_empty _ _ (by rw [hcounted]; exact hq), hfirst, hmark, hresyncs] at hcr
  obtain ⟨hpassed, hahead⟩ := mark_ahead (counted s).counter hz1 hz
  obtain ⟨d, u, e, ht⟩ := expired_trk hd
  refine ⟨?_, ?_, ?_, ?_, ?_⟩
  · rw [expired_queue hd, (expired_counter hd).1, hcr]
    simp only [Tracker.marked, createdRecord_eq, List.map_cons, List.map_nil, if_neg hpassed, List.dropWhile, hahead,
      not_true_eq_false, decide_false, Nat.zero_add]
  · rw [ht, hcr, ← ne_add_sub_one]; rfl
  · rw [ht, hcr]
  · rw [ht, hcr]
  · rw [ht, hcr]

/-- With no parcel completed nothing is made (R14). -/
theorem expired_head_idle {s : State} (hm : s.ctl.mode = .dosing) (hq : s.trk.queue = [])
    (hk : (counted s).completed s.ldr.cfg.vP = 0) :
    (expired s).trk.queue = [] ∧ (expired s).trk.nextExpected = s.trk.nextExpected ∧
      (expired s).trk.creationMark = s.trk.creationMark ∧ (expired s).trk.resyncs = s.trk.resyncs := by
  have hd : s.ctl.mode.doses = true := by rw [hm]; rfl
  have hcr : created s = s.trk.count (flowQ s) := by
    unfold created
    rw [Tracker.create_of_none _ _ hk, ite_self, counted_of_dosing hm]
  obtain ⟨d, u, e, ht⟩ := expired_trk hd
  refine ⟨?_, by rw [ht, hcr]; rfl, by rw [ht, hcr]; rfl, by rw [ht, hcr]; rfl⟩
  have hqueue : (s.trk.count (flowQ s)).queue = [] := hq
  rw [expired_queue hd, hcr, hqueue]
  rfl

/-- Settles O15: the queue empty in full, the creation step for any queue, and what an expiry leaves of the rest. -/
theorem headCreatesCompletedParcels : Obligations.HeadCreatesCompletedParcels := by
  unfold Obligations.HeadCreatesCompletedParcels
  refine ⟨?_, ?_, ?_⟩
  · intro s ne hr ha hm hrole hc hn hq hz1 hz
    have hcounter := (expired_counter (s := s) (by rw [hm]; rfl)).1
    have hmark : (counted s).creationMark = s.trk.creationMark := by rw [counted_of_dosing hm]; rfl
    have hk : ((expired s).trk.counter - s.trk.creationMark).toNat / s.ldr.cfg.vP =
        (counted s).completed s.ldr.cfg.vP := by
      rw [hcounter, ← hmark]; rfl
    refine ⟨expired s, exec_accrualTimerExpiry hr ha, ?_⟩
    simp only [hk]
    refine ⟨fun h0 => ?_, fun h1 => expired_head_created hm hrole hc hn hq hz1 hz h1⟩
    obtain ⟨h2, h3, h4, h5⟩ := expired_head_idle hm hq h0
    exact ⟨h2, h3.trans hn, h4, h5⟩
  · intro t z own vP
    exact ⟨Tracker.create_of_idle z own vP, fun ne hc hn =>
      ⟨fun h0 => Tracker.create_of_none z own h0, fun h1 => Tracker.create_of_some z own hc hn h1⟩⟩
  · intro s hr ha hd
    obtain ⟨d, u, e, ht⟩ := expired_trk hd
    refine ⟨expired s, exec_accrualTimerExpiry hr ha, ?_⟩
    have hcr := created_eq s
    simp only at hcr ⊢
    rw [← hcr, ht]

/-! ### Where the records that leave go -/

/-- The records that leave at an expiry, in the words of the statement (R21). -/
theorem leaving_eq {s : State} (h : s.ctl.mode.doses = true) : (accrued (restarted s)).leaving =
    (accrued s).queue.takeWhile fun r => ¬ 0 < (r.exitMark - (expired s).trk.counter).toInt := by
  obtain ⟨d, u, e, ht⟩ := expired_trk h
  rw [accrued_restarted, ht]
  simp only [Tracker.leaving, Tracker.timed, markReached_eq]
  rfl

/-- Posting, however often, leaves a wiper outside CLAIMING alone. -/
theorem postAll_wip_of_ne (s : State) (bs : List Body) (h : s.wip.state ≠ .claiming) :
    (postAll s bs).wip = s.wip := by
  unfold postAll
  induction bs generalizing s with
  | nil => rfl
  | cons b bs ih =>
    have hp := post_wip_of_ne s b h
    rw [List.foldl_cons, ih _ (by rw [hp]; exact h), hp]

/-- The restarted timer is no matter to the frames posted. -/
theorem postAll_restarted (s : State) (v : Tracker) (bs : List Body) :
    postAll ((restarted s).setTrk v) bs = (postAll s bs).setTrk v := postAll_setTrk s v bs

theorem accrue_handoff {s : State} (h : s.ctl.mode.doses = true) (hr : s.ros.role = .head ∨ s.ros.role = .mid) :
    accrue (restarted s) =
      (postAll s ((accrued (restarted s)).leaving.map fun r => .parcel (parcelOf (s.ros.down.getD 0) r))).setTrk
        (accrued (restarted s)).exit := by
  have hm : (restarted s).ctl.mode.doses = true := h
  have hros : (restarted s).ros.role = s.ros.role := rfl
  rw [accrue_of_doses hm, hros, foldl_sendRecord_handoff hr, postAll_restarted]
  rfl

theorem accrue_discharge {s : State} (h : s.ctl.mode.doses = true) (hr : s.ros.role = .tail ∨ s.ros.role = .sole) :
    accrue (restarted s) =
      (postAll s ((accrued (restarted s)).leaving.map fun r => .discharge (dischargeOf s.ldr.cfg.dT r))).setTrk
        ((accrued (restarted s)).leaving.foldl (fun t r => t.judged s.ldr.cfg.dT r) (accrued (restarted s)).exit) := by
  have hm : (restarted s).ctl.mode.doses = true := h
  have hros : (restarted s).ros.role = s.ros.role := rfl
  rw [accrue_of_doses hm, hros, foldl_sendRecord_discharge hr, postAll_restarted, State.setTrk_twice]
  rfl

/-- Frames posted and a tracker replaced: the wiper outside WANT and CLAIMING, the close leaves that bus and that
tracker. -/
theorem expired_of_accrue {s : State} {bs : List Body} {v : Tracker} (hw : s.wip.state ≠ .want)
    (hc : s.wip.state ≠ .claiming) (h : accrue (restarted s) = (postAll s bs).setTrk v) :
    (expired s).bus = (postAll s bs).bus ∧ (expired s).trk = v := by
  obtain ⟨-, -, -, -, -, ht, -, -⟩ := closeExpiry_keeps (accrue (restarted s)) (flowQ s)
  have hwip : (accrue (restarted s)).wip = s.wip := by rw [h]; exact postAll_wip_of_ne s bs hc
  obtain ⟨-, hb, -⟩ := closeExpiry_of_refused (accrue (restarted s)) (flowQ s) (.inl (by rw [hwip]; exact hw))
  exact ⟨hb.trans (by rw [h]; rfl), ht.trans (by rw [h]; rfl)⟩

/-- Before any record is judged the tail's counts are those before the expiry. -/
theorem accrued_exit_counts (s : State) : (accrued (restarted s)).exit.discharged = s.trk.discharged ∧
    (accrued (restarted s)).exit.underdosed = s.trk.underdosed ∧
    (accrued (restarted s)).exit.estimated = s.trk.estimated := by
  obtain ⟨-, -, h⟩ := created_counts s
  rw [accrued_restarted]
  exact h

theorem dischargeOf_eq (dT : Nat) (r : ParcelRec) : dischargeOf dT r =
    { firstSeq := r.firstSeq, lastSeq := r.lastSeq, dose := BitVec.ofNat 24 r.dose, flags := r.flags,
      origin := r.origin, verdict := if dT ≤ r.dose then 1 else 0 } := by
  simp only [dischargeOf, verdictMet, decide_eq_true_eq]

/-- Settles O16: what the records that leave become, by the role. -/
theorem leavingRecordsAreSentByRole : Obligations.LeavingRecordsAreSentByRole := by
  unfold Obligations.LeavingRecordsAreSentByRole
  intro s hr ha hd hw hc
  obtain ⟨hdis, hund, hest⟩ := accrued_exit_counts s
  refine ⟨expired s, exec_accrualTimerExpiry hr ha, ?_⟩
  simp only [← leaving_eq hd]
  refine ⟨fun hrole => ?_, fun hrole => ?_⟩
  · obtain ⟨hb, ht⟩ := expired_of_accrue hw hc (accrue_handoff hd hrole)
    rw [hb, ht]
    exact ⟨rfl, hdis, hund, hest⟩
  · obtain ⟨hb, ht⟩ := expired_of_accrue hw hc (accrue_discharge hd hrole)
    simp only [hb, ht, foldl_judged, hdis, hund, hest, dischargeOf_eq, and_self]

end Sys2Proof.Machine
end

section
/-! A settlement in DOSING and HOLD moves the tracker by the role alone (O12). -/

namespace Sys2Proof.Machine

/-! ### The creation begins, row by row of R45 -/

/-- Creation begun at the counter, with `ne` expected next. -/
def Tracker.begunAt (t : Tracker) (ne : Seq) : Tracker :=
  { t with creating := true, creationMark := t.counter, firstResync := false, nextExpected := some ne }

/-- Creation begun at the counter, with what is expected next as it was. -/
def Tracker.begun (t : Tracker) : Tracker :=
  { t with creating := true, creationMark := t.counter, firstResync := false }

theorem Tracker.begun_eq_begunAt {t : Tracker} {ne : Seq} (h : t.nextExpected = some ne) : t.begun = t.begunAt ne := by
  unfold Tracker.begunAt; rw [← h]; rfl

theorem Tracker.begun_nextExpected (t : Tracker) : t.begun.nextExpected = t.nextExpected := rfl

theorem Tracker.begun_watermark (t : Tracker) : t.begun.watermark = t.watermark := rfl

/-- A start that is not earlier than what is expected is expected next (R13). -/
theorem Tracker.expectFrom_of_later {t : Tracker} {ne w : Seq} (h : t.nextExpected = some ne)
    (hw : seqLater ne w = false) : t.expectFrom w = { t with nextExpected := some w } := by
  unfold Tracker.expectFrom
  rw [h]
  simp only [hw, Bool.false_eq_true, if_false]

theorem Tracker.expectFrom_of_none {t : Tracker} (w : Seq) (h : t.nextExpected = none) :
    t.expectFrom w = { t with nextExpected := some w } := by
  unfold Tracker.expectFrom
  rw [h]

/-- What lies ahead by a positive distance is not passed. -/
theorem seqLater_false_of_ahead {ne w : Seq} (h : 0 < (w - ne).toInt) : seqLater ne w = false := by
  have hd : ¬ 0 < (ne - w).toInt := by
    rw [BitVec.toInt_eq_toNat_cond] at h ⊢
    have hn : (ne - w).toNat = (2 ^ 16 - (w - ne).toNat) % 2 ^ 16 := by bv_omega
    rw [hn]
    split at h <;> split <;> omega
  simpa [seqLater, seqDist] using hd

theorem takeOver_of_nothing {t : Tracker} (z own : Nat) (hn : t.nextExpected = none) (hw : t.watermark = none) :
    t.begun.takeOverByLoss z own = t.begunAt 256 := by
  unfold Tracker.takeOverByLoss
  rw [Tracker.begun_nextExpected, Tracker.begun_watermark, hn, hw]
  exact Tracker.expectFrom_of_none 256 hn

theorem takeOver_of_watermark {t : Tracker} (z own : Nat) {w : Seq} (hn : t.nextExpected = none)
    (hw : t.watermark = some w) : t.begun.takeOverByLoss z own = t.begunAt w := by
  unfold Tracker.takeOverByLoss
  rw [Tracker.begun_nextExpected, Tracker.begun_watermark, hn, hw]
  exact Tracker.expectFrom_of_none w hn

theorem takeOver_of_expected {t : Tracker} (z own : Nat) {ne : Seq} (hn : t.nextExpected = some ne)
    (hw : t.watermark = none) : t.begun.takeOverByLoss z own = t.begunAt ne := by
  unfold Tracker.takeOverByLoss
  rw [Tracker.begun_nextExpected, Tracker.begun_watermark, hn, hw]
  exact Tracker.begun_eq_begunAt hn

/-- The watermark against what is expected: the two rows of R45 that make nothing, and the placeholder's. -/
theorem takeOver_of_both {t : Tracker} (z own : Nat) {ne w : Seq} (hn : t.nextExpected = some ne)
    (hw : t.watermark = some w) : t.begun.takeOverByLoss z own =
      if 0 < (w - ne).toInt ∧ (w - ne).toInt ≤ 64 then (t.begun.joinPlaceholder z own ne (w - 1)).expectFrom w
      else if 64 < (w - ne).toInt then ({ t.begun with firstResync := true } : Tracker).expectFrom w
      else t.begun := by
  unfold Tracker.takeOverByLoss
  split
  · rename_i ne' w' hn' hw'
    obtain rfl := Option.some.inj (hn'.symm.trans hn)
    obtain rfl := Option.some.inj (hw'.symm.trans hw)
    rfl
  · rename_i hw'; exact absurd (hw'.symm.trans hw) (by simp)
  · rename_i hn' _; exact absurd (hn'.symm.trans hn) (by simp)
  · rename_i hn' _; exact absurd (hn'.symm.trans hn) (by simp)

theorem takeOver_of_behind {t : Tracker} (z own : Nat) {ne w : Seq} (hn : t.nextExpected = some ne)
    (hw : t.watermark = some w) (hd : (w - ne).toInt ≤ 0) : t.begun.takeOverByLoss z own = t.begunAt ne := by
  rw [takeOver_of_both z own hn hw, if_neg (by omega), if_neg (by omega), Tracker.begun_eq_begunAt hn]

theorem takeOver_of_far {t : Tracker} (z own : Nat) {ne w : Seq} (hn : t.nextExpected = some ne)
    (hw : t.watermark = some w) (hd : 64 < (w - ne).toInt) :
    t.begun.takeOverByLoss z own = { t.begunAt w with firstResync := true } := by
  rw [takeOver_of_both z own hn hw, if_neg (by omega), if_pos hd]
  exact Tracker.expectFrom_of_later (t := { t.begun with firstResync := true }) hn
    (seqLater_false_of_ahead (by omega))

/-- The placeholder of a gap of 1 to 64 numbers, as it joins at the counter (R37, R45). -/
def gapRecord (t : Tracker) (z own : Nat) (ne w : Seq) : ParcelRec :=
  { firstSeq := ne, lastSeq := w - 1, entryMark := t.counter, exitMark := t.counter + BitVec.ofNat 32 z, dose := 0
    origin := BitVec.ofNat 8 own, flags := 2 }

/-- The gap's placeholder joined, whatever the queue then is. -/
theorem takeOver_of_joined {t : Tracker} (z own : Nat) {ne w : Seq} {q : List ParcelRec}
    (hn : t.nextExpected = some ne) (hw : t.watermark = some w) (h1 : 1 ≤ (w - ne).toInt) (h2 : (w - ne).toInt ≤ 64)
    (hj : t.begun.join z (placeholder own ne (w - 1)) = { t.begunAt w with queue := q }) :
    t.begun.takeOverByLoss z own = { t.begunAt w with queue := q, placeholders := bump16 t.placeholders } := by
  have hs : seqLater w w = false := by simp [seqLater, seqDist]
  rw [takeOver_of_both z own hn hw, if_pos (by omega)]
  unfold Tracker.joinPlaceholder
  rw [hj]
  exact Tracker.expectFrom_of_later (ne := w) rfl hs

theorem join_gap_of_empty {t : Tracker} (z own : Nat) (ne w : Seq) (hq : t.queue = []) :
    t.begun.join z (placeholder own ne (w - 1)) = { t.begunAt w with queue := [gapRecord t z own ne w] } := by
  have hp : (placeholder own ne (w - 1)).lastSeq + 1 = w := by simp [placeholder]
  rw [Tracker.join_of_empty (t := t.begun) z _ hq, hp]
  rfl

/-- Behind an adjacent back record the placeholder joins as it is, or the newest of 16 takes it up (R4, R25). -/
theorem join_gap_of_adjacent {t : Tracker} (z own : Nat) {ne w : Seq} {q : List ParcelRec} {back : ParcelRec}
    (hq : t.queue = q ++ [back]) (hb : back.lastSeq + 1 = ne) :
    t.begun.join z (placeholder own ne (w - 1)) = { t.begunAt w with
      queue := if t.queue.length < 16 then t.queue ++ [gapRecord t z own ne w]
        else q ++ [{ back with lastSeq := w - 1, dose := min back.dose 0, flags := back.flags ||| 2#8 ||| 4#8 }] } := by
  have hl : t.begun.queue.getLast? = some back := by simp [Tracker.begun, hq]
  have ha : alignRecord back.lastSeq (t.begun.marked z (placeholder own ne (w - 1))) = some (gapRecord t z own ne w) :=
    if_pos hb.symm
  have hp : (gapRecord t z own ne w).lastSeq + 1 = w := by simp [gapRecord]
  have happ : appendRecord t.begun.queue (gapRecord t z own ne w) =
      if t.queue.length < 16 then t.queue ++ [gapRecord t z own ne w]
      else q ++ [{ back with lastSeq := w - 1, dose := min back.dose 0, flags := back.flags ||| 2#8 ||| 4#8 }] := by
    unfold appendRecord
    rw [hl]
    simp only [Tracker.begun, hq, List.dropLast_concat]
    rfl
  unfold Tracker.join
  rw [hl]
  simp only [ha, hp, happ]
  rfl

/-! ### The settlement -/

theorem judgeRoster_mode (s : State) : (judgeRoster s).ctl.mode = s.ctl.mode := rfl

/-- In DOSING and HOLD without a reason the role follows the neighbours, as by loss (R63, R64, R43). -/
theorem settle_of_doses {s : State} (hd : s.ctl.mode.doses = true) (hr : reasonStands (judgeRoster s) = false) :
    settle s = applyRole (judgeRoster s) .byLoss := by
  unfold settle
  simp only [judgeRoster_mode]
  cases hm : s.ctl.mode <;> simp [hm, BankMode.doses] at hd <;> simp only [hr, Bool.false_eq_true, if_false]

theorem settle_role {s : State} (hd : s.ctl.mode.doses = true) (hr : reasonStands (judgeRoster s) = false) :
    (settle s).ros.role = roleOf (settle s).ros.up (settle s).ros.down := by
  have hm : (judgeRoster s).ctl.mode.doses = true := hd
  rw [settle_of_doses hd hr]
  simp [applyRole, hm]

/-- The tracker after the settlement, by the role before and after (R13, R16). -/
theorem settle_trk {s : State} (hd : s.ctl.mode.doses = true) (hr : reasonStands (judgeRoster s) = false) :
    (settle s).trk =
      if (settle s).ros.role.numbers && !s.ros.role.numbers then
        s.trk.begun.takeOverByLoss s.ldr.cfg.z s.ldr.straps.position
      else if !(settle s).ros.role.numbers && s.ros.role.numbers then s.trk.stop
      else s.trk := by
  rw [settle_of_doses hd hr]
  rfl

/-- Settles O12: the role before and after decides, and where creation begins, R45's row. -/
theorem roleChangesMoveTheCreation : Obligations.RoleChangesMoveTheCreation := by
  unfold Obligations.RoleChangesMoveTheCreation
  intro s hd hr
  have hmode : (settle s).ctl.mode = s.ctl.mode := by rw [settle_of_doses hd hr]; rfl
  have htrk := settle_trk hd hr
  refine ⟨hmode, settle_role hd hr, fun hsame => ?_, fun hwas hnot => ?_, fun hnot his => ?_⟩
  · simp only [← numbers_iff] at hsame
    cases hs : s.ros.role.numbers <;> cases ht : (settle s).ros.role.numbers <;> simp [hs, ht] at hsame htrk <;>
      exact htrk
  · have h1 := (numbers_iff _).mpr hwas
    have h2 := mt (numbers_iff _).mp hnot
    simpa [h1, h2, Tracker.stop] using htrk
  · have h1 := mt (numbers_iff _).mp hnot
    have h2 := (numbers_iff _).mpr his
    rw [if_pos (by simp [h1, h2])] at htrk
    rw [htrk]
    refine ⟨takeOver_of_nothing _ _, fun w => takeOver_of_watermark _ _, fun ne => takeOver_of_expected _ _,
      fun ne w hn hw => ⟨takeOver_of_behind _ _ hn hw, takeOver_of_far _ _ hn hw, fun h1 h2 => ⟨fun hq => ?_,
        fun q back hq hb => ?_⟩⟩⟩
    · exact takeOver_of_joined _ _ hn hw h1 h2 (join_gap_of_empty _ _ ne w hq)
    · exact takeOver_of_joined _ _ hn hw h1 h2 (join_gap_of_adjacent _ _ hq hb)

end Sys2Proof.Machine
end

section
/-! The continuity check of an accepted record and its joining, row by row (O29). -/

namespace Sys2Proof.Machine

/-! ### Distances -/

theorem seqLater_iff (a b : Seq) : seqLater a b = true ↔ 0 < (a - b).toInt := by simp [seqLater, seqDist]

theorem seq_sub_toInt_eq_zero {a b : Seq} : (a - b).toInt = 0 ↔ a = b := by
  rw [← BitVec.toInt_zero (w := 16), BitVec.toInt_inj, BitVec.sub_eq_iff_eq_add, BitVec.zero_add]

/-! ### The rows of R36 -/

theorem Tracker.accept_of_unexpected {t : Tracker} (z own : Nat) (r : ParcelRec) (hn : t.nextExpected = none) :
    t.accept z own r = t.join z r := by
  unfold Tracker.accept
  rw [hn]

/-- R36's table in the words of the statement: its rows are tried from above. -/
theorem Tracker.accept_of_expected {t : Tracker} (z own : Nat) (r : ParcelRec) {ne : Seq}
    (hn : t.nextExpected = some ne) : t.accept z own r =
      if (r.firstSeq - ne).toInt = 0 then t.join z r
      else if 0 < (r.firstSeq - ne).toInt ∧ t.brk.map (·.seq) = some r.firstSeq then { t with brk := none }.join z r
      else if 0 < (r.firstSeq - ne).toInt ∧ (r.firstSeq - ne).toInt ≤ 64 then
        (t.joinPlaceholder z own ne (r.firstSeq - 1)).join z r
      else if 64 < (r.firstSeq - ne).toInt then
        { t with resyncs := bump16 t.resyncs }.join z { r with flags := r.flags ||| 64#8 }
      else if 0 < (ne - r.lastSeq).toInt then { t with duplicates := bump16 t.duplicates }
      else { t with overlaps := bump16 t.overlaps }.join z { r with firstSeq := ne, flags := r.flags ||| 128#8 } := by
  unfold Tracker.accept
  rw [hn]
  simp only [seqLater_iff]
  rfl

section
variable {t : Tracker} (z own : Nat) {r : ParcelRec} {ne : Seq} (hn : t.nextExpected = some ne)
include hn

theorem Tracker.accept_of_inLine (hd : (r.firstSeq - ne).toInt = 0) : t.accept z own r = t.join z r := by
  rw [Tracker.accept_of_expected z own r hn, if_pos hd]

/-- A pending break is used up, however far ahead it lies (R42). -/
theorem Tracker.accept_of_break (hd : 0 < (r.firstSeq - ne).toInt) (hb : t.brk.map (·.seq) = some r.firstSeq) :
    t.accept z own r = { t with brk := none }.join z r := by
  rw [Tracker.accept_of_expected z own r hn, if_neg hd.ne', if_pos ⟨hd, hb⟩]

/-- A gap of at most 64 numbers is filled by a placeholder (R37). -/
theorem Tracker.accept_of_gap (hd : 0 < (r.firstSeq - ne).toInt) (h64 : (r.firstSeq - ne).toInt ≤ 64)
    (hb : t.brk.map (·.seq) ≠ some r.firstSeq) :
    t.accept z own r = (t.joinPlaceholder z own ne (r.firstSeq - 1)).join z r := by
  rw [Tracker.accept_of_expected z own r hn, if_neg hd.ne', if_neg fun h => hb h.2, if_pos ⟨hd, h64⟩]

/-- A greater gap is a resync (R38). -/
theorem Tracker.accept_of_far (hd : 64 < (r.firstSeq - ne).toInt) (hb : t.brk.map (·.seq) ≠ some r.firstSeq) :
    t.accept z own r =
      { t with resyncs := bump16 t.resyncs }.join z { r with flags := r.flags ||| 64#8 } := by
  rw [Tracker.accept_of_expected z own r hn, if_neg (by omega), if_neg fun h => hb h.2, if_neg (by omega), if_pos hd]

/-- A range that ends before the number expected is a duplicate (R39). -/
theorem Tracker.accept_of_passed (hd : (r.firstSeq - ne).toInt < 0) (hl : 0 < (ne - r.lastSeq).toInt) :
    t.accept z own r = { t with duplicates := bump16 t.duplicates } := by
  rw [Tracker.accept_of_expected z own r hn, if_neg (by omega), if_neg (by omega), if_neg (by omega),
    if_neg (by omega), if_pos hl]

/-- A range that reaches the number expected is cut to begin there (R39). -/
theorem Tracker.accept_of_overlap (hd : (r.firstSeq - ne).toInt < 0) (hl : ¬ 0 < (ne - r.lastSeq).toInt) :
    t.accept z own r = { t with overlaps := bump16 t.overlaps }.join z
      { r with firstSeq := ne, flags := r.flags ||| 128#8 } := by
  rw [Tracker.accept_of_expected z own r hn, if_neg (by omega), if_neg (by omega), if_neg (by omega),
    if_neg (by omega), if_neg hl]

end

/-! ### A record brought into line (R4) -/

section
variable {last : Seq} {r : ParcelRec}

theorem alignRecord_of_inLine (hd : (r.firstSeq - (last + 1)).toInt = 0) : alignRecord last r = some r :=
  if_pos (seq_sub_toInt_eq_zero.mp hd)

theorem alignRecord_of_ahead (hd : 0 < (r.firstSeq - (last + 1)).toInt) : alignRecord last r =
    some { r with firstSeq := last + 1, flags := r.flags ||| 64#8 } := by
  have hne : r.firstSeq ≠ last + 1 := mt seq_sub_toInt_eq_zero.mpr hd.ne'
  unfold alignRecord
  rw [if_neg hne, if_pos ((seqLater_iff _ _).mpr hd)]
  rfl

/-- An earlier first_seq: the end of the range decides. -/
theorem alignRecord_of_earlier (hd : (r.firstSeq - (last + 1)).toInt < 0) : alignRecord last r =
    if 0 < (r.lastSeq - last).toInt then some { r with firstSeq := last + 1, flags := r.flags ||| 128#8 }
    else none := by
  have hne : r.firstSeq ≠ last + 1 := mt seq_sub_toInt_eq_zero.mpr hd.ne
  have hl : ¬ seqLater r.firstSeq (last + 1) = true := mt (seqLater_iff _ _).mp hd.not_gt
  unfold alignRecord
  rw [if_neg hne, if_neg hl]
  simp only [seqLater_iff]
  rfl

end

/-! ### Joining behind a back record (R4, R25) -/

theorem appendRecord_concat (q : List ParcelRec) (back x : ParcelRec) : appendRecord (q ++ [back]) x =
    if (q ++ [back]).length < 16 then q ++ [back] ++ [x]
    else q ++ [{ back with lastSeq := x.lastSeq, dose := min back.dose x.dose
                           flags := back.flags ||| x.flags ||| 4#8 }] := by
  unfold appendRecord
  simp only [List.getLast?_concat, List.dropLast_concat]
  rfl

section
variable {t : Tracker} {z : Nat} {r : ParcelRec} {q : List ParcelRec} {back : ParcelRec}
  (hq : t.queue = q ++ [back])
include hq

/-- A record that can be brought into line joins, and what is expected next follows it. -/
theorem Tracker.join_of_aligned {x : ParcelRec} (ha : alignRecord back.lastSeq (t.marked z r) = some x) :
    t.join z r = { t with
      nextExpected := some (x.lastSeq + 1)
      queue := if t.queue.length < 16 then t.queue ++ [x]
        else q ++ [{ back with lastSeq := x.lastSeq, dose := min back.dose x.dose
                               flags := back.flags ||| x.flags ||| 4#8 }] } := by
  have hl : t.queue.getLast? = some back := by rw [hq, List.getLast?_concat]
  unfold Tracker.join
  rw [hl]
  simp only [ha]
  rw [hq, appendRecord_concat]

/-- A record that cannot is counted as a duplicate. -/
theorem Tracker.join_of_discarded (ha : alignRecord back.lastSeq (t.marked z r) = none) :
    t.join z r = { t with duplicates := bump16 t.duplicates } := by
  have hl : t.queue.getLast? = some back := by rw [hq, List.getLast?_concat]
  unfold Tracker.join
  rw [hl]
  simp only [ha]

end

/-- Settles O29: the rows of the check from next_expected, then the cases of the first_seq behind the back record. -/
theorem acceptedRecordsJoinInLine : Obligations.AcceptedRecordsJoinInLine := by
  unfold Obligations.AcceptedRecordsJoinInLine
  refine ⟨fun t z own r => ⟨Tracker.accept_of_unexpected z own r, fun ne hn => ?_⟩, fun t z r =>
    ⟨Tracker.join_of_empty z r, fun q back hq => ⟨fun hd => ?_, fun hd => ?_, fun hd hl => ?_, fun hd hl => ?_⟩⟩⟩
  · exact ⟨Tracker.accept_of_inLine z own hn, Tracker.accept_of_break z own hn, Tracker.accept_of_gap z own hn,
      Tracker.accept_of_far z own hn, Tracker.accept_of_passed z own hn, Tracker.accept_of_overlap z own hn⟩
  · exact Tracker.join_of_aligned hq (alignRecord_of_inLine (r := t.marked z r) hd)
  · exact Tracker.join_of_aligned hq (alignRecord_of_ahead (r := t.marked z r) hd)
  · exact Tracker.join_of_aligned hq ((alignRecord_of_earlier (r := t.marked z r) hd).trans (if_pos hl))
  · exact Tracker.join_of_discarded hq ((alignRecord_of_earlier (r := t.marked z r) hd).trans (if_neg hl))

end Sys2Proof.Machine
end

section
/-! A PARCEL is screened, teaches the watermark, and is accepted by name or by adoption (O28). -/

namespace Sys2Proof.Machine

/-! ### What the screen and the two ways of acceptance ask -/

theorem learned_ldr (s : State) (a : Src) : (learned s a).ldr = s.ldr := by simp [learned]

theorem parcelScreened_iff (s : State) (a : Src) (b : ParcelBody) : parcelScreened s a b = true ↔
    a.chan.toNat = s.ldr.straps.channel ∧ ¬ 0 < (b.firstSeq - b.lastSeq).toInt := by
  rw [← seqLater_iff]
  simp [parcelScreened, ownChannel]

theorem namedHere_iff (s : State) (a : Src) (b : ParcelBody) : namedHere s a b = true ↔
    b.recipient.toNat = s.ldr.straps.position ∧ a.pos.toNat < s.ldr.straps.position := by
  simp [namedHere]

theorem adoptable_iff (s : State) (a : Src) (b : ParcelBody) : adoptable s a b = true ↔
    a.pos.toNat < b.recipient.toNat ∧ b.recipient.toNat < s.ldr.straps.position ∧
      b.recipient.toNat ∉ peerPositions (ownView s) s.ros.refDigest s.ros.entries ∧
      ∀ p ∈ peerPositions (ownView s) s.ros.refDigest s.ros.entries,
        ¬ (a.pos.toNat < p ∧ p < s.ldr.straps.position) := by
  simp [adoptable, and_assoc, or_iff_not_imp_left]

/-! ### Adoption and its count -/

theorem Tracker.countsNothing_iff (t : Tracker) (r : ParcelRec) : t.countsNothing r = true ↔
    ∀ ne, t.nextExpected = some ne → 0 < (r.firstSeq - ne).toInt ∧ t.brk.map (·.seq) = some r.firstSeq := by
  unfold Tracker.countsNothing
  cases t.nextExpected <;> simp [seqDist]

/-- A watermark candidate leaves alone what the adoption count reads. -/
theorem Tracker.offerWatermark_keeps (t : Tracker) (c : Seq) : (t.offerWatermark c).nextExpected = t.nextExpected ∧
    (t.offerWatermark c).brk = t.brk ∧ (t.offerWatermark c).adoptions = t.adoptions := by
  unfold Tracker.offerWatermark
  split
  · exact ⟨rfl, rfl, rfl⟩
  · split <;> exact ⟨rfl, rfl, rfl⟩

theorem Tracker.adopt_of_uncounted {t : Tracker} (z own : Nat) {r : ParcelRec} (h : t.countsNothing r = true) :
    t.adopt z own r = t.accept z own r := by
  unfold Tracker.adopt
  rw [if_pos h]

theorem Tracker.adopt_of_counted {t : Tracker} (z own : Nat) {r : ParcelRec} (h : ¬ t.countsNothing r = true) :
    t.adopt z own r = { t with adoptions := bump16 t.adoptions }.accept z own r := by
  unfold Tracker.adopt
  rw [if_neg h]

/-! ### The tracker after a screened PARCEL -/

section
variable {s : State} {a : Src} {b : ParcelBody}

theorem takeParcel_of_taught (h : s.ctl.mode.doses = false ∨ ¬ namedHere s a b = true ∧ ¬ adoptable s a b = true) :
    takeParcel s a b = s.trk.offerWatermark (b.lastSeq + 1) := by
  unfold takeParcel
  rcases h with hm | ⟨hn, ha⟩
  · rw [hm]; rfl
  · simp only [if_neg hn, if_neg ha, ite_self]

theorem takeParcel_of_named (hm : s.ctl.mode.doses = true) (hn : namedHere s a b = true) : takeParcel s a b =
    (s.trk.offerWatermark (b.lastSeq + 1)).accept s.ldr.cfg.z s.ldr.straps.position (arrivalOf b) := by
  unfold takeParcel
  rw [if_pos hm, if_pos hn]

theorem takeParcel_of_adopted (hm : s.ctl.mode.doses = true) (hn : ¬ namedHere s a b = true)
    (ha : adoptable s a b = true) : takeParcel s a b =
      (s.trk.offerWatermark (b.lastSeq + 1)).adopt s.ldr.cfg.z s.ldr.straps.position (arrivalOf b) := by
  unfold takeParcel
  rw [if_pos hm, if_neg hn, if_pos ha]

/-- Of a part that takes frames a PARCEL is learned, and its screen decides whether the tracker takes it. -/
theorem exec_parcelReceived (h : TakesFrames s) : exec (.parcelReceived a b) s =
    .next (if parcelScreened (learned s a) a b then (learned s a).setTrk (takeParcel (learned s a) a b)
      else learned s a) := by
  refine congrArg Host.Outcome.next (frameEvent_of_takes _ h ?_)
  refine Eq.trans ?_ (learned_restarting s a)
  change State.restarting (if parcelScreened (learned s a) a b then
    (learned s a).setTrk (takeParcel (learned s a) a b) else learned s a) = _
  split <;> rfl

end

/-- Settles O28: the screen, then name and adoption, and for an adoption whether a count may change. -/
theorem parcelsAreScreenedAndAccepted : Obligations.ParcelsAreScreenedAndAccepted := by
  unfold Obligations.ParcelsAreScreenedAndAccepted
  intro a b s h
  have hldr := learned_ldr s a
  have hscreen := parcelScreened_iff (learned s a) a b
  have hnamed := namedHere_iff (learned s a) a b
  have hadopt := adoptable_iff (learned s a) a b
  have hcounts := Tracker.countsNothing_iff ((learned s a).trk.offerWatermark (b.lastSeq + 1)) (arrivalOf b)
  obtain ⟨hnext, hbrk, hadoptions⟩ := Tracker.offerWatermark_keeps (learned s a).trk (b.lastSeq + 1)
  rw [hnext, hbrk] at hcounts
  rw [hldr] at hscreen hnamed hadopt
  simp only [exec_parcelReceived h]
  refine ⟨fun hout => ?_, fun hchan hrange => ?_⟩
  · have hfails : ¬ parcelScreened (learned s a) a b = true := fun hs =>
      have ⟨hchan, hrange⟩ := hscreen.mp hs
      hout.elim (absurd hchan) hrange
    rw [if_neg hfails]
  · rw [if_pos (hscreen.mpr ⟨hchan, hrange⟩)]
    refine ⟨fun hnot => ?_, fun hm hn => ?_, fun hm hn ha => ?_⟩
    · rw [takeParcel_of_taught (hnot.imp_right fun ⟨hn, ha⟩ => ⟨mt hnamed.mp hn, mt hadopt.mp ha⟩)]
    · rw [takeParcel_of_named hm (hnamed.mpr hn), hldr]
      rfl
    · rw [takeParcel_of_adopted hm (mt hnamed.mp hn) (hadopt.mpr ha), hldr]
      refine ⟨fun hu => ?_, fun hu => ?_⟩
      · rw [Tracker.adopt_of_uncounted _ _ (hcounts.mpr hu)]
        rfl
      · rw [Tracker.adopt_of_counted _ _ (mt hcounts.mp hu), hadoptions]
        rfl

end Sys2Proof.Machine
end

section
/-! What every command that runs keeps, walked through once: a predicate that the station's operations keep is kept by
every command but the four of reset and supply. -/

namespace Sys2Proof.Machine

/-! ### What the operations of the other blocks leave alone -/

/-- `t` shows the station, the reset and the waiting commands what `s` shows them. -/
structure Undisturbed (s t : State) : Prop where
  pending : t.pending = s.pending
  hold : t.hold = s.hold
  mode : t.ctl.mode = s.ctl.mode
  cause : t.ctl.resetCause = s.ctl.resetCause
  position : t.ctl.positionReason = s.ctl.positionReason
  digest : t.ctl.digestReason = s.ctl.digestReason
  ros : t.ros = s.ros
  straps : t.ldr.straps = s.ldr.straps
  image : t.ldr.digest = s.ldr.digest
  supply : t.ldr.supply = s.ldr.supply
  serial : t.serial = s.serial

theorem Undisturbed.refl (s : State) : Undisturbed s s := by constructor <;> rfl

theorem Undisturbed.trans {s t u : State} (h : Undisturbed s t) (g : Undisturbed t u) : Undisturbed s u :=
  ⟨g.pending.trans h.pending, g.hold.trans h.hold, g.mode.trans h.mode, g.cause.trans h.cause,
    g.position.trans h.position, g.digest.trans h.digest, g.ros.trans h.ros, g.straps.trans h.straps,
    g.image.trans h.image, g.supply.trans h.supply, g.serial.trans h.serial⟩

theorem Undisturbed.station {s t : State} (h : Undisturbed s t) : SameStation s t :=
  ⟨by rw [h.hold], h.mode, h.position, h.digest, h.ros, h.straps, h.image, h.serial⟩

theorem Undisturbed.reset {s t : State} (h : Undisturbed s t) : SameReset s t := ⟨h.hold, h.supply⟩

/-- Six blocks unchanged are more than enough. -/
theorem undisturbed_of_blocks {s t : State} (hp : t.pending = s.pending) (hh : t.hold = s.hold) (hc : t.ctl = s.ctl)
    (hr : t.ros = s.ros) (hl : t.ldr = s.ldr) (hs : t.serial = s.serial) : Undisturbed s t := by
  constructor <;> simp only [hp, hh, hc, hr, hl, hs]

theorem undisturbed_ite {s t : State} {p : Prop} [Decidable p] (h : Undisturbed s t) :
    Undisturbed s (if p then t else s) := by
  split
  · exact h
  · exact .refl s

theorem foldl_undisturbed {α : Type} (f : State → α → State) (hf : ∀ s a, Undisturbed s (f s a)) (l : List α)
    (s : State) : Undisturbed s (l.foldl f s) := by
  induction l generalizing s with
  | nil => exact .refl s
  | cons a l ih => exact (hf s a).trans (ih _)

theorem freeWait_undisturbed (s : State) (c p : Nat) : Undisturbed s (freeWait s c p) :=
  undisturbed_ite (by constructor <;> simp)

theorem noteBreak_undisturbed (s : State) (head : Option Nat) (a : Src) (b : JoinBody) :
    Undisturbed s (noteBreak s head a b) :=
  undisturbed_ite (by constructor <;> rfl)

theorem statusWatermark_undisturbed (s : State) (a : Src) (b : StatusBody) :
    Undisturbed s (statusWatermark s a b) :=
  undisturbed_ite (by constructor <;> rfl)

theorem sendRecord_undisturbed (role : Role) (s : State) (r : ParcelRec) :
    Undisturbed s (sendRecord role s r) := by
  unfold sendRecord; split <;> constructor <;> simp

theorem accrue_undisturbed (s : State) : Undisturbed s (accrue s) := by
  unfold accrue; split
  · exact Undisturbed.trans (t := s.setTrk (accrued s).exit) (by constructor <;> rfl)
      (foldl_undisturbed _ (fun s r => sendRecord_undisturbed _ s r) _ _)
  · exact .refl s

theorem closeExpiry_undisturbed (s : State) (q : Nat) : Undisturbed s (closeExpiry s q) := by
  constructor <;> simp [closeExpiry]

theorem strikeBoundary_undisturbed (s : State) (i : Nat) : Undisturbed s (strikeBoundary s i) := by
  unfold strikeBoundary; split
  · split <;> constructor <;> simp
  · exact .refl s

theorem putOut_undisturbed (s : State) : Undisturbed s (putOut s) := by
  unfold putOut; split
  · constructor <;> simp
  · exact .refl s

theorem unlockLamp_undisturbed (s : State) (i : Nat) : Undisturbed s (unlockLamp s i) := by
  unfold unlockLamp; split
  · split <;> constructor <;> simp
  · exact .refl s

theorem lampEvent_undisturbed (s : State) : Undisturbed s (lampEvent s) := by constructor <;> simp

theorem goodReply_undisturbed (s : State) (v : Visit) (r : BallastReply) : Undisturbed s (goodReply s v r) := by
  unfold goodReply
  simp only
  split <;> constructor <;> simp

theorem missedReply_undisturbed (s : State) (v : Visit) : Undisturbed s (missedReply s v) := by
  unfold missedReply
  simp only
  split
  · constructor <;> simp
  · split <;> constructor <;> simp
  · split <;> constructor <;> simp

theorem wendReached_undisturbed (s : State) : Undisturbed s (wendReached s) := by
  unfold wendReached; split
  · constructor <;> simp
  · exact undisturbed_ite (by constructor <;> simp)

theorem whomeReached_undisturbed (s : State) : Undisturbed s (whomeReached s) := by
  unfold whomeReached; split
  · constructor <;> simp
  · split
    · constructor <;> simp
    · constructor <;> simp
    · exact .refl s

theorem applyCommand_undisturbed {s : State} {c : Byte} {d : Bool} {f : State → State} (hf : Undisturbed s (f s)) :
    Undisturbed s (applyCommand s c d f) := by
  have ha : ∀ t o, Undisturbed t (answer t c o) := fun t o => by constructor <;> simp
  unfold applyCommand; split
  · exact hf.trans (ha _ _)
  · exact ha _ _

theorem lockoutOpened_undisturbed (s : State) (m : Nat) :
    Undisturbed s (if m = 0 ∨ 6 < m ∨ lockoutOpenAt s m then s
      else
        let u := restartScan (s.setSeq { s.seq with lockouts := s.seq.lockouts ||| BitVec.twoPow 6 (m - 1) })
        if linkRuns u then lampEvent (lockModule u m) else u) := by
  split
  · exact .refl s
  · simp only; split <;> constructor <;> simp [lockModule]

theorem lockoutClosed_undisturbed (s : State) (m : Nat) :
    Undisturbed s (let u := restartScan (s.setSeq
        { s.seq with lockouts := s.seq.lockouts &&& ~~~(BitVec.twoPow 6 (m - 1)) })
      if linkRuns u then lampEvent ([4 * m - 3, 4 * m - 2, 4 * m - 1, 4 * m].foldl unlockLamp u) else u) := by
  refine Undisturbed.trans (t := restartScan (s.setSeq
    { s.seq with lockouts := s.seq.lockouts &&& ~~~(BitVec.twoPow 6 (m - 1)) })) (by constructor <;> simp) ?_
  exact undisturbed_ite ((foldl_undisturbed _ unlockLamp_undisturbed _ _).trans (lampEvent_undisturbed _))

/-! ### Rosters that a frame or an age may leave -/

/-- `r` may follow the roster of `s`: empty where LOADING holds none, and in order where that was. -/
structure RosterFollows (s : State) (r : Roster) : Prop where
  empty : s.ctl.mode = .loading → s.ros.entries = [] → r.entries = []
  sound : rosterSound [ownKey s] s.ros.entries → rosterSound [ownKey s] r.entries

/-- After LOADING the order is all there is to it. -/
theorem rosterFollows_of_sound {s : State} {r : Roster} (hm : s.ctl.mode ≠ .loading)
    (h : rosterSound [ownKey s] s.ros.entries → rosterSound [ownKey s] r.entries) : RosterFollows s r :=
  ⟨fun hl => absurd hl hm, h⟩

theorem change_follows (s : State) (k : EntryKey) : RosterFollows s (s.ros.change k RosterEntry.goneLost) :=
  ⟨fun _ he => by simp [Roster.change, he], fun h => s.ros.change_sound k _ (fun _ => rfl) (fun _ => rfl) h⟩

theorem remove_follows (s : State) (k : EntryKey) : RosterFollows s (s.ros.remove k) :=
  ⟨fun _ he => by simp [Roster.remove, he], fun h => s.ros.remove_sound k h⟩

theorem learnPlain_ordered (s : State) (a : Src) (h : rosterSound [ownKey s] s.ros.entries) :
    rosterSound [ownKey s] (s.ros.learnPlain a).entries := s.ros.learnPlain_sound a _ s.serial rfl h

/-- A JOIN or a STATUS keeps the order, whatever identity it carries (R52). -/
theorem learnNamed_ordered (s : State) (a : Src) (x : Serial) (fields : RosterEntry → RosterEntry)
    (hf : ∀ e, (fields e).key = e.key) (hs : ∀ e, (fields e).isSelf = e.isSelf)
    (h : rosterSound [ownKey s] s.ros.entries) : rosterSound [ownKey s] (learnNamed s a x fields).entries := by
  unfold learnNamed
  split
  · rename_i hb
    simp only [Bool.and_eq_true] at hb
    split
    · exact h
    · rename_i hown
      refine s.ros.learnIdentity_sound a x fields _ hf hs hb.1 (fun hk => hown ?_) h
      simp only [ownKey, EntryKey.mk.injEq, Option.some.injEq] at hk
      simp [isOwnAddress, hk]
  · exact learnPlain_ordered s a h

theorem joinLearned_ordered (s : State) (a : Src) (b : JoinBody) (h : rosterSound [ownKey s] s.ros.entries) :
    rosterSound [ownKey s] (learnNamed s a b.serial (joinFields b)).entries :=
  learnNamed_ordered s a b.serial (joinFields b) (fun _ => rfl) (fun _ => rfl) h

theorem statusLearned_ordered (s : State) (a : Src) (b : StatusBody) (h : rosterSound [ownKey s] s.ros.entries) :
    rosterSound [ownKey s] (learnNamed s a b.serial (statusFields b)).entries :=
  learnNamed_ordered s a b.serial (statusFields b) (fun _ => rfl) (fun _ => rfl) h

/-! ### Predicates that the station's operations keep -/

/-- `P` holds of a part outside reset. -/
def Running (P : State → Prop) (s : State) : Prop := P s ∧ s.hold.held = false

/-- What a predicate must survive outside reset to be kept by every command that runs. -/
structure KeptByOperations (P : State → Prop) : Prop where
  same : ∀ {s t}, Running P s → Undisturbed s t → P t
  restart : ∀ {s}, Running P s → P (takeRestart s)
  settle : ∀ {s r}, Running P s → RosterFollows s r → P (settle (s.setRos r))
  followHold : ∀ {s}, Running P s → P (followHold s)
  listenOver : ∀ {s}, Running P s → s.ctl.mode = .listen → P (listenOver s)
  enterFailsafe : ∀ {s} c, Running P s → s.ctl.mode = .loading → P (enterFailsafe s c)
  enterListen : ∀ {s} c d, Running P s → s.ctl.mode = .loading → P (enterListen s c d)

namespace KeptByOperations

variable {P : State → Prop} (hP : KeptByOperations P) {s t : State}

include hP

theorem undisturbed (h : Running P s) (g : Undisturbed s t) : Running P t :=
  ⟨hP.same h g, by rw [g.hold]; exact h.2⟩

theorem settled {r : Roster} (h : Running P s) (g : RosterFollows s r) : Running P (Machine.settle (s.setRos r)) :=
  ⟨hP.settle h g, by simpa using h.2⟩

theorem heldFollowed (h : Running P s) : Running P (Machine.followHold s) := ⟨hP.followHold h, by simpa using h.2⟩

theorem flowFollowed (h : Running P s) : Running P (flowChanged s) :=
  hP.heldFollowed (hP.undisturbed h (by constructor <;> simp))

theorem learned {a : Src} (h : Running P s) (hm : s.ctl.mode ≠ .loading) : Running P (learnSource s a) :=
  hP.settled h (rosterFollows_of_sound hm (learnPlain_ordered s a))

/-! #### The frames around an event -/

omit hP in
theorem outsideReset {f : State → State} (h : P s) (hf : Running P s → P (f s)) : P (Machine.outsideReset s f) := by
  unfold Machine.outsideReset; split
  · exact h
  · rename_i hh; exact hf ⟨h, by simpa using hh⟩

theorem outsideReset_same {f : State → State} (h : P s) (hf : Undisturbed s (f s)) : P (Machine.outsideReset s f) :=
  outsideReset h fun h => hP.same h hf

theorem closeRestart (h : Running P s) : P (closeRestart s) := by
  unfold Machine.closeRestart; split
  · exact hP.restart h
  · exact h.1

theorem event {f : State → State} (h : P s) (hf : Running P s → Running P (f s)) : P (event s f) :=
  outsideReset h fun h => hP.closeRestart (hf h)

theorem event_same {f : State → State} (h : P s) (hf : Undisturbed s (f s)) : P (Machine.event s f) :=
  hP.event h fun h => hP.undisturbed h hf

theorem frameEvent {f : State → State} (h : P s)
    (hf : ∀ t, Running P t → t.ctl.mode ≠ .loading → Running P (f t)) : P (frameEvent s f) := by
  refine hP.event h fun h => ?_
  have hr : Running P (s.setBus s.bus.frameTaken) := hP.undisturbed h (by constructor <;> rfl)
  simp only
  split
  · exact hr
  · rename_i hm; exact hf _ hr hm

theorem commandEvent {a : Src} {b : CommandBody} {f : State → State} (h : P s) (hf : ∀ t, Undisturbed t (f t)) :
    P (commandEvent s a b f) := by
  refine hP.frameEvent h fun t h hm => ?_
  have hl := hP.learned (a := a) h hm
  simp only
  split
  · exact hP.undisturbed hl (Undisturbed.trans (t := setReply (learnSource t a) none) (by constructor <;> simp) (hf _))
  · exact hP.undisturbed hl (by constructor <;> simp)

omit hP in
theorem ite {p : Prop} [Decidable p] (h : Running P s) (g : p → Running P t) : Running P (if p then t else s) := by
  split
  · rename_i hp; exact g hp
  · exact h

/-! #### Every command but those of reset and supply -/

theorem busError (h : P s) : P (Machine.event s fun s => if s.ctl.mode = .loading then
    (let u := s.setLdr { s.ldr with attempts := s.ldr.attempts + 1 }
     if 3 ≤ u.ldr.attempts then Machine.enterFailsafe u .imageAbsent else u) else s) := by
  refine hP.event h fun h => ite h fun hl => ?_
  have hu : Running P (s.setLdr { s.ldr with attempts := s.ldr.attempts + 1 }) :=
    hP.undisturbed h (by constructor <;> rfl)
  exact ite hu fun _ => ⟨hP.enterFailsafe _ hu hl, by simpa using h.2⟩

theorem imageRead (image : List Byte) (h : P s) : P (Machine.event s fun s => if s.ctl.mode = .loading then
    match imageFailure image with
    | some cause => Machine.enterFailsafe s cause
    | none => Machine.enterListen s (parseImage image) (imageDigest image) else s) := by
  refine hP.event h fun h => ite h fun hl => ?_
  split
  · exact ⟨hP.enterFailsafe _ h hl, by simpa using h.2⟩
  · exact ⟨hP.enterListen _ _ h hl, by simpa using h.2⟩

theorem listenEnded (h : P s) :
    P (Machine.event s fun s => if s.ctl.mode = .listen then releaseHeld (Machine.listenOver s) else s) :=
  hP.event h fun h => ite h fun hl =>
    hP.undisturbed ⟨hP.listenOver h hl, by simpa using h.2⟩ (by constructor <;> simp)

theorem formatError (a : Src) (h : P s) : P (Machine.event s fun s =>
    let u := s.setBus { s.bus.frameTaken with formatErrors := bump16 s.bus.formatErrors }
    if u.ctl.mode = .loading then u else learnSource u a) := by
  refine hP.event h fun h => ?_
  have hu : Running P (s.setBus { s.bus.frameTaken with formatErrors := bump16 s.bus.formatErrors }) :=
    hP.undisturbed h (by constructor <;> rfl)
  simp only
  split
  · exact hu
  · rename_i hm; exact hP.learned hu hm

theorem left {a : Src} (reason : Byte) (h : Running P s) (hm : s.ctl.mode ≠ .loading) :
    Running P (if isOwnAddress s a then Machine.settle (s.setRos (s.ros.leaveFromTwin a reason))
      else
        let u := Machine.settle (s.setRos (s.ros.leaveFrom a))
        if heardAt s a then freeWait u a.chan.toNat a.pos.toNat else u) := by
  have hu := hP.settled h (rosterFollows_of_sound hm (s.ros.leaveFrom_sound a))
  split
  · exact hP.settled h (rosterFollows_of_sound hm (s.ros.leaveFromTwin_sound a reason))
  · exact ite hu fun _ => hP.undisturbed hu (freeWait_undisturbed _ _ _)

/-- A RESTART: taken in LISTEN, where nothing is left that could take it again; pending elsewhere (R199). -/
theorem restarted {a : Src} {b : CommandBody} (h : P s) : P (Machine.commandEvent s a b fun s =>
    if s.ctl.mode = .listen then takeRestart s else postRestart s) := by
  have htake : ∀ t, Machine.closeRestart (takeRestart t) = takeRestart t := fun t => closeRestart_of_none rfl
  unfold Machine.commandEvent Machine.frameEvent Machine.event
  refine outsideReset h fun h => ?_
  have hr : Running P (s.setBus s.bus.frameTaken) := hP.undisturbed h (by constructor <;> rfl)
  simp only
  split
  · exact hP.closeRestart hr
  · rename_i hm
    have hl := hP.learned (a := a) hr hm
    have hu : Running P (setReply (learnSource (s.setBus s.bus.frameTaken) a) none) :=
      hP.undisturbed hl (by constructor <;> simp)
    split
    · split
      · rw [htake]; exact hP.restart hu
      · exact hP.closeRestart (hP.undisturbed hu (by constructor <;> simp))
    · exact hP.closeRestart (hP.undisturbed hl (by constructor <;> simp))

theorem handFlow {o : Option Offer} (h : Running P s) : Running P (handFlow s o) := by
  unfold Machine.handFlow; split
  · exact hP.flowFollowed (hP.undisturbed h (by constructor <;> simp))
  · exact h

theorem completeScan (raw : List (BitVec 10)) (d : Bool) (h : Running P s) : Running P (completeScan s raw d) := by
  unfold Machine.completeScan
  simp only
  generalize hu : stepFouling (stepPublish (stepLearn (stepSamples s raw))) s.scn.inputs raw = u
  have hsame : Undisturbed s u := by rw [← hu]; constructor <;> simp
  exact hP.undisturbed (hP.handFlow (o := flowOffer u d) (hP.undisturbed h hsame)) (by constructor <;> simp)

end KeptByOperations

/-- The four commands of reset and supply (R194, R195). -/
def JudgesReset (c : Instr) : Prop :=
  (∃ mv, ReadsSupply c mv) ∨ (∃ us, c = .resetnLow us) ∨ ∃ p, c = .resetRelease p

/-- Every other command keeps what the station's operations keep: by the operations of its meaning. -/
theorem KeptByOperations.exec {P : State → Prop} (hP : KeptByOperations P) {c : Instr} {s : State}
    (hc : ¬ JudgesReset c) (h : P s) : ∃ t, exec c s = .next t ∧ P t := by
  cases c with
  | supplyBelowReset mv => exact absurd (.inl ⟨mv, .inl rfl⟩) hc
  | supplyLowChange mv => exact absurd (.inl ⟨mv, .inr rfl⟩) hc
  | resetnLow us => exact absurd (.inr (.inl ⟨us, rfl⟩)) hc
  | resetRelease p => exact absurd (.inr (.inr ⟨p, rfl⟩)) hc
  | cfgBusError => exact ⟨_, rfl, hP.busError h⟩
  | imageReadComplete image => exact ⟨_, rfl, hP.imageRead image h⟩
  | listenEnd => exact ⟨_, rfl, hP.listenEnded h⟩
  | accrualTimerExpiry =>
    refine ⟨_, rfl, hP.event_same h (undisturbed_ite ?_)⟩
    exact Undisturbed.trans (t := s.setTrk { s.trk with accrual := some 0 }) (by constructor <;> rfl)
      ((accrue_undisturbed _).trans (closeExpiry_undisturbed _ _))
  | statusTimerExpiry | wipeIntervalExpiry | claimWindowExpiry | waitRecordExpiry | releaseTimerExpiry =>
    exact ⟨_, rfl, hP.event_same h (undisturbed_ite (by constructor <;> simp))⟩
  | flowTimerExpiry | uvtTimerExpiry =>
    refine ⟨_, rfl, hP.event_same h (undisturbed_ite ?_)⟩
    simp only; split <;> constructor <;> simp
  | flowSourceLapse =>
    exact ⟨_, rfl, hP.event h fun h => ite h fun _ => hP.flowFollowed (hP.undisturbed h (by constructor <;> rfl))⟩
  | holdTimerExpiry =>
    exact ⟨_, rfl, hP.event h fun h => ite h fun _ => hP.heldFollowed (hP.undisturbed h (by constructor <;> rfl))⟩
  | flowSourceDupClear | uvtSourceDupClear | pendingBreakExpiry | quietGapEnd | dayTimerExpiry | runMinute _ =>
    exact ⟨_, rfl, hP.outsideReset_same h (by constructor <;> rfl)⟩
  | uvtSourceLapse | pollCycleDue | warmupEnd _ | coolingEnd _ | strikeSpacingExpiry | scanStart | servedFlagClear
  | transmitStart _ | rxFrameBroken _ | rxFrameRejected _ | idleMarkZeroCharacter _ =>
    exact ⟨_, rfl, hP.outsideReset_same h (undisturbed_ite (by constructor <;> simp))⟩
  | rosterEntryLost key =>
    exact ⟨_, rfl, hP.event h fun h => ite h fun _ =>
      hP.undisturbed (hP.settled h (change_follows s key)) (freeWait_undisturbed _ _ _)⟩
  | rosterEntryRemove key =>
    exact ⟨_, rfl, hP.event h fun h => ite h fun _ => hP.settled h (remove_follows s key)⟩
  | formatErrorFrame src => exact ⟨_, rfl, hP.formatError src h⟩
  | joinReceived src b =>
    exact ⟨_, rfl, hP.frameEvent h fun t h hm =>
      hP.undisturbed (hP.settled h (rosterFollows_of_sound hm (joinLearned_ordered t src b))) (noteBreak_undisturbed _ _ _ _)⟩
  | statusReceived src b =>
    exact ⟨_, rfl, hP.frameEvent h fun t h hm =>
      hP.undisturbed (hP.settled h (rosterFollows_of_sound hm (statusLearned_ordered t src b))) (statusWatermark_undisturbed _ _ _)⟩
  | flowReceived src b =>
    exact ⟨_, rfl, hP.frameEvent h fun t h hm =>
      have hl := hP.learned h hm
      ite hl fun _ => hP.flowFollowed (hP.undisturbed hl (by constructor <;> simp))⟩
  | uvtReceived _ _ | parcelReceived _ _ | wipeClaimReceived _ =>
    exact ⟨_, rfl, hP.frameEvent h fun t h hm =>
      hP.undisturbed (hP.learned h hm) (undisturbed_ite (by constructor <;> simp))⟩
  | dischargeReceived _ _ | reportReceived _ => exact ⟨_, rfl, hP.frameEvent h fun t h hm => hP.learned h hm⟩
  | leaveReceived src reason => exact ⟨_, rfl, hP.frameEvent h fun t h hm => hP.left reason h hm⟩
  | wipeActiveReceived src | wipeDoneReceived src _ =>
    exact ⟨_, rfl, hP.frameEvent h fun t h hm =>
      hP.undisturbed (hP.settled h (rosterFollows_of_sound hm fun ho =>
        Roster.setWiping_sound _ _ _ (learnPlain_ordered t src ho))) (undisturbed_ite (by constructor <;> simp))⟩
  | clearLamp _ _ | clearBallast _ _ | clearSensor _ _ | clearWiper _ _ | wipeNow _ _ =>
    exact ⟨_, rfl, hP.commandEvent h fun t => applyCommand_undisturbed (by constructor <;> simp)⟩
  | restart src b => exact ⟨_, rfl, hP.restarted h⟩
  | query src b =>
    refine ⟨_, rfl, hP.commandEvent h fun t => ?_⟩
    split <;> constructor <;> simp
  | commandOtherCode src code b => exact ⟨_, rfl, hP.commandEvent h fun t => by constructor <;> simp⟩
  | restartTimeout =>
    refine ⟨_, rfl, outsideReset h fun h => ?_⟩
    split
    · exact hP.restart h
    · exact h.1
  | transmitComplete _ | collision _ =>
    refine ⟨_, rfl, hP.event_same h ?_⟩
    split
    · exact undisturbed_ite (by constructor <;> simp)
    · exact .refl s
  | ballastGoodReply reply =>
    refine ⟨_, rfl, hP.outsideReset_same h ?_⟩
    split
    · exact goodReply_undisturbed _ _ _
    · exact .refl s
  | ballastMiss reply =>
    refine ⟨_, rfl, hP.outsideReset_same h ?_⟩
    split
    · exact missedReply_undisturbed _ _
    · exact .refl s
  | strikeAttemptExpiry lamp =>
    exact ⟨_, rfl, hP.outsideReset_same h
      (undisturbed_ite ((strikeBoundary_undisturbed _ _).trans (lampEvent_undisturbed _)))⟩
  | extinguishHoldoffExpiry =>
    exact ⟨_, rfl, hP.outsideReset_same h
      (undisturbed_ite ((putOut_undisturbed _).trans (lampEvent_undisturbed _)))⟩
  | lockoutOpen m ms =>
    exact ⟨_, rfl, onceStood_keeps h (hP.outsideReset_same h (lockoutOpened_undisturbed s m))⟩
  | lockoutClose m ms =>
    exact ⟨_, rfl, onceStood_keeps h
      (hP.outsideReset_same h (undisturbed_ite (lockoutClosed_undisturbed s m)))⟩
  | scanComplete raw fdir => exact ⟨_, rfl, hP.event h fun h => ite h fun _ => hP.completeScan raw fdir h⟩
  | wendActive active ms =>
    refine ⟨_, rfl, onceStood_keeps h (hP.event_same h ?_)⟩
    split
    · exact .refl s
    · exact Undisturbed.trans (t := s.setWip { s.wip with wend := active }) (by constructor <;> rfl)
        (undisturbed_ite (wendReached_undisturbed _))
  | whomeActive ms =>
    refine ⟨_, rfl, onceStood_keeps h (hP.event_same h ?_)⟩
    split
    · exact .refl s
    · exact Undisturbed.trans (t := s.setWip { s.wip with whome := true }) (by constructor <;> rfl)
        (whomeReached_undisturbed _)
  | whomeInactive ms =>
    exact ⟨_, rfl, onceStood_keeps h (hP.outsideReset_same h (by constructor <;> rfl))⟩
  | strokeTimerExpiry =>
    refine ⟨_, rfl, hP.event_same h (undisturbed_ite ?_)⟩
    split <;> constructor <;> simp

end Sys2Proof.Machine
end

section
/-! Every step leaves the station settled, its reset noted and its roster in order (O58, O59). -/

namespace Sys2Proof.Machine

/-! ### A step is a command or a millisecond -/

/-- What every command and every millisecond keeps, and what the waiting commands do not show in, every step keeps. -/
theorem step_keeps {P : State → Prop} (hq : ∀ s q, P s → P (s.setPending q)) (ht : ∀ s, P s → P (tick s))
    (he : ∀ c s, P s → ∃ t, exec c s = .next t ∧ P t) (s t : State) (h : P s) (hs : step s = .next t) : P t := by
  unfold step at hs
  cases hp : s.pending with
  | nil =>
    rw [hp] at hs
    obtain rfl := Host.Outcome.next.inj hs
    exact ht s h
  | cons c rest =>
    rw [hp] at hs
    obtain ⟨u, hu, hi⟩ := he c _ (hq s rest h)
    obtain rfl := Host.Outcome.next.inj (hu.symm.trans hs)
    exact hi

/-- Commands of reset and supply, and the others. -/
theorem KeptByOperations.exec_all {P : State → Prop} (hP : KeptByOperations P)
    (hsupply : ∀ s mv, P s → P (takeSupply s mv)) (hlow : ∀ s us, P s → ∃ t, execResetnLow s us = .next t ∧ P t)
    (hrelease : ∀ s p, P s → ∃ t, execResetRelease p s = .next t ∧ P t) (c : Instr) (s : State) (h : P s) :
    ∃ t, Machine.exec c s = .next t ∧ P t := by
  by_cases hc : JudgesReset c
  · rcases hc with ⟨mv, rfl | rfl⟩ | ⟨us, rfl⟩ | ⟨p, rfl⟩
    · exact ⟨_, rfl, hsupply s mv h⟩
    · exact ⟨_, rfl, hsupply s mv h⟩
    · exact hlow s us h
    · exact hrelease s p h
  · exact hP.exec hc h

/-! ### The commands of reset and supply -/

/-- Of the station a voltage read disturbs nothing, unless it takes the part into reset. -/
theorem takeSupply_station_or_reset (s : State) (mv : Nat) :
    SameStation s (takeSupply s mv) ∨ ∃ u k, SameStation s u ∧ takeSupply s mv = takeReset u k := by
  cases hh : s.hold.held with
  | true => rw [takeSupply_of_held mv hh]; exact .inl (by constructor <;> rfl)
  | false =>
    cases hm : (supplyAt s.ldr.supply mv).belowReset with
    | false => rw [takeSupply_of_good hh hm]; exact .inl (by constructor <;> rfl)
    | true => exact .inr ⟨_, _, by constructor <;> rfl, takeSupply_of_low hh hm⟩

/-- What shows in the station alone and survives a reset is kept by a voltage read. -/
theorem takeSupply_keeps {P : State → Prop} (hs : ∀ {s t}, P s → SameStation s t → P t)
    (hr : ∀ s k, P s → P (takeReset s k)) (s : State) (mv : Nat) (h : P s) : P (takeSupply s mv) := by
  rcases takeSupply_station_or_reset s mv with g | ⟨u, k, g, e⟩
  · exact hs h g
  · rw [e]; exact hr u k (hs h g)

theorem execResetnLow_keeps {P : State → Prop} (hs : ∀ {s t}, P s → SameStation s t → P t)
    (hr : ∀ s k, P s → P (takeReset s k)) (s : State) (us : Nat) (h : P s) :
    ∃ t, execResetnLow s us = .next t ∧ P t := by
  refine ⟨_, rfl, onceStood_keeps h ?_⟩
  split
  · exact hs h (by constructor <;> rfl)
  · exact hr s _ h

/-- A release that releases nothing moves no more than the levels. -/
theorem takeLevels_station {s : State} (p : ResetPins) (h : s.hold.held = true) :
    SameStation s (takeLevels s p) := by
  unfold takeLevels; rw [takeSupply_of_held _ h]; constructor <;> rfl

theorem execResetRelease_keeps {P : State → Prop} (hs : ∀ {s t}, P s → SameStation s t → P t)
    (hr : ∀ s p, P s → s.hold.held = true → P (releaseReset s p)) (s : State) (p : ResetPins) (h : P s) :
    ∃ t, execResetRelease p s = .next t ∧ P t := by
  refine ⟨_, rfl, ?_⟩
  split
  · rename_i hh
    have hl := takeLevels_station p hh
    simp only
    split
    · exact hs h hl
    · exact hr _ p (hs h hl) (by rw [hl.held, hh])
  · exact h

/-- The release leaves the bank in LOADING. -/
theorem releaseReset_mode (s : State) (p : ResetPins) : (releaseReset s p).ctl.mode = s.ctl.mode := by
  simp [releaseReset]

/-! ### The station stands settled -/

theorem stationInv_kept : KeptByOperations StationInv where
  same h g := g.station.station h.1
  restart _ := takeReset_station _ _
  settle h _ := settle_station _ fun hh => absurd hh (by simp [h.2])
  followHold h := followHold_station _ h.1
  listenOver h hm := listenOver_station _ h.1 hm h.2
  enterFailsafe c h _ := enterFailsafe_station _ c h.2
  enterListen c d h _ := enterListen_station _ c d h.2

theorem exec_station (c : Instr) (s : State) (h : StationInv s) : ∃ t, exec c s = .next t ∧ StationInv t :=
  stationInv_kept.exec_all
    (takeSupply_keeps (fun h g => g.station h) fun s k _ => takeReset_station s k)
    (execResetnLow_keeps (fun h g => g.station h) fun s k _ => takeReset_station s k)
    (execResetRelease_keeps (fun h g => g.station h) fun s p h hh =>
      loading_station ((releaseReset_mode s p).trans (h.1 hh)))
    c s h

/-! ### A cause of reset that stands holds the part -/

theorem resetInv_kept : KeptByOperations ResetInv where
  same h g := g.reset.inv h.1
  restart h := takeRestart_resetInv h.1 h.2
  settle h _ := SameReset.inv ⟨by simp, by simp⟩ h.1
  followHold h := SameReset.inv ⟨by simp, by simp⟩ h.1
  listenOver h _ := SameReset.inv ⟨by simp, by simp⟩ h.1
  enterFailsafe _ h _ := SameReset.inv ⟨by simp, by simp⟩ h.1
  enterListen _ _ h _ := SameReset.inv ⟨by simp, by simp⟩ h.1

theorem exec_resetInv (c : Instr) (s : State) (h : ResetInv s) : ∃ t, exec c s = .next t ∧ ResetInv t :=
  resetInv_kept.exec_all (fun _ mv h => takeSupply_resetInv mv h)
    (fun _ _ h => ⟨_, rfl, execResetnLow_resetInv h rfl⟩) (fun _ _ h => ⟨_, rfl, execResetRelease_resetInv h rfl⟩)
    c s h

theorem tick_reset (s : State) : SameReset s (tick s) := by
  unfold tick; split
  · exact ⟨rfl, rfl⟩
  · exact ⟨rfl, rfl⟩

/-- Settles O58: every command and every millisecond keeps each of the two invariants. -/
theorem stepsKeepTheStationAndItsReset : Obligations.StepsKeepTheStationAndItsReset := by
  unfold Obligations.StepsKeepTheStationAndItsReset
  exact ⟨step_keeps (fun _ _ h => SameStation.station (by constructor <;> rfl) h) tick_station exec_station,
    step_keeps (fun _ _ h => SameReset.inv ⟨rfl, rfl⟩ h) (fun s h => (tick_reset s).inv h) exec_resetInv⟩

/-! ### The roster stands in order -/

/-- A settlement of a roster that may follow keeps the order. -/
theorem settleRos_roster {s : State} {r : Roster} (h : RosterInv s) (g : RosterFollows s r) :
    RosterInv (settle (s.setRos r)) :=
  settle_roster _ (h.next rfl Iff.rfl rfl rfl (fun hl => g.empty hl (h.2.2.1 hl)) fun _ ho => g.sound ho)

theorem rosterInv_kept : KeptByOperations RosterInv where
  same h g := g.station.roster h.1
  restart h := takeReset_roster _ _ h.1
  settle h g := settleRos_roster h.1 g
  followHold h := followHold_roster _ h.1
  listenOver h hm := listenOver_roster _ h.1 (by rw [hm]; simp)
  enterFailsafe c h hl := enterFailsafe_roster _ c h.1 hl h.2
  enterListen c d h hl := enterListen_roster _ c d h.1 hl h.2

/-- The straps latched at the release stand in their range: two bits of channel, three of position (R191). -/
theorem latchStraps_range (p : ResetPins) :
    (latchStraps p).channel ≤ 3 ∧ 1 ≤ (latchStraps p).position ∧ (latchStraps p).position ≤ 8 := by
  have hc := p.ch.isLt
  have hp := p.pos.isLt
  simp only [latchStraps]
  omega

theorem releaseReset_roster (s : State) (p : ResetPins) (h : RosterInv s) (hh : s.hold.held = true) :
    RosterInv (releaseReset s p) := by
  obtain ⟨_, hm, he, _⟩ := h
  have hl : (releaseReset s p).ctl.mode = .loading := (releaseReset_mode s p).trans (hm hh)
  have hr : (releaseReset s p).ros = s.ros := by simp [releaseReset]
  have hs : (releaseReset s p).ldr.straps = latchStraps p := by simp [releaseReset]
  refine ⟨by rw [hs]; exact latchStraps_range p, fun _ => hl, fun _ => ?_, fun x => absurd hl x⟩
  rw [hr]; exact he (hm hh)

theorem exec_roster (c : Instr) (s : State) (h : RosterInv s) : ∃ t, exec c s = .next t ∧ RosterInv t :=
  rosterInv_kept.exec_all (takeSupply_keeps (fun h g => g.roster h) takeReset_roster)
    (execResetnLow_keeps (fun h g => g.roster h) takeReset_roster)
    (execResetRelease_keeps (fun h g => g.roster h) releaseReset_roster) c s h

/-- Settles O59: every command and every millisecond keeps the roster in order. -/
theorem stepsKeepTheRoster : Obligations.StepsKeepTheRoster := by
  unfold Obligations.StepsKeepTheRoster
  exact step_keeps (fun _ _ h => SameStation.roster (by constructor <;> rfl) h) tick_roster exec_roster

end Sys2Proof.Machine
end

section
/-! A reset returns every block, whichever command has taken the part into it (O6). -/

namespace Sys2Proof.Machine

/-! ### What a reset is taken from -/

/-- `u` shows a reset what `s` shows it: the waiting commands, the serial, the cause, the straps and the supply. -/
structure SameForReset (s u : State) : Prop where
  pending : u.pending = s.pending
  serial : u.serial = s.serial
  cause : u.ctl.resetCause = s.ctl.resetCause
  straps : u.ldr.straps = s.ldr.straps
  supply : u.ldr.supply = s.ldr.supply

/-- `t` is held as `s` is, or is `s` gone into the reset of a RESTART, whatever else has happened before (R199). -/
def RunsOrRestarts (s t : State) : Prop :=
  (t.hold = s.hold ∧ SameForReset s t) ∨ ∃ u, SameForReset s u ∧ t = takeRestart u

theorem RunsOrRestarts.running {s t : State} (h : Running (RunsOrRestarts s) t) :
    t.hold = s.hold ∧ SameForReset s t := by
  obtain ⟨h | ⟨u, _, rfl⟩, hh⟩ := h
  · exact h
  · exact absurd hh (by simp [takeRestart])

theorem RunsOrRestarts.next {s t v : State} (h : Running (RunsOrRestarts s) t) (hh : v.hold = t.hold)
    (g : SameForReset t v) : RunsOrRestarts s v := by
  obtain ⟨e, k⟩ := RunsOrRestarts.running h
  exact .inl ⟨hh.trans e, ⟨g.pending.trans k.pending, g.serial.trans k.serial, g.cause.trans k.cause,
    g.straps.trans k.straps, g.supply.trans k.supply⟩⟩

/-! ### The station's operations keep the cause noted last -/

@[simp] theorem enterIsolated_cause (s : State) : (enterIsolated s).ctl.resetCause = s.ctl.resetCause := by
  simp [enterIsolated, judgeRoster, setMode]

@[simp] theorem enterDosing_cause (s : State) (w : HeadWay) :
    (enterDosing s w).ctl.resetCause = s.ctl.resetCause := by
  simp [enterDosing, judgeRoster, setMode]

@[simp] theorem settle_cause (s : State) : (settle s).ctl.resetCause = s.ctl.resetCause := by
  have hj : (judgeRoster s).ctl.resetCause = s.ctl.resetCause := rfl
  unfold settle
  simp only
  split <;> (try split) <;> simp [hj]

@[simp] theorem followHold_cause (s : State) : (followHold s).ctl.resetCause = s.ctl.resetCause := by
  unfold followHold; split <;> (try split) <;> simp [setMode]

@[simp] theorem listenOver_cause (s : State) : (listenOver s).ctl.resetCause = s.ctl.resetCause := by
  unfold listenOver; simp only; split <;> simp

@[simp] theorem enterFailsafe_cause (s : State) (c : LoadFailure) :
    (enterFailsafe s c).ctl.resetCause = s.ctl.resetCause := by
  simp [enterFailsafe]

@[simp] theorem enterListen_cause (s : State) (c : ImageCfg) (d : Digest) :
    (enterListen s c d).ctl.resetCause = s.ctl.resetCause := by
  simp [enterListen]

theorem runsOrRestarts_kept (s : State) : KeptByOperations (RunsOrRestarts s) where
  same h g := .next h g.hold ⟨g.pending, g.serial, g.cause, g.straps, g.supply⟩
  restart h := .inr ⟨_, (RunsOrRestarts.running h).2, rfl⟩
  settle h _ := .next h (by simp) (by constructor <;> simp)
  followHold h := .next h (by simp) (by constructor <;> simp)
  listenOver h _ := .next h (by simp) (by constructor <;> simp)
  enterFailsafe _ h _ := .next h (by simp) (by constructor <;> simp [enterFailsafe])
  enterListen _ _ h _ := .next h (by simp) (by constructor <;> simp [enterListen])

/-! ### The reset of each command -/

/-- What the supply monitor holds after a command at a part that runs. -/
def supplyAfter (c : Instr) (m : SupplyMonitor) : SupplyMonitor :=
  match c with
  | .supplyBelowReset mv | .supplyLowChange mv => supplyAt m mv
  | _ => m

/-- What is noted of the reset that a command takes a part that runs into (R194). -/
def resetNoted (c : Instr) (s : State) : ResetHold :=
  match c with
  | .supplyBelowReset mv | .supplyLowChange mv =>
    { held := true, resetnLow := false, restarting := false, belowReset := true
      belowRetention := (supplyAt s.ldr.supply mv).belowRetention, resetn := false, restart := false }
  | .resetnLow _ =>
    { held := true, resetnLow := true, restarting := false, belowReset := false, belowRetention := false
      resetn := true, restart := false }
  | _ =>
    { held := true, resetnLow := false, restarting := true, belowReset := false, belowRetention := false
      resetn := false, restart := true }

/-- A command that is none of the four can have restarted the part, and nothing else. -/
theorem resetNoted_of_others {c : Instr} (s : State) (h : ¬ JudgesReset c) :
    resetNoted c s = (takeRestart s).hold ∧ ∀ m, supplyAfter c m = m := by
  cases c with
  | supplyBelowReset mv => exact absurd (.inl ⟨mv, .inl rfl⟩) h
  | supplyLowChange mv => exact absurd (.inl ⟨mv, .inr rfl⟩) h
  | resetnLow us => exact absurd (.inr (.inl ⟨us, rfl⟩)) h
  | _ => exact ⟨rfl, fun _ => rfl⟩

/-- `t` is `s` gone into reset by the command `c`. -/
structure GoneIntoReset (c : Instr) (s t : State) : Prop where
  noted : t.hold = resetNoted c s
  pending : t.pending = s.pending
  serial : t.serial = s.serial
  ctl : t.ctl = { State.reset.ctl with resetCause := s.ctl.resetCause }
  ldr : t.ldr = { State.reset.ldr with straps := s.ldr.straps, supply := supplyAfter c s.ldr.supply }
  taken : ∃ u k, t = takeReset u k

theorem takeReset_goneInto {c : Instr} {s u : State} {k : ResetHold} (hk : { k with held := true } = resetNoted c s)
    (hp : u.pending = s.pending) (hs : u.serial = s.serial) (hc : u.ctl.resetCause = s.ctl.resetCause)
    (ht : u.ldr.straps = s.ldr.straps) (hm : u.ldr.supply = supplyAfter c s.ldr.supply) :
    GoneIntoReset c s (takeReset u k) :=
  { noted := hk, pending := hp, serial := hs, taken := ⟨u, k, rfl⟩
    ctl := by simp [takeReset, hc]
    ldr := by simp [takeReset, ht, hm] }

/-- A voltage below the reset level. -/
theorem takeSupply_goneInto {c : Instr} {s : State} {mv : Nat} (hc : ReadsSupply c mv) (h : s.hold.held = false)
    (hl : (supplyAt s.ldr.supply mv).belowReset = true) : GoneIntoReset c s (takeSupply s mv) := by
  rw [takeSupply_of_low h hl]
  rcases hc with rfl | rfl <;>
    exact takeReset_goneInto (by simp [ResetHold.noteSupply, noHold, resetNoted, hl]) rfl rfl rfl rfl rfl

/-- Of a part that ran and is held, the command has taken it into reset. -/
theorem exec_goneInto {c : Instr} {s t : State} (h : s.hold.held = false) (ht : exec c s = .next t)
    (hheld : t.hold.held = true) : GoneIntoReset c s t := by
  by_cases hj : JudgesReset c
  · rcases hj with ⟨mv, hc⟩ | ⟨us, rfl⟩ | ⟨p, rfl⟩
    · have he : exec c s = .next (takeSupply s mv) := by rcases hc with rfl | rfl <;> rfl
      obtain rfl := Host.Outcome.next.inj (he.symm.trans ht)
      cases hl : (supplyAt s.ldr.supply mv).belowReset with
      | true => exact takeSupply_goneInto hc h hl
      | false => rw [takeSupply_of_good h hl] at hheld; exact absurd (h.symm.trans hheld) (by simp)
    · obtain rfl := Host.Outcome.next.inj ht
      by_cases hus : us < 10
      · rw [onceStood_of_lt _ _ hus] at hheld; exact absurd (h.symm.trans hheld) (by simp)
      · rw [onceStood_of_le _ _ (Nat.le_of_not_lt hus), if_neg (by simp [h])]
        exact takeReset_goneInto (by simp [resetNoted, noHold]) rfl rfl rfl rfl rfl
    · obtain rfl := Host.Outcome.next.inj ht
      rw [if_neg (by simp [h])] at hheld; exact absurd (h.symm.trans hheld) (by simp)
  · obtain ⟨v, hv, hr⟩ := (runsOrRestarts_kept s).exec hj (.inl ⟨rfl, by constructor <;> rfl⟩)
    obtain rfl := Host.Outcome.next.inj (hv.symm.trans ht)
    obtain ⟨hn, hm⟩ := resetNoted_of_others s hj
    rcases hr with ⟨e, _⟩ | ⟨u, k, rfl⟩
    · rw [e, h] at hheld; exact absurd hheld (by simp)
    · exact takeReset_goneInto hn.symm k.pending k.serial k.cause k.straps (by rw [hm]; exact k.supply)

/-! ### The lamps of the commands named -/

/-- An event after which the part is held, and whose own effect holds it not, has restarted it. -/
theorem event_eq_takeRestart {s : State} {f : State → State} (h : s.hold.held = false) (hf : (f s).hold = s.hold)
    (hheld : (event s f).hold.held = true) : event s f = takeRestart (f s) := by
  have he : event s f = closeRestart (f s) := by rw [event, outsideReset_of_run _ h]
  rw [he] at hheld ⊢
  unfold closeRestart at hheld ⊢
  split at hheld
  · rename_i hd; rw [if_pos hd]
  · rw [hf, h] at hheld; exact absurd hheld (by simp)

/-- The lamps of a restart at the end of an event that leaves the sequencer alone. -/
theorem restarted_lamps {s : State} {f : State → State} (h : s.hold.held = false) (hf : (f s).hold = s.hold)
    (hq : (f s).seq = s.seq) (hheld : (event s f).hold.held = true) :
    (event s f).seq.lamps = s.seq.lamps.map Lamp.afterReset := by
  rw [event_eq_takeRestart h hf hheld, ← hq]; rfl

theorem readied_listen {s : State} (a : Src) (hm : s.ctl.mode = .listen) :
    (readied s a).ctl.mode = .listen ∧ (readied s a).seq = s.seq := by
  simp [readied, learned, learnSource, settle, judgeRoster, hm]

/-- Each command named takes the part into reset with its lamps as they stand (R94). -/
theorem beginsReset_lamps {c : Instr} {s t : State} (h : s.hold.held = false) (hb : BeginsReset c s)
    (ht : exec c s = .next t) (hheld : t.hold.held = true) : t.seq.lamps = s.seq.lamps.map Lamp.afterReset := by
  rcases hb with ⟨mv, hc, hlow⟩ | ⟨us, rfl, hus⟩ | ⟨rfl, hr⟩ | ⟨a, b, rfl, hf, ha, hm⟩ | ⟨x, hx, _, hc⟩
  · have he : exec c s = .next (takeSupply s mv) := by rcases hc with rfl | rfl <;> rfl
    obtain rfl := Host.Outcome.next.inj (he.symm.trans ht)
    rw [takeSupply_of_low h hlow]; rfl
  · obtain rfl := Host.Outcome.next.inj ht
    rw [onceStood_of_le _ _ hus, if_neg (by simp [h])]; rfl
  · obtain rfl := Host.Outcome.next.inj ht
    rw [outsideReset_of_run _ h, if_pos hr]; rfl
  · obtain rfl := Host.Outcome.next.inj ht
    obtain ⟨hl, hq⟩ := readied_listen a hm
    rw [commandEvent_of_aimed _ hf ha, if_pos hl, ← hq]
    · rfl
    · rw [if_pos hl]; simp [takeRestart, State.restarting, State.reset, hf.1.2]
  · rcases hc with rfl | ⟨⟨read, rfl, _⟩, _, _⟩ <;> obtain rfl := Host.Outcome.next.inj ht <;>
      refine restarted_lamps h ?_ ?_ hheld <;> simp only [hx] <;> split <;> simp

/-! ### The statement -/

theorem afterReset_idem (l : Lamp) : l.afterReset.afterReset = l.afterReset := rfl

theorem mem_takeReset_lamps {u : State} {k : ResetHold} {l : Lamp} (h : l ∈ (takeReset u k).seq.lamps) :
    l = l.afterReset := by
  obtain ⟨g, _, rfl⟩ := List.mem_map.mp h
  exact (afterReset_idem g).symm

/-- Settles O6: a part held after a command that found it running has gone through `takeReset`, from a state that shows
it what the part showed. -/
theorem resetReturnsEveryBlock : Obligations.ResetReturnsEveryBlock := by
  unfold Obligations.ResetReturnsEveryBlock
  refine ⟨fun c s t h ht hheld => ?_, fun c s h hb => ?_⟩
  · obtain ⟨hn, hp, hs, hc, hl, u, k, rfl⟩ := exec_goneInto h ht hheld
    refine ⟨⟨hp, hs, hc, hl, rfl, rfl, rfl, rfl, rfl, rfl, rfl, rfl, rfl⟩, hn, fun l hm => mem_takeReset_lamps hm⟩
  · obtain ⟨t, ht, hheld⟩ := exec_of_beginsReset h hb
    have hlamps := beginsReset_lamps h hb ht hheld
    obtain ⟨hn, hp, hs, hc, hl, u, k, rfl⟩ := exec_goneInto h ht hheld
    exact ⟨_, ht, hn, ⟨hp, hs, hc, hl, rfl, rfl, rfl, rfl, rfl, rfl, rfl, rfl, rfl⟩, hlamps⟩

end Sys2Proof.Machine
end

section
/-! The settlement, case by case, and what its judgements say (O26). -/

namespace Sys2Proof.Machine

/-! ### The settlement, case by case -/

theorem settle_of_reason {s : State} (hd : s.ctl.mode.doses = true) (hr : reasonStands (judgeRoster s) = true) :
    settle s = enterIsolated (judgeRoster s) := by
  unfold settle
  simp only [judgeRoster_mode]
  rcases (doses_iff _).mp hd with hm | hm <;> simp only [hm, hr, if_true]

theorem settle_of_isolated {s : State} (hm : s.ctl.mode = .isolated) (hr : reasonStands (judgeRoster s) = true) :
    settle s = judgeRoster s := by
  unfold settle
  simp only [judgeRoster_mode, hm, hr, if_true]

theorem settle_of_return {s : State} (hm : s.ctl.mode = .isolated) (hr : reasonStands (judgeRoster s) = false) :
    settle s = enterDosing (judgeRoster s) .onReturn := by
  unfold settle
  simp only [judgeRoster_mode, hm, hr, Bool.false_eq_true, if_false]

theorem settle_of_quiet {s : State} (hd : s.ctl.mode.doses = false) (hm : s.ctl.mode ≠ .isolated) :
    settle s = judgeRoster s := by
  unfold settle
  simp only [judgeRoster_mode]
  cases h : s.ctl.mode <;> simp [h, BankMode.doses] at hd hm <;> rfl

/-- What holds of each of the five outcomes holds of the settlement. -/
theorem settle_cases {P : State → Prop} (s : State)
    (hjudged : s.ctl.mode.doses = false → P (judgeRoster s))
    (hisolated : s.ctl.mode.doses = true → P (enterIsolated (judgeRoster s)))
    (hrole : s.ctl.mode.doses = true → P (applyRole (judgeRoster s) .byLoss))
    (hreturn : s.ctl.mode = .isolated → P (enterDosing (judgeRoster s) .onReturn)) : P (settle s) := by
  cases hd : s.ctl.mode.doses with
  | true =>
    cases hr : reasonStands (judgeRoster s) with
    | true => rw [settle_of_reason hd hr]; exact hisolated hd
    | false => rw [settle_of_doses hd hr]; exact hrole hd
  | false =>
    by_cases hm : s.ctl.mode = .isolated
    · cases hr : reasonStands (judgeRoster s) with
      | true => rw [settle_of_isolated hm hr]; exact hjudged hd
      | false => rw [settle_of_return hm hr]; exact hreturn hm
    · rw [settle_of_quiet hd hm]; exact hjudged hd

/-! ### A settled station is judged -/

theorem SameStation.judged {s t : State} (h : SameStation s t) (hs : judgeRoster s = s) : judgeRoster t = t := by
  rw [judged_iff] at hs ⊢
  rw [h.ros, h.view, h.position, h.digest]
  exact hs

theorem applyRole_roster (s : State) (w : HeadWay) : (applyRole s w).ros = { s.ros with
    role := if s.ctl.mode.doses then roleOf s.ros.up s.ros.down else .noRole } := rfl

/-- The role is none of the judgements. -/
theorem applyRole_judged {s : State} (w : HeadWay) (h : judgeRoster s = s) : judgeRoster (applyRole s w) = applyRole s w := by
  have hv : ownView (applyRole s w) = ownView s := by simp [ownView]
  obtain ⟨hr, hp, hd⟩ := (judged_iff s).mp h
  rw [judged_iff, hv, applyRole_roster]
  refine ⟨?_, by simpa using hp, by simpa using hd⟩
  exact congrArg (fun r : Roster =>
    { r with role := if s.ctl.mode.doses then roleOf s.ros.up s.ros.down else .noRole }) hr

theorem enterIsolated_judged (s : State) : judgeRoster (enterIsolated s) = enterIsolated s :=
  (lampEvent_same _).judged (judgeRoster_idem _)

theorem enterDosing_judged (s : State) (w : HeadWay) : judgeRoster (enterDosing s w) = enterDosing s w :=
  applyRole_judged w (judgeRoster_idem _)

theorem settle_judged (s : State) : judgeRoster (settle s) = settle s :=
  settle_cases (P := fun t => judgeRoster t = t) s (fun _ => judgeRoster_idem s) (fun _ => enterIsolated_judged _)
    (fun _ => applyRole_judged _ (judgeRoster_idem s)) (fun _ => enterDosing_judged _ _)

theorem enterIsolated_mode (s : State) : (enterIsolated s).ctl.mode = .isolated := by
  simp [enterIsolated, judgeRoster, setMode]

theorem enterDosing_mode (s : State) (w : HeadWay) : (enterDosing s w).ctl.mode = dosingMode s := by
  simp [enterDosing, judgeRoster, setMode]

theorem dosingMode_doses (s : State) : (dosingMode s).doses = true := by
  unfold dosingMode; split <;> rfl

theorem enterDosing_role (s : State) (w : HeadWay) :
    (enterDosing s w).ros.role = roleOf (enterDosing s w).ros.up (enterDosing s w).ros.down := by
  have hm : (judgeRoster (startSourceTimers (setMode s (dosingMode s)))).ctl.mode.doses = true := by
    simpa [judgeRoster_mode, setMode] using dosingMode_doses s
  unfold enterDosing
  rw [applyRole_roster, if_pos hm]

/-- In DOSING and HOLD a settled bank has the role of its neighbours (R63). -/
theorem settle_role_of_neighbours (s : State) :
    (settle s).ctl.mode.doses = true → (settle s).ros.role = roleOf (settle s).ros.up (settle s).ros.down := by
  refine settle_cases (P := fun t => t.ctl.mode.doses = true → t.ros.role = roleOf t.ros.up t.ros.down) s
    (fun hd h => ?_) (fun _ h => ?_) (fun hd _ => ?_) (fun _ _ => enterDosing_role _ _)
  · rw [judgeRoster_mode, hd] at h; exact absurd h (by simp)
  · rw [enterIsolated_mode] at h; exact absurd h (by simp [BankMode.doses])
  · rw [applyRole_roster, if_pos (by rw [judgeRoster_mode]; exact hd)]

/-! ### What each judgement says -/

theorem stands_iff (e : RosterEntry) : e.stands = true ↔ e.state = .active ∨ e.state = .conflict := by
  simp [RosterEntry.stands]

theorem standing_eq (es : List RosterEntry) (c p : Nat) : standing es c p =
    es.countP fun g => (g.state = .active ∨ g.state = .conflict) ∧ g.chan = c ∧ g.pos = p := by
  unfold standing
  refine List.countP_congr fun g _ => ?_
  simp [stands_iff, and_assoc]

/-- Of an entry whose conflicts are judged (R59). -/
theorem conflict_iff {es : List RosterEntry} (h : judgeConflicts es = es) {e : RosterEntry} (he : e ∈ es)
    (hs : e.stands = true) : e.state = .conflict ↔ 2 ≤ standing es e.chan e.pos := by
  rw [← h] at he
  obtain ⟨g, _, hg⟩ := List.mem_map.mp he
  split at hg
  · obtain rfl := hg
    simp only
    split <;> simp [*]
  · rename_i hn; rw [hg] at hn; exact absurd hs hn

theorem reportsDosing_iff (m : Option BankMode) : reportsDosing m = true ↔ m ∈ [some .dosing, some .hold] := by
  cases m with
  | none => simp [reportsDosing]
  | some m => simp [reportsDosing_some, doses_iff]

theorem eligible_iff (o : OwnView) (e : RosterEntry) : e.eligible o = true ↔ e.chan = o.chan ∧ e.state = .active ∧
    e.flags.getLsbD 12 = false ∧ (if e.isSelf then some o.mode else e.mode) ∈ [some .dosing, some .hold] := by
  rw [← reportsDosing_iff]
  simp [RosterEntry.eligible, RosterEntry.modeIn, configFailFlag, and_assoc]

theorem referenceDigest_of_none {o : OwnView} {es : List RosterEntry} (h : ∀ e ∈ es, ¬ e.eligible o = true) :
    referenceDigest o es = none := by
  have hf : es.filter (RosterEntry.eligible o) = [] := List.filter_eq_nil_iff.mpr h
  unfold referenceDigest
  rw [hf]
  rfl

/-- The reference digest is that of an eligible bank at the lowest eligible position (R61). -/
theorem referenceDigest_of_some {o : OwnView} {es : List RosterEntry} {e : RosterEntry} (he : e ∈ es)
    (h : e.eligible o = true) : ∃ g ∈ es, g.eligible o = true ∧ (∀ x ∈ es, x.eligible o = true → g.pos ≤ x.pos) ∧
      referenceDigest o es = g.digestIn o := by
  unfold referenceDigest
  cases hlow : ((es.filter (RosterEntry.eligible o)).map (·.pos)).min? with
  | none =>
    rw [List.min?_eq_none_iff, List.map_eq_nil_iff, List.filter_eq_nil_iff] at hlow
    exact absurd h (hlow e he)
  | some low =>
    obtain ⟨hmem, hleast⟩ := List.min?_eq_some_iff.mp hlow
    obtain ⟨x, hx, hpos⟩ := List.mem_map.mp hmem
    obtain ⟨g, hg⟩ : ∃ g, (es.filter (RosterEntry.eligible o)).find? (fun e => e.pos == low) = some g :=
      Option.isSome_iff_exists.mp (List.find?_isSome.mpr ⟨x, hx, by simp [hpos]⟩)
    obtain ⟨hges, hgel⟩ := List.mem_filter.mp (List.mem_of_find?_eq_some hg)
    have hgpos : g.pos = low := by simpa using List.find?_some hg
    refine ⟨g, hges, hgel, fun x hx hel => ?_, by simp only [hg, Option.bind_some]⟩
    rw [hgpos]
    exact hleast _ (List.mem_map.mpr ⟨x, List.mem_filter.mpr ⟨hx, hel⟩, rfl⟩)

theorem digestReasonStands_iff (o : OwnView) (ref : Option Digest) : digestReasonStands o ref = true ↔
    ∃ x y, ref = some x ∧ o.digest = some y ∧ x ≠ y := by
  unfold digestReasonStands
  cases ref <;> cases o.digest <;> simp

/-- The participating peers, by R62. -/
theorem mem_peerPositions {o : OwnView} {ref : Option Digest} {es : List RosterEntry} {p : Nat} :
    p ∈ peerPositions o ref es ↔ ∃ e ∈ es, e.isSelf = false ∧ e.chan = o.chan ∧ e.pos = p ∧ e.state = .active ∧
      e.digest ≠ none ∧ e.digest = ref ∧ e.mode ∈ [some .dosing, some .hold] := by
  simp only [peerPositions, List.mem_map, List.mem_filter, ← reportsDosing_iff]
  refine exists_congr fun e => ?_
  simp only [RosterEntry.participates, Bool.and_eq_true, Bool.not_eq_true', decide_eq_true_eq, Option.isSome_iff_ne_none]
  tauto

/-- The nearest below. -/
theorem max_below_none {l : List Nat} {n : Nat} : (l.filter (· < n)).max? = none ↔ ∀ q ∈ l, n ≤ q := by
  simp [List.filter_eq_nil_iff]

theorem max_below_some {l : List Nat} {n p : Nat} (h : (l.filter (· < n)).max? = some p) :
    p < n ∧ p ∈ l ∧ ∀ q ∈ l, q < n → q ≤ p := by
  obtain ⟨hm, hg⟩ := List.max?_eq_some_iff.mp h
  obtain ⟨hp, hn⟩ := List.mem_filter.mp hm
  exact ⟨by simpa using hn, hp, fun q hq hlt => hg q (List.mem_filter.mpr ⟨hq, by simpa using hlt⟩)⟩

/-- The nearest above. -/
theorem min_above_none {l : List Nat} {n : Nat} : (l.filter (n < ·)).min? = none ↔ ∀ q ∈ l, q ≤ n := by
  simp [List.filter_eq_nil_iff]

theorem min_above_some {l : List Nat} {n p : Nat} (h : (l.filter (n < ·)).min? = some p) :
    n < p ∧ p ∈ l ∧ ∀ q ∈ l, n < q → p ≤ q := by
  obtain ⟨hm, hg⟩ := List.min?_eq_some_iff.mp h
  obtain ⟨hp, hn⟩ := List.mem_filter.mp hm
  exact ⟨by simpa using hn, hp, fun q hq hlt => hg q (List.mem_filter.mpr ⟨hq, by simpa using hlt⟩)⟩

/-- Settles O26: the station is judged after every settlement, and each judgement says what its rule says. -/
theorem settlementJudgesTheRoster : Obligations.SettlementJudgesTheRoster := by
  unfold Obligations.SettlementJudgesTheRoster
  intro s
  have hrole := settle_role_of_neighbours s
  have hldr : (settle s).ldr = s.ldr := by simp
  obtain ⟨hros, hposition, hdigest⟩ := (judged_iff _).mp (settle_judged s)
  generalize settle s = t at *
  rw [← hldr]
  have hconf : judgeConflicts t.ros.entries = t.ros.entries := congrArg Roster.entries hros
  have href : t.ros.refDigest = referenceDigest (ownView t) t.ros.entries := by
    conv_lhs => rw [← hros]
    simp only [Roster.judge, hconf]
  have hup : t.ros.up = ((peerPositions (ownView t) t.ros.refDigest t.ros.entries).filter
      (· < t.ldr.straps.position)).max? := by
    conv_lhs => rw [← hros]
    simp only [Roster.judge, hconf, ← href]
    rfl
  have hdown : t.ros.down = ((peerPositions (ownView t) t.ros.refDigest t.ros.entries).filter
      (t.ldr.straps.position < ·)).min? := by
    conv_lhs => rw [← hros]
    simp only [Roster.judge, hconf, ← href]
    rfl
  refine ⟨fun e he hs => ?_, hposition, fun hno => ?_, fun e he hel => ?_, ?_, fun p => mem_peerPositions, ?_,
    fun p hp => ?_, ?_, fun p hp => ?_, hrole⟩
  · rw [conflict_iff hconf he ((stands_iff e).mpr hs), standing_eq]
  · rw [href]
    exact referenceDigest_of_none fun e he hel => hno e he ((eligible_iff _ _).mp hel)
  · obtain ⟨g, hg, hgel, hleast, hgd⟩ := referenceDigest_of_some he ((eligible_iff (ownView t) e).mpr hel)
    exact ⟨g, hg, (eligible_iff _ _).mp hgel, fun x hx hx' => hleast x hx ((eligible_iff (ownView t) x).mpr hx'),
      href.trans hgd⟩
  · rw [hdigest]; exact digestReasonStands_iff _ _
  · rw [hup]; exact max_below_none
  · exact max_below_some (hup.symm.trans hp)
  · rw [hdown]; exact min_above_none
  · exact min_above_some (hdown.symm.trans hp)

end Sys2Proof.Machine
end

section
/-! The periodic frames: the STATUS of the moment, and the own readings (O19). -/

namespace Sys2Proof.Machine

/-! ### The expiries -/

theorem exec_statusTimerExpiry {s : State} (h : Runs s) (ht : s.ctl.statusTimer.isSome = true) :
    exec .statusTimerExpiry s = .next (post (s.setCtl { s.ctl with statusTimer := some 0 }) (.status (statusBody s))) := by
  refine congrArg Host.Outcome.next ((event_of_runs _ h ?_).trans ?_) <;> rw [if_pos ht]
  simp [State.restarting]

theorem exec_flowTimerExpiry {s : State} (h : Runs s) (ht : s.pln.flowTimer.isSome = true) :
    exec .flowTimerExpiry s = .next (if s.ctl.mode.doses then
      post (s.setPln { s.pln with flowTimer := some 0 }) (.flow (readingBody s.scn.ownFlow))
      else s.setPln { s.pln with flowTimer := some 0 }) := by
  refine congrArg Host.Outcome.next ((event_of_runs _ h ?_).trans ?_) <;> rw [if_pos ht]
  · simp only; split <;> simp [State.restarting]
  · rfl

theorem exec_uvtTimerExpiry {s : State} (h : Runs s) (ht : s.pln.uvtTimer.isSome = true) :
    exec .uvtTimerExpiry s = .next (if s.ctl.mode.doses then
      post (s.setPln { s.pln with uvtTimer := some 0 }) (.uvt (readingBody s.scn.ownUvt))
      else s.setPln { s.pln with uvtTimer := some 0 }) := by
  refine congrArg Host.Outcome.next ((event_of_runs _ h ?_).trans ?_) <;> rw [if_pos ht]
  · simp only; split <;> simp [State.restarting]
  · rfl

/-! ### The STATUS -/

theorem getLsbD_statusBit (n : Nat) (c : Bool) (k : Nat) :
    (statusBit n c).getLsbD k = (c && decide (n < 16) && decide (k = n)) := by
  cases c <;> simp [statusBit, BitVec.getLsbD_twoPow, eq_comm]

theorem statusBody_of_failsafe {s : State} (hm : s.ctl.mode = .failsafe) : statusBody s =
    { serial := s.serial, mode := 5, role := 0, flags := statusFlags s, digest := 0, p := 0, fReq := 0, fEff := 0
      lit := 0, failed := 0, nextSeq := 0, present := 0 } := by
  unfold statusBody; rw [if_pos hm, hm]; rfl

/-- CONFIG_FAIL and the bit of a cause (R187). -/
def failureFlags (c : LoadFailure) : BitVec 16 :=
  match c with
  | .imageAbsent => 0x3000
  | .imageCrc => 0x5000
  | .imageRange => 0x9000

/-- In FAILSAFE the flags are CONFIG_FAIL and the cause (R71). -/
theorem statusFlags_of_failsafe {s : State} {c : LoadFailure} (hm : s.ctl.mode = .failsafe)
    (hc : s.ldr.failure = some c) : statusFlags s = failureFlags c := by
  unfold statusFlags
  rw [if_pos hm, hc]
  cases c <;> decide

theorem statusBody_of_service {s : State} (hm : s.ctl.mode ≠ .failsafe) : statusBody s =
    { serial := s.serial, mode := BitVec.ofNat 8 s.ctl.mode.code, role := s.ros.role.code, flags := statusFlags s
      digest := s.ldr.digest.getD 0, p := BitVec.ofNat 16 (capacityP s), fReq := BitVec.ofNat 16 s.pln.fReq
      fEff := BitVec.ofNat 16 (fEff s), lit := BitVec.ofNat 8 (lampsInState s .lit)
      failed := BitVec.ofNat 8 (lampsInState s .failed), nextSeq := s.trk.nextExpected.getD 0
      present := if s.trk.nextExpected.isSome then 1 else 0 } := by
  unfold statusBody; rw [if_neg hm]

/-- Outside FAILSAFE the flags bit by bit (R71, R187). -/
theorem statusFlags_bit {s : State} (hm : s.ctl.mode ≠ .failsafe) (k : Nat) : (statusFlags s).getLsbD k =
    match k with
    | 0 => inStroke s
    | 1 => s.pln.shortfall
    | 2 => s.ros.role.numbers
    | 3 => s.ldr.supply.low
    | 4 => s.bus.busFault
    | 5 => decide (s.pln.flow = .stale)
    | 6 => decide (s.pln.uvt = .stale)
    | 7 => s.pln.flowDup.isSome
    | 8 => s.pln.uvtDup.isSome
    | 9 => anyEstimated s
    | 10 => s.ctl.positionReason
    | 11 => s.ctl.digestReason
    | _ => false := by
  unfold statusFlags
  rw [if_neg hm]
  simp only [BitVec.getLsbD_or, getLsbD_statusBit]
  rcases Nat.lt_or_ge k 12 with h | h
  · interval_cases k <;> simp
  · obtain ⟨n, rfl⟩ := Nat.exists_eq_add_of_le' h
    simp

theorem numbers_eq (r : Role) : r.numbers = decide (r = .head ∨ r = .sole) := by cases r <;> rfl

/-- Settles O19: each expiry while its timer runs, and the STATUS field by field. -/
theorem periodicFramesArePosted : Obligations.PeriodicFramesArePosted := by
  unfold Obligations.PeriodicFramesArePosted
  refine ⟨fun s h ht => ⟨exec_statusTimerExpiry h ht, fun hm c hc => ?_, fun hm => ?_⟩, fun s h => ?_⟩
  · rw [statusBody_of_failsafe hm, statusFlags_of_failsafe hm hc]; rfl
  · rw [statusBody_of_service hm]
    refine ⟨rfl, rfl, rfl, rfl, rfl, rfl, rfl, rfl, rfl, fun n hn => ?_, fun hn => ?_, fun k => ?_⟩
    · simp [hn]
    · simp [hn]
    · simp only [statusFlags_bit hm, numbers_eq] <;> rfl
  · have hreading : ∀ o, readingBody o = (match o with
        | none => ⟨0, 2⟩
        | some ⟨.fault, _⟩ => ⟨0, 2⟩
        | some ⟨.reverse, v⟩ => ⟨BitVec.ofNat 16 v, 1⟩
        | some ⟨.normal, v⟩ => ⟨BitVec.ofNat 16 v, 0⟩) := by
      rintro (_ | ⟨_ | _ | _, _⟩) <;> rfl
    refine ⟨fun ht hm => ?_, fun ht hm => ?_, fun ht hm => ?_, fun ht hm => ?_⟩
    · rw [exec_flowTimerExpiry h ht, if_pos hm, hreading] <;> rfl
    · rw [exec_flowTimerExpiry h ht, if_neg (by simp [hm])]
    · rw [exec_uvtTimerExpiry h ht, if_pos hm, hreading] <;> rfl
    · rw [exec_uvtTimerExpiry h ht, if_neg (by simp [hm])]

end Sys2Proof.Machine
end

section
/-! What a frame leaves of the roster, row by row: entries taken in, refreshed, gone LOST and removed (O22, O23). -/

namespace Sys2Proof.Machine

/-! ### What the settlement leaves alone -/

@[simp] theorem settle_unlearned (s : State) : (settle s).ros.unlearned = s.ros.unlearned :=
  settle_cases (P := fun t => t.ros.unlearned = s.ros.unlearned) s (fun _ => rfl)
    (fun _ => by simp [enterIsolated, judgeRoster, Roster.judge]) (fun _ => rfl)
    (fun _ => by simp [enterDosing, judgeRoster, Roster.judge, applyRole])

theorem Bus.countGivenUp_formatErrors (b : Bus) (f : Frame) : (b.countGivenUp f).formatErrors = b.formatErrors := by
  unfold Bus.countGivenUp; split <;> rfl

theorem giveUpAll_formatErrors (s : State) (fs : List Frame) :
    (giveUpAll s fs).bus.formatErrors = s.bus.formatErrors := by
  unfold giveUpAll
  induction fs generalizing s with
  | nil => rfl
  | cons f fs ih => rw [List.foldl_cons, ih]; exact Bus.countGivenUp_formatErrors _ f

theorem Bus.post_formatErrors (b : Bus) (f : Frame) : (b.post f).bus.formatErrors = b.formatErrors := by
  unfold Bus.post Bus.postFull Bus.refuse
  repeat' split
  all_goals rfl

@[simp] theorem post_formatErrors (s : State) (b : Body) : (post s b).bus.formatErrors = s.bus.formatErrors := by
  unfold post
  exact (giveUpAll_formatErrors _ _).trans (Bus.post_formatErrors _ _)

@[simp] theorem releaseClaim_formatErrors (s : State) : (releaseClaim s).bus.formatErrors = s.bus.formatErrors := by
  unfold releaseClaim takeBackClaim
  repeat' split
  all_goals rfl

@[simp] theorem settle_formatErrors (s : State) : (settle s).bus.formatErrors = s.bus.formatErrors :=
  settle_cases (P := fun t => t.bus.formatErrors = s.bus.formatErrors) s (fun _ => rfl)
    (fun _ => by simp [enterIsolated, emptyParcels, Bus.withdrawParcels]) (fun _ => by simp) (fun _ => by simp)

/-- The blocks that learning a frame may move. -/
theorem learning_onlyChanges {s t : State} (hp : t.pending = s.pending) (hs : t.serial = s.serial)
    (hh : t.hold = s.hold) (hl : t.ldr = s.ldr) (hc : t.scn = s.scn) :
    OnlyChanges [.ctl, .trk, .ros, .pln, .seq, .link, .wip, .bus, .cmd] s t := by
  intro b hb
  cases b <;> simp at hb <;> assumption

/-- `t` holds the roster `r` once its conflicts are judged. -/
structure Learned (r : Roster) (t : State) : Prop where
  entries : t.ros.entries = judgeConflicts r.entries
  unlearned : t.ros.unlearned = r.unlearned

theorem settle_learned (s : State) (r : Roster) : Learned r (settle (s.setRos r)) :=
  ⟨settle_entries _, settle_unlearned _⟩

/-! ### The entry LOST the longest, and the one LOST last -/

theorem longestLost_eq_none {es : List RosterEntry} (h : ∀ e ∈ es, e.isSelf = true ∨ e.isLost = false) :
    longestLost es = none := by
  induction es with
  | nil => rfl
  | cons e rest ih =>
    have he : (e.isLost && !e.isSelf) = false := by
      rcases h e (by simp) with h | h <;> simp [h]
    unfold longestLost
    rw [ih fun g hg => h g (by simp [hg])]
    simp [he]

theorem longestLost_lost {es : List RosterEntry} {g : RosterEntry} (h : longestLost es = some g) :
    g ∈ es ∧ g.isSelf = false ∧ g.state = .lost := by
  induction es generalizing g with
  | nil => simp [longestLost] at h
  | cons e rest ih =>
    unfold longestLost at h
    split at h
    · split at h
      · rename_i hc
        obtain rfl := Option.some.inj h
        simp only [RosterEntry.isLost, Bool.and_eq_true, decide_eq_true_eq, Bool.not_eq_true'] at hc
        exact ⟨by simp, hc.2, hc.1⟩
      · simp at h
    · rename_i x hx
      obtain ⟨h1, h2, h3⟩ := ih hx
      split at h <;> obtain rfl := Option.some.inj h
      · rename_i hc
        simp only [RosterEntry.isLost, Bool.and_eq_true, decide_eq_true_eq, Bool.not_eq_true'] at hc
        exact ⟨by simp, hc.1.2, hc.1.1⟩
      · exact ⟨by simp [h1], h2, h3⟩

/-- An entry LOST no shorter than those behind it is the first of the longest from there on. -/
theorem longestLost_head {g : RosterEntry} {after : List RosterEntry} (hs : g.isSelf = false) (hl : g.state = .lost)
    (ha : ∀ x ∈ after, x.isSelf = false → x.state = .lost → x.sinceLost.getD 0 ≤ g.sinceLost.getD 0) :
    longestLost (g :: after) = some g := by
  have hg : (g.isLost && !g.isSelf) = true := by simp [RosterEntry.isLost, hs, hl]
  unfold longestLost
  split
  · rw [if_pos hg]
  · rename_i x hx
    obtain ⟨h1, h2, h3⟩ := longestLost_lost hx
    rw [if_pos]
    rw [hg, Bool.true_and, decide_eq_true_eq]
    exact ha x h1 h2 h3

/-- An entry LOST longer than those before it, and no shorter than those behind it, is the one R54 names. -/
theorem longestLost_append {g : RosterEntry} {before after : List RosterEntry} (hs : g.isSelf = false)
    (hl : g.state = .lost)
    (hb : ∀ x ∈ before, x.isSelf = false → x.state = .lost → x.sinceLost.getD 0 < g.sinceLost.getD 0)
    (ha : ∀ x ∈ after, x.isSelf = false → x.state = .lost → x.sinceLost.getD 0 ≤ g.sinceLost.getD 0) :
    longestLost (before ++ g :: after) = some g := by
  induction before with
  | nil => exact longestLost_head hs hl ha
  | cons e rest ih =>
    rw [List.cons_append]
    unfold longestLost
    rw [ih fun x hx => hb x (by simp [hx])]
    simp only
    rw [if_neg]
    intro hc
    simp only [RosterEntry.isLost, Bool.and_eq_true, decide_eq_true_eq, Bool.not_eq_true'] at hc
    have := hb e (by simp) hc.1.2 hc.1.1
    omega

/-- Of entries LOST the one with the smallest age is found (R53). -/
theorem latestLost_spec {es : List RosterEntry} (h : es ≠ []) : ∃ e ∈ es, latestLost es = some e ∧
    ∀ g ∈ es, e.sinceLost.getD 0 ≤ g.sinceLost.getD 0 := by
  induction es with
  | nil => exact absurd rfl h
  | cons e rest ih =>
    unfold latestLost
    by_cases hr : rest = []
    · subst hr; exact ⟨e, by simp, rfl, by simp⟩
    · obtain ⟨x, hx, hf, hleast⟩ := ih hr
      rw [hf]
      simp only
      split
      · rename_i hle
        refine ⟨e, by simp, rfl, fun g hg => ?_⟩
        rcases List.mem_cons.mp hg with rfl | hg
        · exact le_refl _
        · exact hle.trans (hleast g hg)
      · rename_i hgt
        refine ⟨x, by simp [hx], rfl, fun g hg => ?_⟩
        rcases List.mem_cons.mp hg with rfl | hg
        · omega
        · exact hleast g hg

/-! ### A new entry is taken in (R54) -/

theorem Roster.add_of_room {r : Roster} (e : RosterEntry) (h : r.entries.length < 40) :
    r.add e = { r with entries := insertEntry e r.entries } := if_pos h

theorem Roster.add_of_none {r : Roster} (e : RosterEntry) (h : 40 ≤ r.entries.length)
    (hn : longestLost r.entries = none) : r.add e = { r with unlearned := bump16 r.unlearned } := by
  unfold Roster.add
  rw [if_neg (show ¬ r.entries.length < rosterCap from Nat.not_lt.mpr h), hn]

theorem Roster.add_of_some {r : Roster} (e : RosterEntry) {g : RosterEntry} (h : 40 ≤ r.entries.length)
    (hg : longestLost r.entries = some g) :
    r.add e = { r with entries := insertEntry e (r.remove g.key).entries } := by
  unfold Roster.add
  rw [if_neg (show ¬ r.entries.length < rosterCap from Nat.not_lt.mpr h), hg]

theorem takesIn_of_learned {s t : State} {e : RosterEntry} (h : Learned (s.ros.add e) t) : TakesIn e s t := by
  refine ⟨fun hl => ?_, fun hl hn => ?_, fun hl before g after hes hs hlost hb ha => ?_⟩
  · rw [h.entries, Roster.add_of_room e hl]
  · have hnone : longestLost s.ros.entries = none := longestLost_eq_none fun x hx => by
      simpa using List.all_eq_true.mp hn x hx
    rw [h.entries, h.unlearned, Roster.add_of_none e hl hnone]
    exact ⟨rfl, rfl⟩
  · have hsome : longestLost s.ros.entries = some g := by rw [hes]; exact longestLost_append hs hlost hb ha
    rw [h.entries, h.unlearned, Roster.add_of_some e hl hsome]
    exact ⟨rfl, rfl⟩

/-! ### A frame without a serial (R53) -/

section
variable {r : Roster} {a : Src}

theorem Roster.learnPlain_of_stranger (hb : isBankAddress a = false) (hp : isPlantAddress a = false) :
    r.learnPlain a = r := by
  unfold Roster.learnPlain
  rw [hb, hp]
  rfl

theorem Roster.learnPlain_of_none (h : isBankAddress a = true ∨ isPlantAddress a = true)
    (hn : r.entries.filter (RosterEntry.foreignAt a) = []) :
    r.learnPlain a = r.add (freshEntry a.chan.toNat a.pos.toNat none) := by
  unfold Roster.learnPlain
  rw [if_neg (by rcases h with h | h <;> simp [h])]
  simp only [hn]

theorem Roster.learnPlain_of_one (h : isBankAddress a = true ∨ isPlantAddress a = true) {e : RosterEntry}
    (he : (r.entries.filter (RosterEntry.foreignAt a)).filter (fun e => !e.isLost) = [e]) :
    r.learnPlain a = r.change e.key RosterEntry.refreshed := by
  unfold Roster.learnPlain
  rw [if_neg (by rcases h with h | h <;> simp [h])]
  cases hh : r.entries.filter (RosterEntry.foreignAt a) with
  | nil => simp [hh] at he
  | cons g gs =>
    rw [hh] at he
    simp only [he]

theorem Roster.learnPlain_of_many (h : isBankAddress a = true ∨ isPlantAddress a = true)
    (he : 2 ≤ ((r.entries.filter (RosterEntry.foreignAt a)).filter (fun e => !e.isLost)).length) :
    r.learnPlain a = r := by
  unfold Roster.learnPlain
  rw [if_neg (by rcases h with h | h <;> simp [h])]
  cases hh : r.entries.filter (RosterEntry.foreignAt a) with
  | nil => simp [hh] at he
  | cons g gs =>
    rw [hh] at he
    cases hx : (g :: gs).filter (fun e => !e.isLost) with
    | nil => simp [hx] at he
    | cons x l =>
      cases l with
      | nil => simp [hx] at he
      | cons y l => simp only [hx]

theorem Roster.learnPlain_of_lost (h : isBankAddress a = true ∨ isPlantAddress a = true) {e : RosterEntry}
    (hheld : r.entries.filter (RosterEntry.foreignAt a) ≠ [])
    (hn : (r.entries.filter (RosterEntry.foreignAt a)).filter (fun e => !e.isLost) = [])
    (he : latestLost (r.entries.filter (RosterEntry.foreignAt a)) = some e) :
    r.learnPlain a = r.change e.key fun e => { e.refreshed with state := .heard } := by
  unfold Roster.learnPlain
  rw [if_neg (by rcases h with h | h <;> simp [h])]
  cases hh : r.entries.filter (RosterEntry.foreignAt a) with
  | nil => exact absurd hh hheld
  | cons g gs =>
    rw [hh] at hn he
    simp only [hn, he]

end

/-- The rows of R53 are those of the statements. -/
theorem learnedPlain_of_learned {s t : State} {a : Src} (h : Learned (s.ros.learnPlain a) t) : LearnedPlain a s t := by
  refine ⟨fun hb hp => ?_, fun hadr => ⟨fun hn => ?_, fun e he => ?_, fun h2 => ?_, fun hheld hn => ?_⟩⟩
  · rw [h.entries, Roster.learnPlain_of_stranger hb hp]
  · rw [Roster.learnPlain_of_none hadr hn] at h
    exact takesIn_of_learned h
  · rw [h.entries, Roster.learnPlain_of_one hadr he]
    rfl
  · rw [h.entries, Roster.learnPlain_of_many hadr h2]
  · obtain ⟨e, he, hf, hleast⟩ := latestLost_spec hheld
    refine ⟨e, he, hleast, ?_⟩
    rw [h.entries, Roster.learnPlain_of_lost hadr hheld hn hf]
    rfl

theorem learned_learnedPlain (s : State) (a : Src) : LearnedPlain a s (learned s a) :=
  learnedPlain_of_learned (settle_learned (s.setBus s.bus.frameTaken) (s.ros.learnPlain a))

theorem learned_formatErrors (s : State) (a : Src) : (learned s a).bus.formatErrors = s.bus.formatErrors := by
  simp [learned, learnSource, Bus.frameTaken]

/-! ### The frames the roster alone takes, and every frame in LOADING -/

theorem exec_dischargeReceived {s : State} (a : Src) (b : DischargeBody) (h : TakesFrames s) :
    exec (.dischargeReceived a b) s = .next (learned s a) :=
  congrArg Host.Outcome.next (frameEvent_of_takes _ h (learned_restarting s a))

theorem exec_reportReceived {s : State} (a : Src) (h : TakesFrames s) :
    exec (.reportReceived a) s = .next (learned s a) :=
  congrArg Host.Outcome.next (frameEvent_of_takes _ h (learned_restarting s a))

/-- The part once a frame of a wrong length has been read and counted (R186). -/
def formatErrorCounted (s : State) : State :=
  s.setBus { s.bus.frameTaken with formatErrors := bump16 s.bus.formatErrors }

theorem exec_formatErrorFrame {s : State} (a : Src) (h : Runs s) : exec (.formatErrorFrame a) s =
    .next (if s.ctl.mode = .loading then formatErrorCounted s else learnSource (formatErrorCounted s) a) := by
  refine congrArg Host.Outcome.next (event_of_runs _ h ?_)
  simp only
  split
  · rfl
  · exact learnSource_restarting (formatErrorCounted s) a

/-- In LOADING every frame accepted only ends the reading (R173). -/
theorem exec_accepted_of_loading {c : Instr} {a : Src} {s : State} (h : Runs s) (hm : s.ctl.mode = .loading)
    (hc : AcceptedFrame c a) : exec c s = .next (s.setBus s.bus.frameTaken) := by
  have he (f : State → State) : Host.Outcome.next (frameEvent s f) =
      (.next (s.setBus s.bus.frameTaken) : Host.Outcome State Fault Refusal) :=
    congrArg Host.Outcome.next (frameEvent_of_loading f h hm)
  rcases hc with ⟨b, rfl⟩ | ⟨b, rfl⟩ | ⟨b, rfl⟩ | ⟨b, rfl⟩ | ⟨b, rfl⟩ | ⟨b, rfl⟩ | rfl | ⟨r, rfl⟩ | rfl | rfl |
    ⟨o, rfl⟩ | ⟨b, rfl | rfl | rfl | rfl | rfl | rfl | rfl | ⟨code, rfl⟩⟩ <;> exact he _

/-- Settles O23: the rows of a frame without a serial, and what LOADING leaves of a frame. -/
theorem framesWithoutASerialAreLearned : Obligations.FramesWithoutASerialAreLearned := by
  unfold Obligations.FramesWithoutASerialAreLearned
  refine ⟨⟨fun c a s h hc => ?_, fun a s => learned_learnedPlain s a⟩, fun a s h hm => ⟨?_, fun c hc =>
    exec_accepted_of_loading h hm hc⟩⟩
  · rcases hc with ⟨d, rfl⟩ | rfl | rfl
    · refine ⟨_, exec_dischargeReceived a d h, ?_, ?_, learned_learnedPlain s a⟩
      · apply learning_onlyChanges <;> simp [learned]
      · rw [if_neg (by simp)]; exact learned_formatErrors s a
    · refine ⟨_, exec_reportReceived a h, ?_, ?_, learned_learnedPlain s a⟩
      · apply learning_onlyChanges <;> simp [learned]
      · rw [if_neg (by simp)]; exact learned_formatErrors s a
    · refine ⟨learnSource (formatErrorCounted s) a, (exec_formatErrorFrame a h.1).trans (by rw [if_neg h.2]), ?_, ?_,
        learnedPlain_of_learned (settle_learned (formatErrorCounted s) (s.ros.learnPlain a))⟩
      · apply learning_onlyChanges <;> simp [formatErrorCounted]
      · rw [if_pos rfl]; simp [learnSource, formatErrorCounted]
  · rw [exec_formatErrorFrame a h, if_pos hm]
    rfl

/-! ### Entries gone LOST, and removed -/

theorem freeWait_keeps (s : State) (c p : Nat) :
    (freeWait s c p).pending = s.pending ∧ (freeWait s c p).serial = s.serial ∧ (freeWait s c p).hold = s.hold ∧
      (freeWait s c p).ldr = s.ldr ∧ (freeWait s c p).scn = s.scn ∧ (freeWait s c p).ros = s.ros := by
  unfold freeWait; split <;> simp

@[simp] theorem freeWait_restarting (s : State) (c p : Nat) : (freeWait s c p).restarting = s.restarting := by
  unfold freeWait; split
  · exact emptyWaitOn_restarting s p
  · rfl

/-- A wait for a bank of the own channel ends (R162). -/
theorem freeWait_wait {s : State} {c p : Nat} (hc : c = s.ldr.straps.channel) (hw : s.wip.wait.map (·.pos) = some p) :
    (freeWait s c p).wip.wait = none := by
  unfold freeWait
  rw [if_pos hc]
  exact (emptyWaitOn_spec s p).2.1 hw

/-- The settlement of a roster followed by a wait that may end: what it leaves alone, and the entries. -/
theorem freeWait_settle_onlyChanges (s : State) (r : Roster) (c p : Nat) :
    OnlyChanges [.ctl, .trk, .ros, .pln, .seq, .link, .wip, .bus, .cmd] s (freeWait (settle (s.setRos r)) c p) := by
  obtain ⟨h1, h2, h3, h4, h5, -⟩ := freeWait_keeps (settle (s.setRos r)) c p
  apply learning_onlyChanges <;> simp [*]

theorem freeWait_settle_entries (s : State) (r : Roster) (c p : Nat) :
    (freeWait (settle (s.setRos r)) c p).ros.entries = judgeConflicts r.entries := by
  obtain ⟨-, -, -, -, -, h⟩ := freeWait_keeps (settle (s.setRos r)) c p
  rw [h]
  exact settle_entries _

theorem freeWait_settle_wait {s : State} (r : Roster) {c p : Nat} (hc : c = s.ldr.straps.channel)
    (hw : s.wip.wait.map (·.pos) = some p) : (freeWait (settle (s.setRos r)) c p).wip.wait = none :=
  freeWait_wait (by simpa using hc) (by rw [settle_wait]; exact hw)

theorem exec_rosterEntryLost {s : State} (k : EntryKey) (h : Runs s) : exec (.rosterEntryLost k) s =
    .next (if heardEntry s k then
      freeWait (settle (s.setRos (s.ros.change k RosterEntry.goneLost))) k.chan k.pos else s) := by
  refine congrArg Host.Outcome.next (event_of_runs _ h ?_)
  split
  · rw [freeWait_restarting, settle_restarting]; rfl
  · rfl

theorem exec_rosterEntryRemove {s : State} (k : EntryKey) (h : Runs s) : exec (.rosterEntryRemove k) s =
    .next (if s.ros.entries.any (fun e => e.hasKey k && e.isLost) then settle (s.setRos (s.ros.remove k)) else s) := by
  refine congrArg Host.Outcome.next (event_of_runs _ h ?_)
  split
  · rw [settle_restarting]; rfl
  · rfl

/-- The state after a LEAVE (R58, R162), which ends the reading of its frame first. -/
def leaveTaken (s : State) (a : Src) (reason : Byte) : State :=
  if isOwnAddress s a then settle ((s.setBus s.bus.frameTaken).setRos (s.ros.leaveFromTwin a reason))
  else if heardAt s a then
    freeWait (settle ((s.setBus s.bus.frameTaken).setRos (s.ros.leaveFrom a))) a.chan.toNat a.pos.toNat
  else settle ((s.setBus s.bus.frameTaken).setRos (s.ros.leaveFrom a))

theorem exec_leaveReceived {s : State} (a : Src) (reason : Byte) (h : TakesFrames s) :
    exec (.leaveReceived a reason) s = .next (leaveTaken s a reason) := by
  refine congrArg Host.Outcome.next (frameEvent_of_takes _ h ?_)
  change (leaveTaken s a reason).restarting = s.restarting
  unfold leaveTaken
  repeat' split
  · rw [settle_restarting]; rfl
  · rw [freeWait_restarting, settle_restarting]; rfl
  · rw [settle_restarting]; rfl

theorem leaveTaken_onlyChanges (s : State) (a : Src) (reason : Byte) :
    OnlyChanges [.ctl, .trk, .ros, .pln, .seq, .link, .wip, .bus, .cmd] s (leaveTaken s a reason) := by
  have hk := freeWait_keeps
  unfold leaveTaken
  apply learning_onlyChanges <;> split <;> (try split) <;> simp [hk]

theorem leaveTaken_entries (s : State) (a : Src) (reason : Byte) : (leaveTaken s a reason).ros.entries =
    judgeConflicts (if isOwnAddress s a then s.ros.leaveFromTwin a reason else s.ros.leaveFrom a).entries := by
  unfold leaveTaken
  split
  · exact settle_entries _
  · split
    · exact freeWait_settle_entries _ _ _ _
    · exact settle_entries _

/-- A LEAVE of a twin with another reason refreshes what is not LOST (R58). -/
theorem leaveFromTwin_of_other (r : Roster) (a : Src) {reason : Byte} (h : reason ≠ 4) :
    (r.leaveFromTwin a reason).entries = r.entries.map fun e =>
      if e.foreignAt a ∧ e.state ≠ .lost then { e with lastHeard := 0, sinceLost := none } else e := by
  unfold Roster.leaveFromTwin
  rw [if_neg (show ¬ reason = leaveRestart from h)]
  refine List.map_congr_left fun e _ => ?_
  simp only [RosterEntry.isLost, Bool.and_eq_true, Bool.not_eq_true', decide_eq_false_iff_not]
  rfl

/-- Settles O22: the two ages, and the LEAVE by its address and its reason. -/
theorem entriesGoLostAndAreRemoved : Obligations.EntriesGoLostAndAreRemoved := by
  unfold Obligations.EntriesGoLostAndAreRemoved
  refine ⟨fun k s h => ⟨fun hk => ⟨_, (exec_rosterEntryLost k h).trans (by rw [if_pos hk]),
      freeWait_settle_onlyChanges _ _ _ _, freeWait_settle_entries _ _ _ _, freeWait_settle_wait _⟩,
      fun hk => (exec_rosterEntryLost k h).trans (by rw [if_neg (by simp [hk])]),
      fun hk => ⟨settle (s.setRos (s.ros.remove k)), (exec_rosterEntryRemove k h).trans (by rw [if_pos hk]), ?_,
        settle_entries (s.setRos _), settle_wait (s.setRos _)⟩,
      fun hk => (exec_rosterEntryRemove k h).trans (by rw [if_neg (by simp [hk])])⟩,
    fun a reason s h => ⟨_, exec_leaveReceived a reason h, leaveTaken_onlyChanges s a reason, fun hlost => ?_,
      fun hown hreason => ?_, fun hown hheard hchan hwait => ?_⟩⟩
  · apply learning_onlyChanges <;> simp
  · rw [leaveTaken_entries]
    rcases hlost with hown | rfl
    · rw [if_neg (by simp [hown])]; rfl
    · split <;> rfl
  · rw [leaveTaken_entries, if_pos hown, leaveFromTwin_of_other _ _ hreason]
  · unfold leaveTaken
    rw [if_neg (by simp [hown]), if_pos hheard]
    exact freeWait_settle_wait (s := s.setBus s.bus.frameTaken) _ hchan hwait

end Sys2Proof.Machine
end

section
/-! A frame with a serial: its entry started afresh by a JOIN, filled by a STATUS (O24, O25). -/

namespace Sys2Proof.Machine

/-! ### How a frame with a serial is learned (R52, R55) -/

theorem RosterEntry.key_unnamed {es : List RosterEntry} {k : EntryKey}
    (h : es.any (RosterEntry.hasKey k) = false) : es.find? (RosterEntry.hasKey k) = none := by
  simpa using h

section
variable {r : Roster} {a : Src} {x : Serial} {fields : RosterEntry → RosterEntry}

theorem Roster.learnIdentity_of_held
    (h : r.entries.any (RosterEntry.hasKey ⟨a.chan.toNat, a.pos.toNat, some x⟩) = true) :
    r.learnIdentity a x fields =
      r.change ⟨a.chan.toNat, a.pos.toNat, some x⟩ fun e => fields e.refreshed := by
  unfold Roster.learnIdentity
  simp only [h, if_true]

theorem Roster.learnIdentity_of_unnamed
    (h : r.entries.any (RosterEntry.hasKey ⟨a.chan.toNat, a.pos.toNat, some x⟩) = false) {e : RosterEntry}
    (he : r.entries.find? (RosterEntry.hasKey ⟨a.chan.toNat, a.pos.toNat, none⟩) = some e) :
    r.learnIdentity a x fields =
      { r with entries := insertEntry (fields { e.refreshed with serial := some x }) (r.remove e.key).entries } := by
  unfold Roster.learnIdentity
  simp only [h, he, Bool.false_eq_true, if_false]

theorem Roster.learnIdentity_of_new
    (h : r.entries.any (RosterEntry.hasKey ⟨a.chan.toNat, a.pos.toNat, some x⟩) = false)
    (hn : r.entries.any (RosterEntry.hasKey ⟨a.chan.toNat, a.pos.toNat, none⟩) = false) :
    r.learnIdentity a x fields = r.add (fields (freshEntry a.chan.toNat a.pos.toNat (some x))) := by
  unfold Roster.learnIdentity
  simp only [h, RosterEntry.key_unnamed hn, Bool.false_eq_true, if_false]

end

section
variable {s : State} {a : Src} {x : Serial} (fields : RosterEntry → RosterEntry)

theorem learnNamed_of_own (hi : isBankAddress a = true ∧ x ≠ 0) (ho : x = s.serial ∧ isOwnAddress s a = true) :
    learnNamed s a x fields = s.ros := by
  unfold learnNamed
  rw [if_pos (by rw [hi.1, decide_eq_true hi.2]; rfl), if_pos (by simp [ho])]

theorem learnNamed_of_foreign (hi : isBankAddress a = true ∧ x ≠ 0)
    (ho : ¬ (x = s.serial ∧ isOwnAddress s a = true)) :
    learnNamed s a x fields = s.ros.learnIdentity a x fields := by
  unfold learnNamed
  rw [if_pos (by rw [hi.1, decide_eq_true hi.2]; rfl), if_neg (by simpa using ho)]

theorem learnNamed_of_plain (hi : ¬ (isBankAddress a = true ∧ x ≠ 0)) :
    learnNamed s a x fields = s.ros.learnPlain a := by
  unfold learnNamed
  rw [if_neg (by simpa using hi)]

end

/-- `t` holds the entries of `s` as a frame of serial `x` from `a` leaves them, row by row; `filled` puts the frame's
fields into an entry and refreshes it (R52, R54, R55). -/
structure LearnedNamed (a : Src) (x : Serial) (filled : RosterEntry → RosterEntry) (s t : State) : Prop where
  own : isBankAddress a = true ∧ x ≠ 0 → x = s.serial ∧ isOwnAddress s a = true →
    t.ros.entries = judgeConflicts s.ros.entries
  held : isBankAddress a = true ∧ x ≠ 0 → ¬ (x = s.serial ∧ isOwnAddress s a = true) →
    s.ros.entries.any (RosterEntry.hasKey ⟨a.chan.toNat, a.pos.toNat, some x⟩) = true →
    t.ros.entries = judgeConflicts (s.ros.entries.map fun e =>
      if e.hasKey ⟨a.chan.toNat, a.pos.toNat, some x⟩ then filled e else e)
  unnamed : isBankAddress a = true ∧ x ≠ 0 → ¬ (x = s.serial ∧ isOwnAddress s a = true) →
    s.ros.entries.any (RosterEntry.hasKey ⟨a.chan.toNat, a.pos.toNat, some x⟩) = false →
    ∀ e, s.ros.entries.find? (RosterEntry.hasKey ⟨a.chan.toNat, a.pos.toNat, none⟩) = some e →
      t.ros.entries = judgeConflicts (insertEntry (filled { e with serial := some x })
        (s.ros.entries.filter fun g => !g.hasKey e.key))
  fresh : isBankAddress a = true ∧ x ≠ 0 → ¬ (x = s.serial ∧ isOwnAddress s a = true) →
    s.ros.entries.any (RosterEntry.hasKey ⟨a.chan.toNat, a.pos.toNat, some x⟩) = false →
    s.ros.entries.any (RosterEntry.hasKey ⟨a.chan.toNat, a.pos.toNat, none⟩) = false →
    TakesIn (filled (freshEntry a.chan.toNat a.pos.toNat (some x))) s t
  plain : ¬ (isBankAddress a = true ∧ x ≠ 0) → LearnedPlain a s t

theorem learnedNamed_of_learned {s t : State} {a : Src} {x : Serial} {fields filled : RosterEntry → RosterEntry}
    (hf : ∀ e : RosterEntry, fields e.refreshed = filled e) (h : Learned (learnNamed s a x fields) t) :
    LearnedNamed a x filled s t := by
  obtain rfl : filled = fun e => fields e.refreshed := (funext hf).symm
  refine ⟨fun hi ho => ?_, fun hi ho hk => ?_, fun hi ho hk e he => ?_, fun hi ho hk hn => ?_, fun hi => ?_⟩
  · rw [h.entries, learnNamed_of_own fields hi ho]
  · rw [h.entries, learnNamed_of_foreign fields hi ho, Roster.learnIdentity_of_held hk]
    rfl
  · rw [h.entries, learnNamed_of_foreign fields hi ho, Roster.learnIdentity_of_unnamed hk he]
    rfl
  · rw [learnNamed_of_foreign fields hi ho, Roster.learnIdentity_of_new hk hn] at h
    exact takesIn_of_learned h
  · rw [learnNamed_of_plain fields hi] at h
    exact learnedPlain_of_learned h

/-- The entries and the conflicts of a state whose tracker alone is set afterwards are those of the settlement. -/
theorem learned_of_ros {s t : State} {r : Roster} (h : t.ros = (settle (s.setRos r)).ros) : Learned r t := by
  obtain ⟨he, hu⟩ := settle_learned s r
  exact ⟨by rw [h]; exact he, by rw [h]; exact hu⟩

/-! ### The JOIN -/

theorem noteBreak_eq (s : State) (head : Option Nat) (a : Src) (b : JoinBody) : noteBreak s head a b =
    s.setTrk { s.trk with brk := if recordsBreak s head a b then some ⟨b.startSeq, 30000⟩ else s.trk.brk } := by
  unfold noteBreak
  split <;> rfl

theorem recordsBreak_iff (s : State) (head : Option Nat) (a : Src) (b : JoinBody) :
    recordsBreak s head a b = true ↔ isBankAddress a = true ∧ a.chan.toNat = s.ldr.straps.channel ∧
      s.ldr.digest = some b.digest ∧ ∀ h, head = some h → a.pos.toNat < h := by
  cases head <;> simp [recordsBreak, fromOwnChannelBank, and_assoc]

/-- The part with a JOIN's entry learned and judged; the reading of its frame has ended. -/
def joinLearned (s : State) (a : Src) (b : JoinBody) : State :=
  settle ((s.setBus s.bus.frameTaken).setRos (learnNamed s a b.serial (joinFields b)))

theorem exec_joinReceived {s : State} (a : Src) (b : JoinBody) (h : TakesFrames s) : exec (.joinReceived a b) s =
    .next (noteBreak (joinLearned s a b) (currentHead (ownView s) s.ros) a b) := by
  refine congrArg Host.Outcome.next (frameEvent_of_takes _ h ?_)
  simp only [noteBreak_eq]
  exact settle_restarting _

theorem noteBreak_joinLearned_brk (s : State) (head : Option Nat) (a : Src) (b : JoinBody) :
    (noteBreak (joinLearned s a b) head a b).trk.brk =
      if recordsBreak s head a b then some ⟨b.startSeq, 30000⟩ else s.trk.brk := by
  have hbrk : (joinLearned s a b).trk.brk = s.trk.brk := (settle_trk_keeps _).2.1
  have hldr : (joinLearned s a b).ldr = s.ldr := by simp [joinLearned]
  have hrec : recordsBreak (joinLearned s a b) head a b = recordsBreak s head a b := by
    simp only [recordsBreak, fromOwnChannelBank, hldr]
  rw [noteBreak_eq, hrec, hbrk]
  rfl

/-- Settles O24: the rows of a frame with a serial, with the fields of a JOIN, and its pending break. -/
theorem joinStartsAnEntryAfresh : Obligations.JoinStartsAnEntryAfresh := by
  unfold Obligations.JoinStartsAnEntryAfresh
  intro a b s h
  have hlearned := learnedNamed_of_learned (filled := fun e => joinFields b e.refreshed) (fun _ => rfl)
    (learned_of_ros (t := noteBreak (joinLearned s a b) (currentHead (ownView s) s.ros) a b)
      (by rw [noteBreak_eq]; rfl))
  refine ⟨_, exec_joinReceived a b h, ?_, hlearned.own, hlearned.held, hlearned.unnamed, hlearned.fresh,
    hlearned.plain, ?_⟩
  · rw [noteBreak_eq]
    apply learning_onlyChanges <;> simp [joinLearned]
  · rw [noteBreak_joinLearned_brk]
    simp only [recordsBreak_iff]
    rfl

/-! ### The STATUS -/

theorem statusWatermark_eq (s : State) (a : Src) (b : StatusBody) : statusWatermark s a b =
    s.setTrk (if ownChannel s a && decide (b.present ≠ 0) then s.trk.offerWatermark b.nextSeq else s.trk) := by
  unfold statusWatermark
  split <;> rfl

/-- The watermark takes a candidate when it is absent or earlier (R35). -/
theorem Tracker.offerWatermark_watermark (t : Tracker) (c : Seq) : (t.offerWatermark c).watermark =
    some (t.watermark.elim c fun w => if 0 < (c - w).toInt then c else w) := by
  unfold Tracker.offerWatermark
  cases hw : t.watermark with
  | none => rfl
  | some w =>
    simp only [seqLater_iff, Option.elim]
    split <;> simp [hw]

theorem wipingAfterStatus_eq (flags : BitVec 16) (w : Option Nat) : wipingAfterStatus flags w =
    if flags.getLsbD 0 then some (w.getD 0) else w.bind fun age => if age < 2000 then some age else none := by
  unfold wipingAfterStatus wipingFlag
  generalize flags.getLsbD 0 = wiping
  cases w with
  | none => cases wiping <;> rfl
  | some age =>
    rcases Nat.lt_or_ge age 2000 with hage | hage
    · simp [hage, Nat.not_le.mpr hage]
    · simp [hage, Nat.not_lt.mpr hage]

/-- An entry refreshed and filled by a STATUS (R52, R55, R56). -/
theorem statusFields_refreshed (b : StatusBody) (e : RosterEntry) : statusFields b e.refreshed =
    { e with
      state := .active, mode := some (modeOfCode b.mode), digest := some (if b.mode = 5 then 0 else b.digest)
      p := some b.p.toNat, flags := b.flags, lastHeard := 0, sinceLost := none
      wiping := if b.flags.getLsbD 0 then some (e.wiping.getD 0)
        else e.wiping.bind fun age => if age < 2000 then some age else none } := by
  simp only [statusFields, wipingAfterStatus_eq, statusDigest, RosterEntry.refreshed]

/-- The part with a STATUS's entry learned and judged; the reading of its frame has ended. -/
def statusLearned (s : State) (a : Src) (b : StatusBody) : State :=
  settle ((s.setBus s.bus.frameTaken).setRos (learnNamed s a b.serial (statusFields b)))

theorem exec_statusReceived {s : State} (a : Src) (b : StatusBody) (h : TakesFrames s) :
    exec (.statusReceived a b) s = .next (statusWatermark (statusLearned s a b) a b) := by
  refine congrArg Host.Outcome.next (frameEvent_of_takes _ h ?_)
  simp only [statusWatermark_eq]
  exact settle_restarting _

theorem statusWatermark_statusLearned (s : State) (a : Src) (b : StatusBody) :
    (statusWatermark (statusLearned s a b) a b).trk.watermark =
      if a.chan.toNat = s.ldr.straps.channel ∧ b.present ≠ 0 then
        some (s.trk.watermark.elim b.nextSeq fun w => if 0 < (b.nextSeq - w).toInt then b.nextSeq else w)
      else s.trk.watermark := by
  have hmark : (statusLearned s a b).trk.watermark = s.trk.watermark := (settle_trk_keeps _).1
  have hldr : (statusLearned s a b).ldr = s.ldr := by simp [statusLearned]
  rw [statusWatermark_eq]
  simp only [ownChannel, hldr, Bool.and_eq_true, decide_eq_true_eq]
  split
  · change ((statusLearned s a b).trk.offerWatermark b.nextSeq).watermark = _
    rw [Tracker.offerWatermark_watermark, hmark]
  · exact hmark

/-- Settles O25: the rows of a frame with a serial, with the fields of a STATUS, and the watermark's rule. -/
theorem statusFillsItsEntry : Obligations.StatusFillsItsEntry := by
  unfold Obligations.StatusFillsItsEntry
  intro a b s h
  have hlearned := learnedNamed_of_learned (statusFields_refreshed b)
    (learned_of_ros (t := statusWatermark (statusLearned s a b) a b) (by rw [statusWatermark_eq]; rfl))
  refine ⟨_, exec_statusReceived a b h, ?_, hlearned.own, hlearned.held, hlearned.unnamed, hlearned.fresh,
    hlearned.plain, fun hno => ?_, fun hchan hpresent => ?_⟩
  · rw [statusWatermark_eq]
    apply learning_onlyChanges <;> simp [statusLearned]
  · rw [statusWatermark_statusLearned, if_neg]
    rintro ⟨hchan, hpresent⟩
    rcases hno with hno | hno <;> contradiction
  · rw [statusWatermark_statusLearned, if_pos ⟨hchan, hpresent⟩]
    refine ⟨fun hw => by rw [hw]; rfl, fun w hw => ?_⟩
    rw [hw]
    simp only [Option.elim]
    split <;> rfl

end Sys2Proof.Machine
end

section
/-! The image read and judged, and LISTEN entered with it (O9). -/

namespace Sys2Proof.Machine

/-! ### The fields of an image (R190) -/

theorem imgByte_lt (img : List Byte) (i : Nat) : imgByte img i < 256 := (img.getD i 0).isLt

theorem img16_eq (img : List Byte) (i : Nat) : img16 img i = 256 * imgByte img i + imgByte img (i + 1) := by
  unfold img16; omega

theorem img24_eq (img : List Byte) (i : Nat) :
    img24 img i = 65536 * imgByte img i + img16 img (i + 1) := by
  unfold img24 img16
  rw [show i + 1 + 1 = i + 2 from rfl]
  omega

theorem img24_lt (img : List Byte) (i : Nat) : img24 img i < 2 ^ 24 := by
  have h0 := imgByte_lt img i
  have h1 := imgByte_lt img (i + 1)
  have h2 := imgByte_lt img (i + 2)
  unfold img24 img16
  omega

/-- The mask of the fitted lamps loses nothing of its three bytes. -/
theorem parseImage_fitted_toNat (img : List Byte) : (parseImage img).fitted.toNat = img24 img 58 :=
  (BitVec.toNat_ofNat _ _).trans (Nat.mod_eq_of_lt (img24_lt img 58))

theorem imageFormed_iff (img : List Byte) : imageFormed img = true ↔ img.length = 72 ∧ img16 img 0 = 0xD620 ∧
    imgByte img 2 = 1 ∧ imgByte img 3 = 72 ∧ img16 img 70 = (crc16 (img.take 70)).toNat := by
  simp only [imageFormed, Bool.and_eq_true, decide_eq_true_eq, and_assoc, eq_comm (a := img16 img 70)]

/-! ### The ranges (R193) -/

theorem strictlyRising_iff (l : List Nat) : strictlyRising l = true ↔ l.Pairwise (· < ·) := by
  rw [← List.isChain_iff_pairwise]
  induction l with
  | nil => simp [strictlyRising]
  | cons a rest ih =>
    cases rest with
    | nil => simp [strictlyRising]
    | cons c rest => simp [strictlyRising, ih]

theorem mem_fittedIndices (mask : BitVec 24) (i : Nat) :
    i ∈ fittedIndices mask ↔ 1 ≤ i ∧ i ≤ 24 ∧ mask.getLsbD (i - 1) = true := by
  simp only [fittedIndices, List.mem_filter, List.mem_map, List.mem_range]
  constructor
  · rintro ⟨⟨k, hk, rfl⟩, hm⟩
    exact ⟨by omega, by omega, hm⟩
  · rintro ⟨h1, h2, hm⟩
    exact ⟨⟨i - 1, by omega, by omega⟩, hm⟩

theorem fittedIndices_length (mask : BitVec 24) :
    (fittedIndices mask).length = (List.range 24).countP fun k => mask.getLsbD k := by
  rw [fittedIndices, ← List.countP_eq_length_filter, List.countP_map]
  rfl

theorem fittedIndices_all (c : ImageCfg) :
    (fittedIndices c.fitted).all (fun i => decide (ballastOf i ≤ c.ballasts) && decide (moduleOf i ≤ c.nMod)) = true ↔
      ∀ i, 1 ≤ i → i ≤ 24 → c.fitted.getLsbD (i - 1) = true → (i + 1) / 2 ≤ c.ballasts ∧ (i + 3) / 4 ≤ c.nMod := by
  simp only [List.all_eq_true, mem_fittedIndices, Bool.and_eq_true, decide_eq_true_eq]
  exact forall_congr' fun i => ⟨fun h h1 h2 h3 => h ⟨h1, h2, h3⟩, fun h ⟨h1, h2, h3⟩ => h h1 h2 h3⟩

/-- R193 range by range, in the order of its table. -/
theorem rangesHold_iff (c : ImageCfg) : rangesHold c = true ↔
    5000 ≤ c.dT ∧ c.dT ≤ 400000 ∧ c.margin ≤ 50 ∧ 100 ≤ c.vP ∧ c.vP ≤ 5000 ∧ c.area ≠ 0 ∧ c.exposure ≠ 0 ∧
    1 ≤ c.z ∧ c.z ≤ 14 * c.vP ∧ 12 * c.qMin ≤ 10 * c.qSpan ∧ c.qDesign ≤ c.qSpan ∧ 1 ≤ c.qSpan ∧
    c.uvtWorst ≤ 1000 ∧ c.holdFrac ≤ 100 ∧ (c.table.Pairwise fun p q => p.1 < q.1) ∧
    (∀ p ∈ c.table, p.1 ≤ 1000 ∧ p.2 ≤ 4095) ∧ c.sensorSpan ≠ 0 ∧ 1 ≤ c.nMod ∧ c.nMod ≤ 6 ∧
    (∀ i, 1 ≤ i → i ≤ 24 → c.fitted.getLsbD (i - 1) = true → (i + 1) / 2 ≤ c.ballasts ∧ (i + 3) / 4 ≤ c.nMod) ∧
    1 ≤ c.ballasts ∧ c.ballasts ≤ 12 ∧ c.eNom ≠ 0 ∧ 60 ≤ c.warmup ∧ c.warmup ≤ 300 ∧ 1 ≤ c.minLit ∧
    c.minLit ≤ (List.range 24).countP (fun k => c.fitted.getLsbD k) ∧ 15 ≤ c.wipeMin ∧ c.wipeMin ≤ 480 ∧
    50 ≤ c.foulThr ∧ c.foulThr ≤ 95 := by
  have htable : c.table.all (fun p => decide (p.1 ≤ 1000) && decide (p.2 ≤ 4095)) = true ↔
      ∀ p ∈ c.table, p.1 ≤ 1000 ∧ p.2 ≤ 4095 := by
    simp only [List.all_eq_true, Bool.and_eq_true, decide_eq_true_eq]
  unfold rangesHold
  simp only [Bool.and_eq_true, strictlyRising_iff, List.pairwise_map, htable, fittedIndices_all, fittedIndices_length,
    decide_eq_true_eq, and_assoc]

/-! ### The hold condition (R90, R91) -/

/-- The judgement in the words of the statements. -/
theorem Planner.judgeHold_judged (p : Planner) (q qMin : Nat) :
    ((p.judgeHold q qMin).holdCond, (p.judgeHold q qMin).holdTimer) = holdJudged qMin p q := by
  unfold Planner.judgeHold holdJudged
  cases hc : p.holdCond with
  | true => simp only [if_true]; split <;> simp [hc]
  | false =>
    simp only [Bool.false_eq_true, if_false]
    cases ht : p.holdTimer with
    | none =>
      simp only
      split <;> simp [hc, ht]
    | some age =>
      rcases Nat.lt_or_ge q qMin with h | h
      · simp [hc, ht, h, Nat.not_le.mpr h]
      · simp [h, Nat.not_lt.mpr h]

/-- A planner that holds the flow and the judgement of `judgeHold s` follows that flow. -/
theorem holdFollows_judgeHold {s t : State} (hldr : t.ldr = s.ldr) (hflow : t.pln.flow = s.pln.flow)
    (hcond : t.pln.holdCond = (judgeHold s).pln.holdCond) (htimer : t.pln.holdTimer = (judgeHold s).pln.holdTimer) :
    HoldFollows s t := by
  have hq : flowTaken t = flowQ s := by rw [← flowTaken_eq]; simp only [flowTaken, hflow, hldr]
  unfold HoldFollows
  rw [hcond, htimer, hq, hldr]
  exact Planner.judgeHold_judged _ _ _

/-! ### LISTEN entered -/

/-- A lamp event before readback has completed judges the setpoint alone (R108, R134). -/
theorem lampEvent_of_readback {s : State} {fs : List (Option BallastReply)} (h : s.link.phase = .readback fs) :
    lampEvent s = refreshSetpoint s := by
  have hphase : (refreshSetpoint s).link.phase = .readback fs := by simp [h]
  have hjudge : judgeLamps (refreshSetpoint s) = refreshSetpoint s := by
    unfold judgeLamps linkRuns
    rw [hphase]
    rfl
  unfold lampEvent pump
  rw [hjudge, hphase, if_neg (by simp)]

theorem refreshSetpoint_of_listen {s : State} (h : s.ctl.mode = .listen) :
    refreshSetpoint s = s.setPln { s.pln with fReq := fMin s } := by
  unfold refreshSetpoint; rw [h]

/-- The part on its way into LISTEN, before its hold condition and its roster are judged (R65). -/
def listenBegun (s : State) (cfg : ImageCfg) (digest : Digest) : State :=
  let s := s.setLdr { s.ldr with cfg := cfg, digest := some digest }
  let s := s.setCtl { s.ctl with mode := .listen, listenTimer := some 0 }
  let s := startReadback (fitLamps (startAccrual (addSelf s)) cfg.fitted cfg.eNom) cfg.ballasts
  let s := s.setScn { s.scn with timer := some 0, scan := some 0 }
  s.setWip { s.wip with interval := if s.wip.state = .absent then none else some 0 }

theorem listenBegun_link (s : State) (c : ImageCfg) (d : Digest) : (listenBegun s c d).link.phase = .readback [] ∧
    (listenBegun s c d).link.count = c.ballasts ∧ (listenBegun s c d).link.visit.map (·.ballast) = some 1 :=
  ⟨rfl, rfl, rfl⟩

theorem listenBegun_blocks (s : State) (c : ImageCfg) (d : Digest) :
    (listenBegun s c d).ldr = { s.ldr with cfg := c, digest := some d } ∧
      (listenBegun s c d).trk = { s.trk with accrual := some 0 } ∧
      (listenBegun s c d).ros.entries = insertEntry (selfOf s) s.ros.entries ∧ (listenBegun s c d).pln = s.pln ∧
      (listenBegun s c d).seq.lamps = s.seq.lamps.map (fun l =>
        { l with fitted := c.fitted.getLsbD (l.index - 1), e := c.eNom }) ∧
      (listenBegun s c d).scn = { s.scn with timer := some 0, scan := some 0 } ∧
      (listenBegun s c d).wip = { s.wip with interval := if s.wip.state = .absent then none else some 0 } ∧
      (listenBegun s c d).bus = s.bus ∧ (listenBegun s c d).cmd = s.cmd := by
  simp [listenBegun, startAccrual, addSelf, fitLamps, setLamps]
  rfl

/-- LISTEN is entered with three judgements: the hold condition, the roster and F_min. -/
theorem enterListen_eq (s : State) (c : ImageCfg) (d : Digest) : enterListen s c d =
    (let u := judgeRoster (judgeHold (listenBegun s c d))
     u.setPln { u.pln with fReq := fMin u }) := by
  have hmode : (judgeHold (listenBegun s c d)).ctl.mode = .listen := by simp [listenBegun]
  have hlink : (judgeRoster (judgeHold (listenBegun s c d))).link.phase = .readback [] := by
    simpa using (listenBegun_link s c d).1
  change lampEvent (settle (judgeHold (listenBegun s c d))) = _
  rw [settle_of_quiet (by rw [hmode]; rfl) (by rw [hmode]; decide), lampEvent_of_readback hlink,
    refreshSetpoint_of_listen ((judgeRoster_mode _).trans hmode)]

/-- The blocks of LISTEN as it is entered. -/
theorem enterListen_blocks (s : State) (c : ImageCfg) (d : Digest) :
    (enterListen s c d).ldr = { s.ldr with cfg := c, digest := some d } ∧
      (enterListen s c d).trk = { s.trk with accrual := some 0 } ∧
      (enterListen s c d).seq.lamps = s.seq.lamps.map (fun l =>
        { l with fitted := c.fitted.getLsbD (l.index - 1), e := c.eNom }) ∧
      (enterListen s c d).scn = { s.scn with timer := some 0, scan := some 0 } ∧
      (enterListen s c d).wip = { s.wip with interval := if s.wip.state = .absent then none else some 0 } ∧
      (enterListen s c d).bus = s.bus ∧ (enterListen s c d).cmd = s.cmd := by
  obtain ⟨hldr, htrk, -, -, hseq, hscn, hwip, hbus, hcmd⟩ := listenBegun_blocks s c d
  rw [enterListen_eq]
  simp [hldr, htrk, hseq, hscn, hwip, hbus, hcmd]

theorem enterListen_link (s : State) (c : ImageCfg) (d : Digest) : (enterListen s c d).link.phase = .readback [] ∧
    (enterListen s c d).link.count = c.ballasts ∧ (enterListen s c d).link.visit.map (·.ballast) = some 1 := by
  have hlink : (enterListen s c d).link = (listenBegun s c d).link := by rw [enterListen_eq]; simp
  rw [hlink]
  exact listenBegun_link s c d

theorem enterListen_ctl (s : State) (c : ImageCfg) (d : Digest) : (enterListen s c d).ctl.mode = .listen ∧
    (enterListen s c d).ctl.listenTimer = some 0 ∧ (enterListen s c d).ctl.statusTimer = s.ctl.statusTimer := by
  rw [enterListen_eq]
  exact ⟨rfl, rfl, rfl⟩

theorem enterListen_entries (s : State) (c : ImageCfg) (d : Digest) :
    (enterListen s c d).ros.entries = judgeConflicts (insertEntry (selfOf s) s.ros.entries) := by
  obtain ⟨-, -, hros, -⟩ := listenBegun_blocks s c d
  rw [enterListen_eq, ← hros]
  rfl

theorem enterListen_pln (s : State) (c : ImageCfg) (d : Digest) : ∃ v,
    (enterListen s c d).pln = { (judgeHold (listenBegun s c d)).pln with fReq := v } := by
  rw [enterListen_eq]
  exact ⟨_, rfl⟩

theorem Planner.judgeHold_flow (p : Planner) (q qMin : Nat) : (p.judgeHold q qMin).flow = p.flow := by
  unfold Planner.judgeHold
  split
  · split <;> rfl
  · split <;> split <;> rfl

theorem enterListen_holdFollows (s : State) (c : ImageCfg) (d : Digest) : HoldFollows s (enterListen s c d) := by
  obtain ⟨v, hpln⟩ := enterListen_pln s c d
  have hldr : (enterListen s c d).ldr = (listenBegun s c d).ldr := by rw [enterListen_eq]; simp
  have hflow : (judgeHold (listenBegun s c d)).pln.flow = (listenBegun s c d).pln.flow :=
    Planner.judgeHold_flow _ _ _
  obtain ⟨-, -, -, hsame, -⟩ := listenBegun_blocks s c d
  have hfollows := holdFollows_judgeHold hldr (by rw [hpln]; exact hflow) (by rw [hpln]) (by rw [hpln])
  unfold HoldFollows at hfollows ⊢
  rwa [hsame] at hfollows

theorem exec_imageReadComplete_passed {s : State} {img : List Byte} (h : Runs s) (hm : s.ctl.mode = .loading)
    (hf : imageFormed img = true) (hr : rangesHold (parseImage img) = true) :
    exec (.imageReadComplete img) s = .next (enterListen s (parseImage img) (imageDigest img)) := by
  have hpass : imageFailure img = none := by unfold imageFailure; rw [if_pos hf, if_pos hr]
  refine congrArg Host.Outcome.next ((event_of_runs _ h ?_).trans ?_)
  · rw [if_pos hm, hpass]; exact enterListen_restarting _ _ _
  · rw [if_pos hm, hpass]

/-- Settles O9: LISTEN entered with the image in service, and the image's fields and ranges. -/
theorem loadedImageEntersListen : Obligations.LoadedImageEntersListen := by
  unfold Obligations.LoadedImageEntersListen
  refine ⟨fun img s h hm hf hr => ?_, fun img => ?_, rangesHold_iff⟩
  · refine ⟨_, exec_imageReadComplete_passed h hm hf hr, ?_⟩
    obtain ⟨hpending, hserial, hhold, -⟩ := enterListen_keeps s (parseImage img) (imageDigest img)
    obtain ⟨hldr, htrk, hlamps, hscn, hwip, hbus, hcmd⟩ := enterListen_blocks s (parseImage img) (imageDigest img)
    obtain ⟨hmode, hlisten, hstatus⟩ := enterListen_ctl s (parseImage img) (imageDigest img)
    obtain ⟨hphase, hcount, hvisit⟩ := enterListen_link s (parseImage img) (imageDigest img)
    refine ⟨fun b hb => ?_, hmode, hlisten, hstatus, hldr, htrk, enterListen_entries _ _ _,
      enterListen_holdFollows _ _ _, hphase, hcount, hvisit, hlamps, hscn, hwip⟩
    cases b <;> simp at hb <;> assumption
  · intro at1 at2 at3 c
    have hat2 : ∀ i, at2 i = img16 img i := fun i => (img16_eq img i).symm
    have hat3 : ∀ i, at3 i = img24 img i := fun i => by rw [img24_eq, ← hat2]; rfl
    simp only [hat2, hat3]
    exact ⟨imageFormed_iff img, rfl, rfl, rfl, rfl, rfl, rfl, rfl, rfl, rfl, rfl, rfl, rfl, rfl,
      parseImage_fitted_toNat img, rfl, rfl, rfl, rfl, rfl, rfl, rfl, rfl⟩

end Sys2Proof.Machine
end

section
/-! LISTEN ends without a reason: the JOIN, the part dosing again, and what LISTEN held of a reply (O10). -/

namespace Sys2Proof.Machine

/-! ### Posting where there is room -/

theorem post_eq_withPosted {s : State} (b : Body) (h : s.bus.queue.length < 12) :
    post s b = s.setBus (withPosted s b) := post_of_room s b h

/-- A posted frame takes at most one place. -/
theorem withPosted_length_le (s : State) (b : Body) : (withPosted s b).queue.length ≤ s.bus.queue.length + 1 := by
  unfold withPosted
  simp only
  split
  · have htypes := congrArg List.length (renew_types (ownFrame s b) s.bus.queue)
    simp only [List.length_map] at htypes
    omega
  · rw [length_enqueue]

/-- A posted frame is made of the bus and the straps alone. -/
theorem withPosted_congr {s u : State} (hbus : u.bus = s.bus) (hldr : u.ldr = s.ldr) (b : Body) :
    withPosted u b = withPosted s b := by
  simp only [withPosted, ownFrame, ownSrc, hbus, hldr]

/-! ### DOSING or HOLD entered -/

theorem startOnce_eq (strap : Bool) (t : Option Nat) :
    startOnce strap t = if strap = true ∧ t = none then some 0 else t := by
  cases t <;> simp [startOnce]

theorem enterDosing_blocks (s : State) (w : HeadWay) :
    (enterDosing s w).pending = s.pending ∧ (enterDosing s w).serial = s.serial ∧ (enterDosing s w).hold = s.hold ∧
      (enterDosing s w).ldr = s.ldr ∧ (enterDosing s w).seq = s.seq ∧ (enterDosing s w).link = s.link ∧
      (enterDosing s w).scn = s.scn ∧ (enterDosing s w).wip = s.wip ∧ (enterDosing s w).bus = s.bus ∧
      (enterDosing s w).cmd = s.cmd := by
  simp [enterDosing]

/-- The FLOW and the UVT timer of a strapped source start where they have not (R77, R80). -/
theorem enterDosing_pln (s : State) (w : HeadWay) : (enterDosing s w).pln = { s.pln with
    flowTimer := if s.ldr.straps.flowSrc = true ∧ s.pln.flowTimer = none then some 0 else s.pln.flowTimer
    uvtTimer := if s.ldr.straps.uvtSrc = true ∧ s.pln.uvtTimer = none then some 0 else s.pln.uvtTimer } := by
  simp [enterDosing, startSourceTimers, startOnce_eq]

theorem enterDosing_timers (s : State) (w : HeadWay) : (enterDosing s w).ctl.listenTimer = s.ctl.listenTimer ∧
    (enterDosing s w).ctl.statusTimer = s.ctl.statusTimer := by
  simp [enterDosing, judgeRoster, setMode]

/-- A bank without a role creates from its new role alone (R43). -/
theorem enterDosing_trk {s : State} (w : HeadWay) (h : s.ros.role = .noRole) : (enterDosing s w).trk =
    if (enterDosing s w).ros.role.numbers then s.trk.begin s.ldr.cfg.z s.ldr.straps.position w else s.trk := by
  have hrole : (judgeRoster (startSourceTimers (setMode s (dosingMode s)))).ros.role.numbers = false := by
    simp [judgeRoster_ros, Roster.judge, h, Role.numbers]
  unfold enterDosing
  generalize hu : judgeRoster (startSourceTimers (setMode s (dosingMode s))) = u at hrole ⊢
  have htrk : u.trk = s.trk := by rw [← hu]; simp
  have hldr : u.ldr = s.ldr := by rw [← hu]; simp
  rw [applyRole_roster]
  unfold applyRole
  simp only [State.setRos_trk, State.setTrk_trk, hrole, htrk, hldr, Bool.not_false, Bool.and_true, Bool.and_false,
    Bool.false_eq_true, if_false]

theorem Tracker.begin_byJoining {t : Tracker} (z own : Nat) (start : Seq) (h : t.nextExpected = none) :
    t.begin z own (.byJoining start) = { t with
      creationMark := t.counter, creating := true, firstResync := false, nextExpected := some start } :=
  Tracker.expectFrom_of_none (t := { t with creationMark := t.counter, creating := true, firstResync := false }) start h

/-- In DOSING and HOLD F_req is not the lamp events' (R89). -/
theorem lampEvent_pln_of_doses {s : State} (h : s.ctl.mode.doses = true) : (lampEvent s).pln = s.pln := by
  have hset : refreshSetpoint s = s := by
    unfold refreshSetpoint
    rcases (doses_iff _).mp h with hm | hm <;> rw [hm]
  simp [lampEvent, hset]

/-! ### What LISTEN held of a reply (R196, R197) -/

theorem releaseHeld_of_none {s : State} (h : s.cmd.reply = none) : releaseHeld s = s := by
  unfold releaseHeld; rw [h]

theorem releaseHeld_of_answer {s : State} {code outcome : Byte} (h : s.cmd.reply = some (.heldAnswer code outcome))
    (hroom : s.bus.queue.length < 12) : releaseHeld s =
      (s.setCmd { s.cmd with reply := none }).setBus (withPosted s (.report (answerBody code outcome))) := by
  unfold releaseHeld
  simp only [h]
  exact post_eq_withPosted (s := setReply s none) _ hroom

/-- The first frame of a reply to a QUERY, and the records owed after it (R197). -/
theorem releaseHeld_of_query {s : State} {table start count : Nat}
    (h : s.cmd.reply = some (.heldQuery table start count)) (hroom : s.bus.queue.length < 12) :
    releaseHeld s =
      (let total := replyLength s table start count
       let first := min total (perFrame table)
       (s.setCmd { s.cmd with
          reply := some (.running table (start + first) (total - first) s.bus.nextTicket) }).setBus
        (withPosted s (.report (dataBody s table start first)))) := by
  have howed : ∀ n m : Nat, n - m = n - min n m := by omega
  unfold releaseHeld
  simp only [h]
  unfold beginReply postData
  rw [post_eq_withPosted _ (by simpa using hroom), howed]
  rfl

theorem releaseHeld_wip_of_room {s : State} (hroom : s.bus.queue.length < 12) : (releaseHeld s).wip = s.wip := by
  cases hreply : s.cmd.reply with
  | none => rw [releaseHeld_of_none hreply]
  | some r =>
    cases r with
    | heldAnswer code outcome => rw [releaseHeld_of_answer hreply hroom]; rfl
    | heldQuery table start count => rw [releaseHeld_of_query hreply hroom]; rfl
    | running table next owed ticket => unfold releaseHeld; rw [hreply]

/-- The first frame of a held QUERY, block by block; the reply itself and the queue stand in no table. -/
theorem releaseHeld_query_blocks {s : State} {table start count : Nat}
    (h : s.cmd.reply = some (.heldQuery table start count)) (hroom : s.bus.queue.length < 12) :
    (releaseHeld s).cmd = { s.cmd with
      reply := some (.running table (start + min (replyLength s table start count) (perFrame table))
        (replyLength s table start count - min (replyLength s table start count) (perFrame table))
        s.bus.nextTicket) } ∧
      (releaseHeld s).bus = withPosted s (.report
        (dataBody s table start (min (replyLength s table start count) (perFrame table)))) ∧
      tableRecords (releaseHeld s) table = tableRecords s table := by
  rw [releaseHeld_of_query h hroom]
  exact ⟨rfl, rfl, rfl⟩

/-! ### The JOIN (R70, R187) -/

theorem startSeq_eq (s : State) : startSeq s = startOf s.trk.watermark := by
  unfold startSeq Tracker.guardedStart startOf
  cases s.trk.watermark <;> rfl

theorem capability_bits : ∀ n < 8, ∀ wiper flow uvt : Bool,
    BitVec.ofNat 8 (n + (if wiper then 8 else 0) + (if flow then 16 else 0) + (if uvt then 32 else 0)) =
      0#2 ++ BitVec.ofBool uvt ++ BitVec.ofBool flow ++ BitVec.ofBool wiper ++ BitVec.ofNat 3 n := by decide

theorem capability_eq (s : State) : capability s = 0#2 ++ BitVec.ofBool s.ldr.straps.uvtSrc ++
    BitVec.ofBool s.ldr.straps.flowSrc ++ BitVec.ofBool s.ldr.straps.wipeFit ++ BitVec.ofNat 3 s.ldr.cfg.nMod := by
  have hlow : BitVec.ofNat 3 s.ldr.cfg.nMod = BitVec.ofNat 3 (s.ldr.cfg.nMod % 8) :=
    BitVec.eq_of_toNat_eq (by simp)
  unfold capability
  rw [hlow]
  exact capability_bits _ (Nat.mod_lt _ (by decide)) _ _ _

theorem joinBody_eq (s : State) : joinBody s =
    { serial := s.serial, cause := s.ctl.resetCause.code, digest := s.ldr.digest.getD 0
      startSeq := startOf s.trk.watermark
      capability := 0#2 ++ BitVec.ofBool s.ldr.straps.uvtSrc ++ BitVec.ofBool s.ldr.straps.flowSrc ++
        BitVec.ofBool s.ldr.straps.wipeFit ++ BitVec.ofNat 3 s.ldr.cfg.nMod } := by
  rw [← startSeq_eq, ← capability_eq]; rfl

/-! ### LISTEN ends -/

/-- The part as it joins: LISTEN's timer has ended, the STATUS timer runs and the JOIN waits. -/
def joining (s : State) : State :=
  (s.setCtl { s.ctl with listenTimer := none, statusTimer := some 0 }).setBus (withPosted s (.join (joinBody s)))

/-- The part in DOSING or HOLD, before it turns to a held reply. -/
def joined (s : State) : State := lampEvent (enterDosing (joining s) (.byJoining (startSeq s)))

theorem listenOver_of_clear {s : State} (hr : reasonStands s = false) (hroom : s.bus.queue.length < 12) :
    listenOver s = joined s := by
  have hclear : reasonStands (s.setCtl { s.ctl with listenTimer := none, statusTimer := some 0 }) = false := hr
  unfold listenOver
  simp only [hclear, Bool.false_eq_true, if_false]
  rw [post_eq_withPosted _ (by simpa using hroom)]
  rfl

theorem exec_listenEnd {s : State} (h : Runs s) (hm : s.ctl.mode = .listen) :
    exec .listenEnd s = .next (releaseHeld (listenOver s)) := by
  refine congrArg Host.Outcome.next ((event_of_runs _ h ?_).trans ?_)
  · rw [if_pos hm, releaseHeld_restarting]
    exact listenOver_restarting s
  · rw [if_pos hm]

theorem joined_blocks (s : State) :
    (joined s).pending = s.pending ∧ (joined s).serial = s.serial ∧ (joined s).hold = s.hold ∧ (joined s).ldr = s.ldr ∧
      (joined s).scn = s.scn ∧ (joined s).wip = s.wip ∧ (joined s).bus = withPosted s (.join (joinBody s)) ∧
      (joined s).cmd = s.cmd := by
  obtain ⟨h1, h2, h3, h4, -, -, h5, h6, h7, h8⟩ := enterDosing_blocks (joining s) (.byJoining (startSeq s))
  simp only [joined, lampEvent_keeps, h1, h2, h3, h4, h5, h6, h7, h8]
  exact ⟨rfl, rfl, rfl, rfl, rfl, rfl, rfl, rfl⟩

theorem joined_ctl (s : State) : (joined s).ctl.mode = (if s.pln.holdCond then .hold else .dosing) ∧
    (joined s).ctl.listenTimer = none ∧ (joined s).ctl.statusTimer = some 0 := by
  obtain ⟨hlisten, hstatus⟩ := enterDosing_timers (joining s) (.byJoining (startSeq s))
  simp only [joined, lampEvent_keeps, enterDosing_mode, hlisten, hstatus]
  exact ⟨rfl, rfl, rfl⟩

theorem joined_pln (s : State) : (joined s).pln = { s.pln with
    flowTimer := if s.ldr.straps.flowSrc = true ∧ s.pln.flowTimer = none then some 0 else s.pln.flowTimer
    uvtTimer := if s.ldr.straps.uvtSrc = true ∧ s.pln.uvtTimer = none then some 0 else s.pln.uvtTimer } := by
  rw [joined, lampEvent_pln_of_doses (by rw [enterDosing_mode]; exact dosingMode_doses _), enterDosing_pln]
  rfl

theorem joined_role (s : State) : (joined s).ros.role = roleOf (joined s).ros.up (joined s).ros.down := by
  simp only [joined, lampEvent_keeps]
  exact enterDosing_role _ _

/-- At HEAD or SOLE creation begins at start_seq; elsewhere the tracker is left alone (R43, R44). -/
theorem joined_trk {s : State} (hrole : s.ros.role = .noRole) (hn : s.trk.nextExpected = none) : (joined s).trk =
    if (joined s).ros.role.numbers then { s.trk with
      creationMark := s.trk.counter, creating := true, firstResync := false
      nextExpected := some (startOf s.trk.watermark) }
    else s.trk := by
  have hbegin := enterDosing_trk (s := joining s) (.byJoining (startSeq s)) hrole
  rw [Tracker.begin_byJoining (t := (joining s).trk) _ _ _ hn, startSeq_eq] at hbegin
  simp only [joined, lampEvent_keeps, startSeq_eq]
  exact hbegin

/-- Settles O10: LISTEN's end without a reason, by what LISTEN held of a reply. -/
theorem listenEndsWithAJoin : Obligations.ListenEndsWithAJoin := by
  unfold Obligations.ListenEndsWithAJoin
  intro s h hparcels hm hr hqueue
  obtain ⟨hempty, hn, hrole⟩ := hparcels.2 (by rw [hm]; rfl)
  obtain ⟨hpending, hserial, hhold, hldr, hscn, hwip, hbus, hcmd⟩ := joined_blocks s
  obtain ⟨hmode, hlisten, hstatus⟩ := joined_ctl s
  have hpln := joined_pln s
  have hnew := joined_role s
  have htrk := joined_trk hrole hn
  rw [joinBody_eq] at hbus
  have hroom : (joined s).bus.queue.length < 12 := by
    have := withPosted_length_le s (.join (joinBody s))
    rw [hbus, ← joinBody_eq]
    omega
  refine ⟨releaseHeld (joined s), by rw [exec_listenEnd h hm, listenOver_of_clear hr (by omega)], ?_⟩
  generalize joined s = u at *
  obtain ⟨hp, hs, hh, hc, hl, ht, hros, hpl, hsq, -, hsc⟩ := releaseHeld_keeps u
  simp only [hc, ht, hros, hpl]
  refine ⟨fun b hb => ?_, hmode, hlisten, hstatus, ⟨fun hreply => ?_, fun code outcome hreply => ?_,
    fun table start count hreply => ?_⟩, hpln, hnew, ?_, ?_, fun hhead => ?_, fun htail => ?_⟩
  · cases b <;> simp at hb
    · exact hp.trans hpending
    · exact hs.trans hserial
    · exact hh.trans hhold
    · exact hl.trans hldr
    · exact hsc.trans hscn
    · exact (releaseHeld_wip_of_room hroom).trans hwip
  · rw [releaseHeld_of_none (by rw [hcmd]; exact hreply)]
    exact ⟨hbus, hcmd⟩
  · rw [releaseHeld_of_answer (by rw [hcmd]; exact hreply) hroom, hcmd,
      withPosted_congr (s := s.setBus u.bus) (u := u) rfl hldr, hbus]
    exact ⟨rfl, rfl⟩
  · obtain ⟨hquery, hframe, hrecords⟩ := releaseHeld_query_blocks (by rw [hcmd]; exact hreply) hroom
    rw [hquery, hframe, hrecords, hsq, hcmd, withPosted_congr (s := s.setBus u.bus) (u := u) rfl hldr, hbus]
    exact ⟨rfl, rfl⟩
  · rw [htrk]; split <;> rfl
  · rw [htrk]; split <;> rfl
  · rw [htrk, if_pos ((numbers_iff _).mpr hhead)]
    exact ⟨rfl, rfl, rfl, rfl⟩
  · rw [htrk, if_neg]
    rcases htail with h | h <;> rw [h] <;> decide

end Sys2Proof.Machine
end

section
/-! The entry to ISOLATED does not leave F_req at F_max in every state (O11). -/

namespace Sys2Proof.Machine

/-! R89 sets F_req to F_max before the lamps are judged, and the strike that the judgement makes is said of every lamp
of the index chosen. In a lamp table that holds an index twice, a lamp in OFF and one in FAILED, the strike of the
first takes the second out of FAILED too, and F_max rises above the F_req just set. No table that meets `LampsInv` is
such; the statement asks it of every state. -/

/-- A fitted lamp of index 1. -/
def twinLamp (st : LampState) : Lamp := { Lamp.fresh 1 with fitted := true, state := st, e := 1000 }

/-- A bank in LISTEN with the position reason, readback complete, and two lamps of index 1. -/
def twinLampState : State :=
  { State.reset with
    ctl := { State.reset.ctl with mode := .listen, positionReason := true }
    ldr := { State.reset.ldr with cfg := { ImageCfg.absent with table := [(0, 1000)], nMod := 1 } }
    link := { State.reset.link with phase := .running }
    seq := { State.reset.seq with lamps := [twinLamp .off, twinLamp .failed] } }

theorem twinLampState_listenEnd : exec .listenEnd twinLampState = .next (listenOver twinLampState) := by
  rw [exec_listenEnd ⟨rfl, rfl⟩ rfl, releaseHeld_of_none rfl]

theorem twinLampState_isolated : (listenOver twinLampState).pln.fReq = 1000 ∧ fMax (listenOver twinLampState) = 2000 ∧
    (listenOver twinLampState).seq.lamps.map (·.state) = [.striking, .striking] := by decide +kernel

theorem isolationEntered_fReq {reason : Byte} {s t : State} (h : IsolationEntered reason s t) :
    t.pln.fReq = fMax t := by
  obtain ⟨-, -, -, -, hpln, -⟩ := h
  exact congrArg Planner.fReq hpln

/-- Refutes O11: at the end of LISTEN with a reason standing, a table with two lamps of one index leaves F_req at
1000 where F_max is 2000. -/
theorem not_reasonsIsolateTheBank : ¬ Obligations.ReasonsIsolateTheBank := by
  unfold Obligations.ReasonsIsolateTheBank
  rintro ⟨hlisten, -⟩
  obtain ⟨t, hexec, hentered, -⟩ := (hlisten twinLampState ⟨rfl, rfl⟩ rfl rfl).1 rfl
  obtain rfl : listenOver twinLampState = t := Host.Outcome.next.inj (twinLampState_listenEnd.symm.trans hexec)
  obtain ⟨hreq, hmax, -⟩ := twinLampState_isolated
  have hclaim := isolationEntered_fReq hentered
  rw [hreq, hmax] at hclaim
  exact absurd hclaim (by decide)

end Sys2Proof.Machine
end

section
/-! The hold condition, its timer and the mode that follows it; lapsed sources and offers (O20, O21, O27). -/

namespace Sys2Proof.Machine

/-! ### The hold condition judged (R90, R91) -/

/-- The judgement moves the hold condition and the hold timer alone. -/
theorem Planner.judgeHold_eq (p : Planner) (q qMin : Nat) : p.judgeHold q qMin =
    { p with holdCond := (holdJudged qMin p q).1, holdTimer := (holdJudged qMin p q).2 } := by
  rw [← Planner.judgeHold_judged]
  unfold Planner.judgeHold
  split
  · split <;> rfl
  · split <;> split <;> rfl

theorem judgeHold_eq (s : State) : judgeHold s = s.setPln { s.pln with
    holdCond := (holdJudged s.ldr.cfg.qMin s.pln (flowTaken s)).1
    holdTimer := (holdJudged s.ldr.cfg.qMin s.pln (flowTaken s)).2 } :=
  congrArg s.setPln (Planner.judgeHold_eq _ _ _)

section
variable {qMin q : Nat} {p : Planner}

theorem holdJudged_of_cleared (hc : p.holdCond = true) (hq : 12 * qMin ≤ 10 * q) :
    holdJudged qMin p q = (false, none) := by
  unfold holdJudged; rw [if_pos hc, if_pos hq]

theorem holdJudged_of_standing (hc : p.holdCond = true) (hq : 10 * q < 12 * qMin) :
    holdJudged qMin p q = (p.holdCond, p.holdTimer) := by
  unfold holdJudged; rw [if_pos hc, if_neg (Nat.not_le.mpr hq), hc]

theorem holdJudged_of_low (hc : p.holdCond = false) (hq : q < qMin) :
    holdJudged qMin p q = (p.holdCond, some (p.holdTimer.getD 0)) := by
  unfold holdJudged; rw [if_neg (by simp [hc]), if_pos hq, hc]

theorem holdJudged_of_flowing (hc : p.holdCond = false) (hq : qMin ≤ q) :
    holdJudged qMin p q = (p.holdCond, none) := by
  unfold holdJudged; rw [if_neg (by simp [hc]), if_neg (Nat.not_lt.mpr hq), hc]

end

/-- Settles O21, by whether the condition stands and where the flow lies. -/
theorem holdConditionFollowsTheFlow : Obligations.HoldConditionFollowsTheFlow := by
  unfold Obligations.HoldConditionFollowsTheFlow
  intro s
  refine ⟨fun hc hq => ?_, fun hc hq => ?_, fun hc hq => ?_, fun hc hq => ?_⟩ <;> rw [judgeHold_eq]
  · rw [holdJudged_of_cleared hc hq]
  · rw [holdJudged_of_standing hc hq]; rfl
  · rw [holdJudged_of_low hc hq]
  · rw [holdJudged_of_flowing hc hq]

/-! ### The mode follows the hold condition (R66) -/

theorem followHold_of_doses {s : State} (h : s.ctl.mode.doses = true) : followHold s =
    if s.ctl.mode = dosingMode s then s else settle (setMode s (dosingMode s)) := by
  unfold followHold dosingMode
  rcases (doses_iff _).mp h with hm | hm <;> cases hc : s.pln.holdCond <;> simp [hm]

/-- Outside DOSING and HOLD the condition moves nothing. -/
theorem followHold_of_rests {s : State} (h : s.ctl.mode.doses = false) : followHold s = s := by
  unfold followHold
  cases hm : s.ctl.mode <;> simp [hm, BankMode.doses] at h <;> rfl

/-- What holds of the state and of its settlement in the mode that is due holds once the mode has followed. -/
theorem followHold_cases {P : State → Prop} (s : State) (hstays : P s) (hsettled : ∀ m, P (settle (setMode s m))) :
    P (followHold s) := by
  cases hd : s.ctl.mode.doses with
  | false => rw [followHold_of_rests hd]; exact hstays
  | true =>
    rw [followHold_of_doses hd]
    split
    · exact hstays
    · exact hsettled _

/-- Following the hold condition leaves it as it is. -/
theorem followHold_hold (s : State) : (followHold s).pln.holdCond = s.pln.holdCond ∧
    (followHold s).pln.holdTimer = s.pln.holdTimer :=
  followHold_cases (P := fun t => t.pln.holdCond = s.pln.holdCond ∧ t.pln.holdTimer = s.pln.holdTimer) s ⟨rfl, rfl⟩
    fun m => by simp [settle_pln_keeps]

/-- The reasons in a mode are read from the roster and the image alone. -/
theorem reasonStands_setMode {s u : State} (hros : u.ros = s.ros) (hldr : u.ldr = s.ldr) (m : BankMode) :
    reasonStands (judgeRoster (setMode u m)) = reasonStands (judgeRoster (setMode s m)) := by
  simp [reasonStands, judgeRoster, ownView, setMode, hros, hldr]

/-- The mode follows the condition of `u`, which stands as `s` does but for the planner. -/
theorem followHold_modeFollows {s u : State} (hctl : u.ctl = s.ctl) (hros : u.ros = s.ros) (hldr : u.ldr = s.ldr) :
    ModeFollows s (followHold u) := by
  have hdue : (if (followHold u).pln.holdCond then BankMode.hold else .dosing) = dosingMode u := by
    rw [(followHold_hold u).1]; rfl
  have hmode : dosingMode u = .dosing ∨ dosingMode u = .hold := (doses_iff _).mp (dosingMode_doses u)
  unfold ModeFollows
  simp only [hdue]
  rw [← hctl]
  refine ⟨fun hd => ⟨fun hm => ?_, fun hm => ?_⟩, fun hd hh => ?_⟩
  · rw [followHold_of_doses ((doses_iff _).mpr hd), if_pos hm, hm]
  · rw [followHold_of_doses ((doses_iff _).mpr hd), if_neg hm, settle_setMode_mode _ _ hmode,
      reasonStands_setMode hros hldr]
  · rw [followHold_of_rests (by simpa [← Bool.not_eq_true, doses_iff] using And.intro hd hh)]

/-! ### The flow may have changed (R66, R90, R91) -/

theorem flowChanged_modeFollows {s u : State} (hctl : u.ctl = s.ctl) (hros : u.ros = s.ros) (hldr : u.ldr = s.ldr) :
    ModeFollows s (flowChanged u) :=
  followHold_modeFollows (by simpa using hctl) (by simpa using hros) (by simpa using hldr)

/-- The condition is judged from where it stood, against the flow then held. -/
theorem flowChanged_holdFollows {s u : State} (hcond : u.pln.holdCond = s.pln.holdCond)
    (htimer : u.pln.holdTimer = s.pln.holdTimer) : HoldFollows s (flowChanged u) := by
  obtain ⟨hc, ht⟩ := followHold_hold (judgeHold u)
  have hfollows : HoldFollows u (flowChanged u) :=
    holdFollows_judgeHold (by simp) (flowChanged_pln_keeps u).1 hc ht
  unfold HoldFollows holdJudged at hfollows ⊢
  rwa [hcond, htimer] at hfollows

/-! ### Sources lapse and the hold timer runs out (R76, R79, R90) -/

/-- The planner without a source of flow (R76). -/
def flowLapsed (s : State) : State := s.setPln { s.pln with flow := .stale, flowSource := none }

/-- The planner without a source of transmittance (R79). -/
def uvtLapsed (s : State) : State := s.setPln { s.pln with uvt := .stale, uvtSource := none }

/-- The planner with the hold condition raised (R90). -/
def holdRaised (s : State) : State := s.setPln { s.pln with holdCond := true, holdTimer := none }

theorem exec_flowSourceLapse {s : State} (h : Runs s) (hs : s.pln.flowSource.isSome = true) :
    exec .flowSourceLapse s = .next (flowChanged (flowLapsed s)) := by
  refine congrArg Host.Outcome.next ((event_of_runs _ h ?_).trans ?_) <;> rw [if_pos hs]
  · exact flowChanged_restarting (flowLapsed s)
  · rfl

theorem exec_uvtSourceLapse {s : State} (h : s.hold.held = false) (hs : s.pln.uvtSource.isSome = true) :
    exec .uvtSourceLapse s = .next (lampEvent (uvtLapsed s)) :=
  congrArg Host.Outcome.next ((outsideReset_of_run _ h).trans (if_pos hs))

theorem exec_holdTimerExpiry {s : State} (h : Runs s) (ht : s.pln.holdTimer.isSome = true) :
    exec .holdTimerExpiry s = .next (followHold (holdRaised s)) := by
  refine congrArg Host.Outcome.next ((event_of_runs _ h ?_).trans ?_) <;> rw [if_pos ht]
  · exact followHold_restarting (holdRaised s)
  · rfl

/-- Outside DOSING, and in HOLD where it stands already, the raised condition moves no mode. -/
theorem followHold_holdRaised_of_ne {s : State} (hm : s.ctl.mode ≠ .dosing) :
    followHold (holdRaised s) = holdRaised s := by
  cases hd : s.ctl.mode.doses with
  | false => exact followHold_of_rests hd
  | true =>
    have hhold : s.ctl.mode = .hold := ((doses_iff _).mp hd).resolve_left hm
    exact (followHold_of_doses (s := holdRaised s) hd).trans (if_pos hhold)

theorem followHold_holdRaised_of_dosing {s : State} (hm : s.ctl.mode = .dosing)
    (hr : reasonStands (judgeRoster (setMode (holdRaised s) .hold)) = false) :
    followHold (holdRaised s) = applyRole (judgeRoster (setMode (holdRaised s) .hold)) .byLoss := by
  have hd : (holdRaised s).ctl.mode.doses = true := congrArg BankMode.doses hm
  have hne : (holdRaised s).ctl.mode ≠ .hold := fun h => by simp [holdRaised, hm] at h
  rw [followHold_of_doses hd]
  exact (if_neg hne).trans (settle_of_doses rfl hr)

/-- Settles O20: the two lapses, then the hold timer by the mode. -/
theorem lapsesAndTheHoldTimerAreTaken : Obligations.LapsesAndTheHoldTimerAreTaken := by
  unfold Obligations.LapsesAndTheHoldTimerAreTaken
  refine ⟨⟨fun s h hs => ?_, fun s h hs => ?_⟩, fun s h ht => ⟨?_, fun hm => ?_, fun hm hr => ?_⟩⟩
  · obtain ⟨hflow, hsource, hdup, -⟩ := flowChanged_pln_keeps (flowLapsed s)
    have hstale : flowQ (flowChanged (flowLapsed s)) = s.ldr.cfg.qDesign := by
      unfold flowQ; rw [hflow]; simp [flowLapsed]
    refine ⟨_, exec_flowSourceLapse h hs, hflow, hsource, hstale, hdup, flowChanged_holdFollows rfl rfl,
      flowChanged_modeFollows rfl rfl rfl, ?_, fun hm b hb => ?_⟩
    · apply learning_onlyChanges <;> simp [flowLapsed]
    · have hrests : followHold (judgeHold (flowLapsed s)) = judgeHold (flowLapsed s) :=
        followHold_of_rests (congrArg BankMode.doses hm)
      rw [flowChanged, hrests]
      cases b <;> simp at hb <;> rfl
  · obtain ⟨-, -, -, -, huvt, hsource, hdup, -, htimer, hcond, -⟩ := lampEvent_pln_keeps (uvtLapsed s)
    have hworst : uvtValue (lampEvent (uvtLapsed s)) = s.ldr.cfg.uvtWorst := by
      unfold uvtValue; rw [huvt]; simp [uvtLapsed]
    refine ⟨_, exec_uvtSourceLapse h hs, huvt, hsource, hworst, hdup, ⟨hcond, htimer⟩, fun b hb => ?_⟩
    cases b <;> simp at hb <;> simp [Block.same, uvtLapsed]
  · exact ⟨_, exec_holdTimerExpiry h ht, (followHold_hold (holdRaised s)).1, followHold_modeFollows rfl rfl rfl⟩
  · rw [exec_holdTimerExpiry h ht, followHold_holdRaised_of_ne hm]; rfl
  · refine ⟨_, exec_holdTimerExpiry h ht, ?_⟩
    rw [followHold_holdRaised_of_dosing hm hr]
    refine ⟨fun b hb => ?_, rfl, rfl⟩
    cases b <;> simp at hb <;> rfl

/-! ### Offers (R75, R78) -/

/-- What the model makes of an offer is what the statements say of it. -/
theorem offerJudged_judgeOffer {α : Type} (p : Nat) (v held : α) (src : Option Source) (dup : Option Nat) :
    OfferJudged p v (held, src, dup)
      (if (judgeOffer src p).adopted then v else held, if (judgeOffer src p).adopted then some ⟨p, 0⟩ else src,
        dupAfter (judgeOffer src p) dup) := by
  refine ⟨?_, ?_⟩
  · rintro rfl; rfl
  · rintro x rfl
    refine ⟨fun h => ?_, fun h => ?_, ?_⟩
    · simp [judgeOffer, h]
    · simp [judgeOffer, Nat.not_le.mpr h]
    · by_cases h : p = x.id <;> simp [judgeOffer, dupAfter, h]

theorem offeredFlow_eq (b : ReadingBody) : offeredFlow b = flowStateAfter (flowStateOf b.state) b.value.toNat := by
  unfold offeredFlow flowStateOf
  split
  · rfl
  · split <;> rfl

theorem offeredUvt_eq (b : ReadingBody) :
    offeredUvt b = uvtStateAfter (uvtStateOf b.value.toNat b.state) b.value.toNat := by
  unfold offeredUvt uvtStateOf
  split <;> rfl

theorem offerFlow_judged (s : State) (p : Nat) (b : ReadingBody) : OfferJudged p (offeredFlow b) s.pln.flowHeld
    (offerFlow s p (flowStateOf b.state) b.value.toNat).pln.flowHeld := by
  rw [offeredFlow_eq]
  exact offerJudged_judgeOffer p _ _ _ _

theorem offerUvt_judged (s : State) (p : Nat) (b : ReadingBody) : OfferJudged p (offeredUvt b) s.pln.uvtHeld
    (offerUvt s p (uvtStateOf b.value.toNat b.state) b.value.toNat).pln.uvtHeld := by
  rw [offeredUvt_eq]
  exact offerJudged_judgeOffer p _ _ _ _

/-- The slot of a bank (R78). -/
theorem slotOf_bank {a : Src} (h : isBankAddress a = true) :
    slotOf a.chan.toNat a.pos.toNat = a.chan.toNat * 8 + a.pos.toNat - 1 := by
  simp only [isBankAddress, Bool.and_eq_true, decide_eq_true_eq] at h
  obtain ⟨⟨hchan, -⟩, -⟩ := h
  unfold slotOf
  rw [if_neg (by omega)]

theorem fromOwnChannelBank_iff (s : State) (a : Src) : fromOwnChannelBank s a = true ↔
    isBankAddress a = true ∧ a.chan.toNat = s.ldr.straps.channel := by
  simp [fromOwnChannelBank]

/-! ### FLOW and UVT received -/

theorem learned_pln_keeps (s : State) (a : Src) : (learned s a).pln.flowHeld = s.pln.flowHeld ∧
    (learned s a).pln.uvtHeld = s.pln.uvtHeld ∧ (learned s a).pln.holdCond = s.pln.holdCond ∧
    (learned s a).pln.holdTimer = s.pln.holdTimer := by
  obtain ⟨h1, h2, h3, h4, h5, h6, h7, h8⟩ :=
    settle_pln_keeps ((s.setBus s.bus.frameTaken).setRos (s.ros.learnPlain a))
  refine ⟨?_, ?_, h7, h8⟩
  · exact congrArg₂ Prod.mk h1 (congrArg₂ Prod.mk h2 h3)
  · exact congrArg₂ Prod.mk h4 (congrArg₂ Prod.mk h5 h6)

/-- The settlement of a changed mode judges the roster learned over again, to the same (R59). -/
theorem followHold_learned {r : Roster} {s : State} (h : Learned r s) : Learned r (followHold s) := by
  refine followHold_cases s h fun m => ⟨?_, ?_⟩
  · simp [settle_entries, h.entries, judgeConflicts_idem]
  · simp [h.unlearned]

/-- The part once a FLOW of its own channel has been learned and offered (R75). -/
def flowOffered (s : State) (a : Src) (b : ReadingBody) : State :=
  offerFlow (learned s a) a.pos.toNat (flowStateOf b.state) b.value.toNat

/-- The part once a UVT of a bank has been learned and offered (R78). -/
def uvtOffered (s : State) (a : Src) (b : ReadingBody) : State :=
  offerUvt (learned s a) (slotOf a.chan.toNat a.pos.toNat) (uvtStateOf b.value.toNat b.state) b.value.toNat

theorem exec_flowReceived {s : State} (a : Src) (b : ReadingBody) (h : TakesFrames s) : exec (.flowReceived a b) s =
    .next (if fromOwnChannelBank s a = true then flowChanged (flowOffered s a b) else learned s a) := by
  have hown : fromOwnChannelBank (learned s a) a = fromOwnChannelBank s a := by
    simp [fromOwnChannelBank, learned_ldr]
  have hf : (if fromOwnChannelBank (learned s a) a = true then flowChanged (flowOffered s a b) else learned s a) =
      if fromOwnChannelBank s a = true then flowChanged (flowOffered s a b) else learned s a := by rw [hown]
  refine congrArg Host.Outcome.next ((frameEvent_of_takes _ h ?_).trans hf)
  refine (congrArg State.restarting hf).trans ?_
  split
  · rw [flowChanged_restarting]; exact learned_restarting s a
  · exact learned_restarting s a

theorem exec_uvtReceived {s : State} (a : Src) (b : ReadingBody) (h : TakesFrames s) : exec (.uvtReceived a b) s =
    .next (if isBankAddress a = true then lampEvent (uvtOffered s a b) else learned s a) := by
  refine congrArg Host.Outcome.next (frameEvent_of_takes _ h ?_)
  change State.restarting (if isBankAddress a = true then lampEvent (uvtOffered s a b) else learned s a) = _
  split
  · have hcmd : (lampEvent (uvtOffered s a b)).cmd = (learned s a).cmd := by simp [uvtOffered]
    exact (congrArg (fun c : Handler => c.restart.isSome) hcmd).trans (learned_restarting s a)
  · exact learned_restarting s a

/-- A roster learned stays learned while the roster is not moved. -/
theorem Learned.of_ros {r : Roster} {s t : State} (h : Learned r s) (hros : t.ros = s.ros) : Learned r t :=
  ⟨by rw [hros]; exact h.entries, by rw [hros]; exact h.unlearned⟩

theorem learned_learned (s : State) (a : Src) : Learned (s.ros.learnPlain a) (learned s a) :=
  settle_learned (s.setBus s.bus.frameTaken) (s.ros.learnPlain a)

/-- A FLOW of the own channel: adopted by position, and the hold condition and the mode judged by it. -/
theorem flowOffered_taken (s : State) (a : Src) (b : ReadingBody) :
    LearnedPlain a s (flowChanged (flowOffered s a b)) ∧
      OfferJudged a.pos.toNat (offeredFlow b) s.pln.flowHeld (flowChanged (flowOffered s a b)).pln.flowHeld ∧
      HoldFollows s (flowChanged (flowOffered s a b)) ∧
      ModeFollows (learned s a) (flowChanged (flowOffered s a b)) := by
  obtain ⟨hheld, -, hcond, htimer⟩ := learned_pln_keeps s a
  obtain ⟨hflow, hsource, hdup, -⟩ := flowChanged_pln_keeps (flowOffered s a b)
  have hstays : (flowChanged (flowOffered s a b)).pln.flowHeld = (flowOffered s a b).pln.flowHeld := by
    simp only [Planner.flowHeld, hflow, hsource, hdup]
  refine ⟨learnedPlain_of_learned (followHold_learned ((learned_learned s a).of_ros ?_)), ?_,
    flowChanged_holdFollows hcond htimer, flowChanged_modeFollows rfl rfl rfl⟩
  · simp [flowOffered]
  · rw [hstays, ← hheld]
    exact offerFlow_judged (learned s a) _ b

/-- A UVT of a bank: adopted by slot, and nothing else of the planner but F_req judged by it. -/
theorem uvtOffered_taken (s : State) {a : Src} (b : ReadingBody) (h : isBankAddress a = true) :
    LearnedPlain a s (lampEvent (uvtOffered s a b)) ∧ HoldStays s (lampEvent (uvtOffered s a b)) ∧
      OfferJudged (a.chan.toNat * 8 + a.pos.toNat - 1) (offeredUvt b) s.pln.uvtHeld
        (lampEvent (uvtOffered s a b)).pln.uvtHeld := by
  obtain ⟨-, hheld, hcond, htimer⟩ := learned_pln_keeps s a
  obtain ⟨-, -, -, -, huvt, hsource, hdup, -, htimer', hcond', -⟩ := lampEvent_pln_keeps (uvtOffered s a b)
  have hstays : (lampEvent (uvtOffered s a b)).pln.uvtHeld = (uvtOffered s a b).pln.uvtHeld := by
    simp only [Planner.uvtHeld, huvt, hsource, hdup]
  refine ⟨learnedPlain_of_learned ((learned_learned s a).of_ros ?_), ⟨hcond'.trans hcond, htimer'.trans htimer⟩, ?_⟩
  · simp [uvtOffered]
  · rw [hstays, ← hheld, ← slotOf_bank h]
    exact offerUvt_judged (learned s a) _ b

/-- Settles O27, each frame by whether its source's offer is heard. -/
theorem offersAreJudgedByTheirSource : Obligations.OffersAreJudgedByTheirSource := by
  unfold Obligations.OffersAreJudgedByTheirSource
  intro a b s h
  obtain ⟨hflowHeld, huvtHeld, hcond, htimer⟩ := learned_pln_keeps s a
  have hchanges : OnlyChanges [.ctl, .trk, .ros, .pln, .seq, .link, .wip, .bus, .cmd] s (learned s a) := by
    apply learning_onlyChanges <;> simp [learned]
  refine ⟨⟨_, exec_flowReceived a b h, ?_⟩, ⟨_, exec_uvtReceived a b h, ?_⟩⟩
  · by_cases hown : fromOwnChannelBank s a = true
    · obtain ⟨hbank, hchan⟩ := (fromOwnChannelBank_iff s a).mp hown
      obtain ⟨hlearned, htaken⟩ := flowOffered_taken s a b
      rw [if_pos hown]
      refine ⟨?_, hlearned, fun _ _ => htaken, fun hno => ?_⟩
      · apply learning_onlyChanges <;> simp [flowOffered, learned]
      · rcases hno with hno | hno
        · exact absurd (hbank.symm.trans hno) (by simp)
        · exact absurd hchan hno
    · rw [if_neg hown]
      exact ⟨hchanges, learned_learnedPlain s a, fun hbank hchan =>
        absurd ((fromOwnChannelBank_iff s a).mpr ⟨hbank, hchan⟩) hown, fun _ => ⟨hflowHeld, ⟨hcond, htimer⟩, rfl⟩⟩
  · by_cases hbank : isBankAddress a = true
    · obtain ⟨hlearned, hstays, hjudged⟩ := uvtOffered_taken s b hbank
      rw [if_pos hbank]
      refine ⟨?_, hlearned, hstays, ?_, fun _ => hjudged, fun hno => absurd (hbank.symm.trans hno) (by simp)⟩
      · apply learning_onlyChanges <;> simp [uvtOffered, learned]
      · simp [uvtOffered]
    · rw [if_neg hbank]
      exact ⟨hchanges, learned_learnedPlain s a, ⟨hcond, htimer⟩, rfl, fun hyes => absurd hyes hbank,
        fun _ => huvtHeld⟩

end Sys2Proof.Machine
end

section
/-! The close of an accrual expiry: the capacity and F_min, the plan of shares, the setpoint and the lamps (O17). -/

namespace Sys2Proof.Machine

/-! ### F_min and the capacity (R82, R87) -/

/-- The first `n` of a list sorted are any `n` of it that are not above the rest, sorted. -/
theorem take_insertionSort {l low rest : List Nat} {n : Nat} (hl : (low ++ rest).Perm l)
    (hn : low.length = min n l.length) (hle : ∀ x ∈ low, ∀ y ∈ rest, x ≤ y) :
    (l.insertionSort (· ≤ ·)).take n = low.insertionSort (· ≤ ·) := by
  have hsorted : (low.insertionSort (· ≤ ·) ++ rest.insertionSort (· ≤ ·)).Pairwise (· ≤ ·) := by
    refine List.pairwise_append.mpr ⟨List.pairwise_insertionSort _ _, List.pairwise_insertionSort _ _, ?_⟩
    simpa only [List.mem_insertionSort] using hle
  have hperm : (l.insertionSort (· ≤ ·)).Perm (low.insertionSort (· ≤ ·) ++ rest.insertionSort (· ≤ ·)) :=
    (List.perm_insertionSort _ l).trans (hl.symm.trans
      ((List.perm_insertionSort _ low).append (List.perm_insertionSort _ rest)).symm)
  have hlow : min n l.length = (low.insertionSort (· ≤ ·)).length := by rw [List.length_insertionSort, hn]
  rw [List.take_eq_take_min, List.length_insertionSort, hlow,
    hperm.eq_of_pairwise' (List.pairwise_insertionSort _ l) hsorted, List.take_left]

theorem sumOf_perm {l m : List Nat} (h : l.Perm m) : sumOf l = sumOf m := h.sum_eq

/-- F_min is that of any choice of the `min_lit` lowest estimates (R87). -/
theorem fMin_of_lowest {s : State} {low rest : List Nat}
    (hperm : (low ++ rest).Perm ((s.seq.lamps.filter Lamp.available).map (·.e)))
    (hlen : low.length = min s.ldr.cfg.minLit ((s.seq.lamps.filter Lamp.available).map (·.e)).length)
    (hle : ∀ x ∈ low, ∀ y ∈ rest, x ≤ y) :
    fMin s = min (ceilDiv (gFactor s * sumOf low) (2000 * s.ldr.cfg.nMod)) (fMax s) := by
  unfold fMin
  simp only
  rw [take_insertionSort hperm hlen hle, sumOf_perm (List.perm_insertionSort _ low)]

/-- Without an image there is no light to reckon with (R73, R78, R87). -/
theorem fMax_of_absent {s : State} (h : s.ldr.cfg = .absent) : fMax s = 0 := by
  simp [fMax, fluenceOf, h, ImageCfg.absent]

/-! ### The planning set (R62, R83) -/

/-- A participating peer, in the words of the statements. -/
theorem participates_iff (s : State) (e : RosterEntry) :
    RosterEntry.participates (ownView s) s.ros.refDigest e = true ↔
      e.isSelf = false ∧ e.chan = s.ldr.straps.channel ∧ e.state = .active ∧ e.digest ≠ none ∧
        e.digest = s.ros.refDigest ∧ (e.mode = some .dosing ∨ e.mode = some .hold) := by
  simp only [RosterEntry.participates, Bool.and_eq_true, Bool.not_eq_true', decide_eq_true_eq, reportsDosing_iff,
    Option.isSome_iff_ne_none, List.mem_cons, List.not_mem_nil, or_false, and_assoc]
  rfl

theorem planningSet_eq (s : State) : planningSet s =
    (s.ldr.straps.position, capacityP s) :: s.ros.entries.filterMap (fun e =>
      if e.isSelf = false ∧ e.chan = s.ldr.straps.channel ∧ e.state = .active ∧ e.digest ≠ none ∧
          e.digest = s.ros.refDigest ∧ (e.mode = some .dosing ∨ e.mode = some .hold) then
        e.p.map fun p => (e.pos, p)
      else none) := by
  unfold planningSet
  rw [List.filterMap_filter]
  simp only [participates_iff]

/-! ### What the plan and the setpoint read -/

theorem planServes_iff (s : State) (q : Nat) : planServes s q = true ↔
    s.ldr.cfg.dT * (100 + s.ldr.cfg.margin) * q ≤ totalP s * 10000000 := by
  unfold planServes plannedDose
  exact decide_eq_true_iff

/-- `t` shows the plan and the setpoint what `s` shows them: what a lamp event reads, the image and the roster. -/
structure SameForPlan (s t : State) : Prop where
  lamps : SameForLamps s t
  ldr : t.ldr = s.ldr
  ros : t.ros = s.ros

section
variable {s t : State}

theorem SameForPlan.capacityP (h : SameForPlan s t) : capacityP t = capacityP s := by
  simp only [Machine.capacityP, h.lamps.fMax, h.ldr]

theorem SameForPlan.planningSet (h : SameForPlan s t) : planningSet t = planningSet s := by
  simp only [Machine.planningSet, ownView, h.capacityP, h.ldr, h.ros, h.lamps.mode]

theorem SameForPlan.totalP (h : SameForPlan s t) : totalP t = totalP s := by
  simp only [Machine.totalP, h.planningSet]

theorem SameForPlan.shareOf (h : SameForPlan s t) : shareOf t = shareOf s := by
  funext p
  simp only [Machine.shareOf, plannedDose, h.totalP, h.ldr]

theorem SameForPlan.planOfShares (h : SameForPlan s t) : planOfShares t = planOfShares s := by
  simp only [Machine.planOfShares, h.planningSet, h.shareOf, h.ldr]

theorem SameForPlan.planServes (h : SameForPlan s t) (q : Nat) : planServes t q = planServes s q := by
  rw [Bool.eq_iff_iff, planServes_iff, planServes_iff, h.totalP, h.ldr]

theorem SameForPlan.holdSetpoint (h : SameForPlan s t) : holdSetpoint t = holdSetpoint s := by
  simp only [Machine.holdSetpoint, h.lamps.fMin, h.lamps.fMax, h.ldr]

/-- The setpoint of R88 by the records that `t` holds, in the words of the statements. -/
theorem SameForPlan.sharedSetpoint (h : SameForPlan s t) :
    sharedSetpoint t (flowTaken s) = plannedRate s (Machine.planOfShares s) t.trk := by
  have hrate (q k : Nat) : recordRate t q k = fun r =>
      if r.dose < k ∧ s.ldr.cfg.z ≤ 100 * remainingVolume t.trk r then
        ceilDiv ((k - r.dose) * q) (100 * remainingVolume t.trk r) else 0 := by
    funext r; simp only [recordRate, h.ldr]
  simp only [Machine.sharedSetpoint, baseRate, ownShare, h.planOfShares, h.lamps.fMin, h.lamps.fMax, h.shareOf,
    h.capacityP, h.ldr, hrate]
  rfl

end

/-- Records that leave move nothing that the plan reads, and nothing of the planner. -/
theorem accrue_restarted_same (s : State) : SameForPlan s (accrue (restarted s)) ∧
    (accrue (restarted s)).pln = s.pln ∧ (accrue (restarted s)).ctl = s.ctl := by
  cases hd : s.ctl.mode.doses with
  | false => rw [accrue_of_rests (s := restarted s) hd]; exact ⟨⟨⟨rfl, rfl, rfl, rfl, rfl, rfl⟩, rfl, rfl⟩, rfl, rfl⟩
  | true =>
    have hsent := (foldl_sendRecord_movesCounts (restarted s).ros.role (accrued (restarted s)).leaving
      ((restarted s).setTrk (accrued (restarted s)).exit)).1
    rw [← accrue_of_doses (s := restarted s) hd] at hsent
    have hctl : (accrue (restarted s)).ctl = s.ctl := hsent .ctl (by simp)
    have hldr : (accrue (restarted s)).ldr = s.ldr := hsent .ldr (by simp)
    have hpln : (accrue (restarted s)).pln = s.pln := hsent .pln (by simp)
    exact ⟨⟨⟨by rw [hctl], by rw [hldr], hsent .seq (by simp), hsent .link (by simp), by rw [hpln], by rw [hpln]⟩,
      hldr, hsent .ros (by simp)⟩, hpln, hctl⟩

/-! ### The plan, row by row (R83, R85, R86) -/

section
variable {s : State} {q : Nat}

theorem computePlan_of_served (hd : s.ctl.mode.doses = true) (hq : 1 ≤ q) (hs : planServes s q = true) :
    computePlan s q = s.setPln { s.pln with plan := some (planOfShares s), shortfall := false } := by
  unfold computePlan; rw [if_pos (by simp [hd, hq]), if_pos hs]

theorem computePlan_of_short (hd : s.ctl.mode.doses = true) (hq : 1 ≤ q) (hs : planServes s q = false) :
    computePlan s q = s.setPln { s.pln with plan := none, shortfall := true } := by
  unfold computePlan; rw [if_pos (by simp [hd, hq]), if_neg (by simp [hs])]

theorem computePlan_of_none (h : s.ctl.mode.doses = false ∨ q = 0) : computePlan s q = s := by
  unfold computePlan; rw [if_neg (by rcases h with h | h <;> simp [h])]

/-- A plan or a shortfall moves nothing else of the planner. -/
theorem computePlan_pln_keeps (s : State) (q : Nat) : (computePlan s q).pln.fReq = s.pln.fReq ∧
    (computePlan s q).pln.uvt = s.pln.uvt ∧ (computePlan s q).pln.lastReq = s.pln.lastReq := by
  unfold computePlan
  split
  · split <;> exact ⟨rfl, rfl, rfl⟩
  · exact ⟨rfl, rfl, rfl⟩

theorem computePlan_same {t : State} (h : SameForPlan s t) (q : Nat) : SameForPlan s (computePlan t q) := by
  obtain ⟨hreq, huvt, -⟩ := computePlan_pln_keeps t q
  exact ⟨⟨by simpa using h.lamps.mode, by simpa using h.lamps.cfg, by simpa using h.lamps.seq,
    by simpa using h.lamps.link, hreq.trans h.lamps.fReq, huvt.trans h.lamps.uvt⟩, by simpa using h.ldr,
    by simpa using h.ros⟩

/-! ### The setpoint, row by row (R86, R88, R89) -/

/-- The computation of an expiry with flow. -/
theorem computeSetpoint_of_flow (hd : s.ctl.mode.doses = true) (hq : 1 ≤ q) : computeSetpoint s q = computed s
    (if s.pln.shortfall then fMax s else if s.ctl.mode = .dosing then sharedSetpoint s q else holdSetpoint s) := by
  unfold computeSetpoint
  rcases (doses_iff _).mp hd with hm | hm <;> simp [hm, Nat.ne_of_gt hq]

/-- Without flow the setpoint stays with the last computation, but for HOLD's without shortfall. -/
theorem computeSetpoint_of_dry (h : s.ctl.mode = .dosing ∨ s.ctl.mode = .hold ∧ s.pln.shortfall = true) :
    computeSetpoint s 0 = heldSetpoint s := by
  unfold computeSetpoint
  rcases h with hm | ⟨hm, hs⟩ <;> simp [*]

theorem computeSetpoint_of_dryHold (hm : s.ctl.mode = .hold) (hs : s.pln.shortfall = false) :
    computeSetpoint s 0 = s.setPln { s.pln with fReq := holdSetpoint s } := by
  unfold computeSetpoint
  simp [hm, hs]

theorem computeSetpoint_of_rests (hd : s.ctl.mode.doses = false) : computeSetpoint s q = s := by
  unfold computeSetpoint
  cases hm : s.ctl.mode <;> simp [hm, BankMode.doses] at hd <;> rfl

end

/-- The setpoint moves of the planner itself and what is kept of it alone. -/
theorem computeSetpoint_pln_keeps (s : State) (q : Nat) : (computeSetpoint s q).pln.plan = s.pln.plan ∧
    (computeSetpoint s q).pln.shortfall = s.pln.shortfall ∧ (computeSetpoint s q).pln.uvt = s.pln.uvt := by
  unfold computeSetpoint
  split
  · split <;> exact ⟨rfl, rfl, rfl⟩
  · split
    · split <;> exact ⟨rfl, rfl, rfl⟩
    · exact ⟨rfl, rfl, rfl⟩
  · exact ⟨rfl, rfl, rfl⟩

/-! ### The close of the expiry -/

/-- The expiry with its plan made or its shortfall raised (R83). -/
def planned (s : State) : State := computePlan (accrue (restarted s)) (flowTaken s)

/-- The expiry with its setpoint computed, before the lamps are judged (R88, R89). -/
def replanned (s : State) : State := computeSetpoint (planned s) (flowTaken s)

theorem planned_same (s : State) : SameForPlan s (planned s) :=
  computePlan_same (accrue_restarted_same s).1 _

theorem planned_mode (s : State) : (planned s).ctl.mode = s.ctl.mode := (planned_same s).lamps.mode

theorem planned_trk (s : State) : (planned s).trk = (expired s).trk := by
  simp [planned, expired, closeExpiry]

/-- Of the planner the lamps and the wiper move F_req alone, and that outside DOSING and HOLD. -/
theorem expired_blocks (s : State) : (expired s).pln = (lampEvent (replanned s)).pln ∧
    (expired s).seq = (lampEvent (replanned s)).seq ∧ (expired s).link = (lampEvent (replanned s)).link := by
  change (judgeAdmission (lampEvent (replanned s))).pln = _ ∧ (judgeAdmission (lampEvent (replanned s))).seq = _ ∧
    (judgeAdmission (lampEvent (replanned s))).link = _
  simp

theorem replanned_mode (s : State) : (replanned s).ctl.mode = s.ctl.mode := by
  simpa [replanned] using planned_mode s

theorem expired_pln_of_doses {s : State} (hd : s.ctl.mode.doses = true) : (expired s).pln = (replanned s).pln := by
  rw [(expired_blocks s).1, lampEvent_pln_of_doses (by rw [replanned_mode]; exact hd)]

/-- Outside DOSING and HOLD nothing is planned or computed. -/
theorem replanned_of_rests {s : State} (hd : s.ctl.mode.doses = false) : replanned s = restarted s := by
  have hplan : planned s = restarted s := by
    unfold planned
    rw [accrue_of_rests (s := restarted s) hd]
    exact computePlan_of_none (.inl hd)
  unfold replanned
  rw [hplan]
  exact computeSetpoint_of_rests hd

/-- Without flow plan and flag stay. -/
theorem planned_of_dry {s : State} (hq : flowTaken s = 0) : planned s = accrue (restarted s) :=
  computePlan_of_none (.inr hq)

section
variable {s : State}

/-- ΣP falls short of the flow: no shares and F_max (R83, R85, R88). -/
theorem expired_of_short (hd : s.ctl.mode.doses = true) (hq : 1 ≤ flowTaken s)
    (hs : planServes s (flowTaken s) = false) : (expired s).pln.shortfall = true ∧ (expired s).pln.plan = none ∧
      (expired s).pln.fReq = fMax s := by
  obtain ⟨hsame, -, hctl⟩ := accrue_restarted_same s
  have hplan := computePlan_of_short (by rw [hctl]; exact hd) hq ((hsame.planServes _).trans hs)
  have hshort : (planned s).pln.shortfall = true := by unfold planned; rw [hplan]; rfl
  have hnone : (planned s).pln.plan = none := by unfold planned; rw [hplan]; rfl
  obtain ⟨hp, hf, -⟩ := computeSetpoint_pln_keeps (planned s) (flowTaken s)
  rw [expired_pln_of_doses hd]
  refine ⟨hf.trans hshort, hp.trans hnone, ?_⟩
  unfold replanned
  rw [computeSetpoint_of_flow (by rw [planned_mode]; exact hd) hq, if_pos hshort]
  exact (planned_same s).lamps.fMax

/-- ΣP serves the flow: the plan of shares, and the setpoint by it in DOSING or the hold fraction in HOLD (R84, R88,
R89). -/
theorem expired_of_served (hd : s.ctl.mode.doses = true) (hq : 1 ≤ flowTaken s)
    (hs : planServes s (flowTaken s) = true) : (expired s).pln.shortfall = false ∧
      (expired s).pln.plan = some (planOfShares s) ∧ (expired s).pln.fReq =
        if s.ctl.mode = .dosing then plannedRate s (planOfShares s) (expired s).trk else holdSetpoint s := by
  obtain ⟨hsame, -, hctl⟩ := accrue_restarted_same s
  have hplan := computePlan_of_served (by rw [hctl]; exact hd) hq ((hsame.planServes _).trans hs)
  rw [hsame.planOfShares] at hplan
  have hshort : (planned s).pln.shortfall = false := by unfold planned; rw [hplan]; rfl
  have hsome : (planned s).pln.plan = some (planOfShares s) := by unfold planned; rw [hplan]; rfl
  obtain ⟨hp, hf, -⟩ := computeSetpoint_pln_keeps (planned s) (flowTaken s)
  rw [expired_pln_of_doses hd]
  refine ⟨hf.trans hshort, hp.trans hsome, ?_⟩
  unfold replanned
  rw [computeSetpoint_of_flow (by rw [planned_mode]; exact hd) hq, if_neg (by simp [hshort]), planned_mode,
    (planned_same s).sharedSetpoint, (planned_same s).holdSetpoint, planned_trk]
  rfl

/-- An expiry with flow that leaves no shortfall has served it. -/
theorem serves_of_expired (hd : s.ctl.mode.doses = true) (hq : 1 ≤ flowTaken s)
    (hflag : (expired s).pln.shortfall = false) : planServes s (flowTaken s) = true := by
  by_contra hs
  obtain ⟨hshort, -⟩ := expired_of_short hd hq (by simpa using hs)
  exact absurd (hshort.symm.trans hflag) (by simp)

/-- With a lower Q plan and flag stay (R86). -/
theorem expired_of_dry (hd : s.ctl.mode.doses = true) (hq : flowTaken s = 0) :
    (expired s).pln.shortfall = s.pln.shortfall ∧ (expired s).pln.plan = s.pln.plan := by
  obtain ⟨hp, hf, -⟩ := computeSetpoint_pln_keeps (planned s) (flowTaken s)
  obtain ⟨-, hpln, -⟩ := accrue_restarted_same s
  rw [planned_of_dry hq, hpln] at hp hf
  rw [expired_pln_of_doses hd]
  unfold replanned
  rw [planned_of_dry hq]
  exact ⟨hf, hp⟩

/-- With a lower Q in HOLD without shortfall the setpoint is the hold fraction's (R89). -/
theorem expired_fReq_of_dryHold (hm : s.ctl.mode = .hold) (hq : flowTaken s = 0) (hs : s.pln.shortfall = false) :
    (expired s).pln.fReq = holdSetpoint s := by
  obtain ⟨hsame, hpln, hctl⟩ := accrue_restarted_same s
  rw [expired_pln_of_doses (by rw [hm]; rfl)]
  unfold replanned
  rw [planned_of_dry hq, hq, computeSetpoint_of_dryHold (by rw [hctl]; exact hm) (by rw [hpln]; exact hs)]
  exact hsame.holdSetpoint

/-- With a lower Q otherwise it is as the last computation left it (R86, R89). -/
theorem expired_fReq_of_held (h : s.ctl.mode = .dosing ∨ s.ctl.mode = .hold ∧ s.pln.shortfall = true)
    (hq : flowTaken s = 0) : (expired s).pln.fReq = s.pln.lastReq.getD (fMin s) := by
  obtain ⟨hsame, hpln, hctl⟩ := accrue_restarted_same s
  have hd : s.ctl.mode.doses = true := by rcases h with hm | ⟨hm, -⟩ <;> rw [hm] <;> rfl
  rw [expired_pln_of_doses hd]
  unfold replanned
  rw [planned_of_dry hq, hq, computeSetpoint_of_dry (by rw [hctl, hpln]; exact h), ← hsame.lamps.fMin, ← hpln]
  rfl

/-- What is kept of the setpoint is what a computation left of it (R86; log 20). -/
theorem expired_lastReq (s : State) : (expired s).pln.lastReq =
    if s.ctl.mode.doses = true ∧ flowTaken s ≠ 0 then some (expired s).pln.fReq else s.pln.lastReq := by
  obtain ⟨-, -, -, -, -, -, -, -, -, -, -, -, hlast⟩ := lampEvent_pln_keeps (replanned s)
  obtain ⟨-, hpln, -⟩ := accrue_restarted_same s
  obtain ⟨-, -, hkept⟩ := computePlan_pln_keeps (accrue (restarted s)) (flowTaken s)
  rw [hpln] at hkept
  rw [(expired_blocks s).1, hlast, ← (expired_blocks s).1, ← hkept]
  unfold replanned
  rw [computeSetpoint_lastReq, planned_mode]
  split
  case isTrue h =>
    obtain ⟨hd, -⟩ := h
    rw [expired_pln_of_doses hd]
    rfl
  case isFalse => rfl

/-- In LISTEN and ISOLATED the setpoint is the lamp event's own (R89). -/
theorem expired_fReq_of_rests (hd : s.ctl.mode.doses = false) :
    (expired s).pln.fReq = (refreshSetpoint (restarted s)).pln.fReq := by
  rw [(expired_blocks s).1, replanned_of_rests hd]
  simp [lampEvent]

/-- The new setpoint reaches the lamps (R10, R108). -/
theorem expired_endsAsLampEvent (s : State) :
    EndsAsLampEvent (s.setPln { s.pln with fReq := (expired s).pln.fReq }) (expired s) := by
  obtain ⟨hpln, hseq, hlink⟩ := expired_blocks s
  suffices hends : EndsAsLampEvent (s.setPln { s.pln with fReq := (lampEvent (replanned s)).pln.fReq })
      (lampEvent (replanned s)) by
    unfold EndsAsLampEvent at hends ⊢
    rw [hseq, hlink, congrArg Planner.fReq hpln]
    exact hends
  cases hd : s.ctl.mode.doses with
  | false =>
    unfold EndsAsLampEvent
    rw [replanned_of_rests hd, lampEvent_setReq s _ hd]
    exact SameForLamps.ends (u := s) (x := restarted s) ⟨rfl, rfl, rfl, rfl, rfl, rfl⟩
  | true =>
    obtain ⟨-, -, huvt⟩ := computeSetpoint_pln_keeps (planned s) (flowTaken s)
    have hlamps := (planned_same s).lamps
    have hreq : (lampEvent (replanned s)).pln.fReq = (replanned s).pln.fReq := by
      rw [← hpln, expired_pln_of_doses hd]
    have hsame : SameForLamps (s.setPln { s.pln with fReq := (replanned s).pln.fReq }) (replanned s) :=
      ⟨replanned_mode s, by simpa [replanned] using hlamps.cfg, by simpa [replanned] using hlamps.seq,
        by simpa [replanned] using hlamps.link, rfl, huvt.trans hlamps.uvt⟩
    rw [hreq]
    exact hsame.ends

end

/-- Settles O17: the plan by ΣP against the flow, the setpoint by mode and flow, and what both are made of. -/
theorem theCloseOfAnExpiryPlans : Obligations.TheCloseOfAnExpiryPlans := by
  unfold Obligations.TheCloseOfAnExpiryPlans
  refine ⟨fun s hr ha hd => ⟨expired s, exec_accrualTimerExpiry hr ha, ?_⟩,
    fun s hr ha => ⟨expired s, exec_accrualTimerExpiry hr ha, ?_⟩, fun s => ?_⟩
  · refine ⟨fun hq hs => ?_, fun hq hs => ?_, expired_of_dry hd⟩
    · exact expired_of_short hd hq (by rw [← Bool.not_eq_true, planServes_iff]; omega)
    · obtain ⟨hflag, hplan, -⟩ := expired_of_served hd hq ((planServes_iff _ _).mpr hs)
      exact ⟨hflag, hplan⟩
  · refine ⟨fun hm hq hs p hp => ?_, fun hm hs => ?_, fun hm hq => ?_, fun hd hq => ?_, fun hn => ?_, fun hm => ?_,
      fun hm => ?_, expired_endsAsLampEvent s⟩
    · have hd : s.ctl.mode.doses = true := by rw [hm]; rfl
      obtain ⟨-, hplan, hreq⟩ := expired_of_served hd hq (serves_of_expired hd hq hs)
      obtain rfl : planOfShares s = p := Option.some.inj (hplan.symm.trans hp)
      rw [hreq, if_pos hm]
    · have hd : s.ctl.mode.doses = true := by rw [hm]; rfl
      rcases Nat.eq_zero_or_pos (flowTaken s) with hq | hq
      · obtain ⟨hflag, -⟩ := expired_of_dry hd hq
        exact expired_fReq_of_dryHold hm hq (hflag.symm.trans hs)
      · obtain ⟨-, -, hreq⟩ := expired_of_served hd hq (serves_of_expired hd hq hs)
        rw [hreq, if_neg (by simp [hm])]
        rfl
    · rw [expired_fReq_of_held hm hq]
      exact ⟨fun hl => by rw [hl]; rfl, fun v hl => by rw [hl]; rfl⟩
    · rw [expired_lastReq, if_pos ⟨hd, Nat.ne_of_gt hq⟩]
    · rw [expired_lastReq, if_neg]
      rintro ⟨hd, hq⟩
      rcases hn with hn | hn
      · exact absurd (hd.symm.trans hn) (by simp)
      · exact hq hn
    · rw [expired_fReq_of_rests (by rw [hm]; rfl), refreshSetpoint_of_listen (s := restarted s) hm]
      rfl
    · have hmode : (restarted s).ctl.mode = .isolated := hm
      rw [expired_fReq_of_rests (by rw [hm]; rfl)]
      unfold refreshSetpoint
      rw [hmode]
      rfl
  · refine ⟨rfl, planningSet_eq s, rfl, fun low rest hperm hlen hle => ?_, fun habsent => ?_⟩
    · exact fMin_of_lowest hperm hlen hle
    · have hmax := fMax_of_absent habsent
      exact ⟨by simp [fMin, hmax], by simp [capacityP, hmax]⟩

end Sys2Proof.Machine
end

section
/-! Every command and every millisecond keep the lamp table sound (O57). -/

namespace Sys2Proof.Machine

/-! ### Operations that leave the lamp records alone -/

theorem ite_lamps {s t : State} {p : Prop} [Decidable p] (hs : LampsInv s) (ht : LampsInv t) :
    LampsInv (if p then t else s) := by
  split <;> assumption

theorem ite_seq {s t : State} {p : Prop} [Decidable p] (h : t.seq = s.seq) : (if p then t else s).seq = s.seq := by
  split
  · exact h
  · rfl

theorem lampsInv_of_seq {s t : State} (h : LampsInv s) (e : t.seq = s.seq) : LampsInv t :=
  lampsInv_of_lamps h (congrArg Sequencer.lamps e)

@[simp] theorem freeWait_seq (s : State) (c p : Nat) : (freeWait s c p).seq = s.seq := ite_seq (by simp)

@[simp] theorem noteBreak_seq (s : State) (head : Option Nat) (a : Src) (b : JoinBody) :
    (noteBreak s head a b).seq = s.seq := ite_seq rfl

@[simp] theorem statusWatermark_seq (s : State) (a : Src) (b : StatusBody) : (statusWatermark s a b).seq = s.seq :=
  ite_seq rfl

@[simp] theorem wendReached_seq (s : State) : (wendReached s).seq = s.seq := by
  unfold wendReached; split
  · simp
  · exact ite_seq (by simp)

@[simp] theorem whomeReached_seq (s : State) : (whomeReached s).seq = s.seq := by
  unfold whomeReached; split
  · simp
  · split <;> simp

theorem settleRos_lamps {s : State} (r : Roster) (h : LampsInv s) : LampsInv (settle (s.setRos r)) :=
  settle_lamps _ (lampsInv_of_seq h rfl)

/-- The account's part of an expiry stays clear of the lamps (R10). -/
@[simp] theorem accrue_seq (s : State) : (accrue s).seq = s.seq := by
  unfold accrue; split
  · exact (foldl_sendRecord_movesCounts _ _ _).1 .seq (by simp)
  · rfl

/-! ### Replies, timers and lockouts -/

theorem applyCommand_lamps {s : State} (c : Byte) (d : Bool) {f : State → State} (h : LampsInv s)
    (hf : LampsInv (f s)) : LampsInv (applyCommand s c d f) := by
  unfold applyCommand; split
  · exact lampsInv_of_seq hf (by simp)
  · exact lampsInv_of_seq h (by simp)

theorem goodReply_lamps (s : State) (v : Visit) (r : BallastReply) (h : LampsInv s) : LampsInv (goodReply s v r) := by
  unfold goodReply
  simp only
  split
  · exact lampsInv_of_seq h (by simp)
  · exact advanceReadback_lamps _ _ (lampsInv_of_seq h (by simp))
  · exact lampEvent_lamps _ (replyEvent_lamps _ _ _ (lampsInv_of_seq h (by simp)))

theorem missedReply_lamps (s : State) (v : Visit) (h : LampsInv s) : LampsInv (missedReply s v) := by
  have hlink (l : Link) : LampsInv ((endVisit s).setLink l) := lampsInv_of_seq h rfl
  unfold missedReply
  simp only
  split
  · exact hlink _
  · split
    · exact advanceReadback_lamps _ _ (hlink _)
    · exact lampsInv_of_seq (hlink _) rfl
  · exact lampEvent_lamps _ (ite_lamps (hlink _) (failBallast_lamps _ _ _ (hlink _)))

theorem strikeBoundary_lamps (s : State) (i : Nat) (h : LampsInv s) : LampsInv (strikeBoundary s i) := by
  unfold strikeBoundary; split
  · split
    · exact mapLamp_lamps _ _ _ Lamp.allowed_nextAttempt h
    · exact failLamp_lamps _ _ _ h
  · exact h

theorem putOut_lamps (s : State) (h : LampsInv s) : LampsInv (putOut s) := by
  unfold putOut; split
  · exact lampsInv_of_lamps (enterLamp_lamps s _ .cooling h) rfl
  · exact h

theorem lockModule_lamps (s : State) (m : Nat) (h : LampsInv s) : LampsInv (lockModule s m) :=
  lampsInv_of_seq (mapLamps_lamps s (fun l => decide (moduleOf l.index = m) && l.fitted) _
    (Lamp.allowed_enter (inFailsafe s) s.seq.level .locked) h) (by simp [lockModule])

theorem unlockLamp_lamps (s : State) (i : Nat) (h : LampsInv s) : LampsInv (unlockLamp s i) := by
  unfold unlockLamp; split
  · split
    · exact failLamp_lamps _ _ _ h
    · exact enterLamp_lamps _ _ _ h
  · exact h

theorem foldl_unlockLamp_lamps (is : List Nat) (s : State) (h : LampsInv s) : LampsInv (is.foldl unlockLamp s) := by
  induction is generalizing s with
  | nil => exact h
  | cons i is ih => exact ih _ (unlockLamp_lamps s i h)

/-- The lockout inputs and a scan begun again stay clear of the lamp records (R105, R139). -/
theorem restartScan_lockouts_lamps {s : State} (v : BitVec 6) (h : LampsInv s) :
    LampsInv (restartScan (s.setSeq { s.seq with lockouts := v })) := lampsInv_of_lamps h rfl

/-! ### Reset and supply -/

theorem takeSupply_lamps (s : State) (mv : Nat) (h : LampsInv s) : LampsInv (takeSupply s mv) := by
  unfold takeSupply
  simp only
  split
  · exact lampsInv_of_seq h rfl
  · exact ite_lamps (lampsInv_of_seq h rfl) (takeReset_lamps _ _ (lampsInv_of_seq h rfl))

/-- A cold reset's fresh records keep their places (R94). -/
theorem Lamp.allowed_fresh : Lamp.Allowed fun l => Lamp.fresh l.index :=
  fun _ => ⟨rfl, fun _ => rfl⟩

theorem releaseReset_lamps (s : State) (p : ResetPins) (h : LampsInv s) : LampsInv (releaseReset s p) := by
  refine lampsInv_map (fun l => if s.hold.belowRetention then Lamp.fresh l.index else l)
    (Lamp.allowed_ite (fun _ => s.hold.belowRetention) _ Lamp.allowed_fresh) h ?_
  unfold releaseReset releaseWiper
  simp only
  split <;> simp [setLamps]

theorem releaseOrHold_lamps (s : State) (p : ResetPins) (h : LampsInv s) :
    LampsInv (if causeStands (takeLevels s p) then takeLevels s p else releaseReset (takeLevels s p) p) := by
  have hl : LampsInv (takeLevels s p) := lampsInv_of_seq (takeSupply_lamps s p.supply h) rfl
  split
  · exact hl
  · exact releaseReset_lamps _ _ hl

/-! ### Events that leave the lamp records alone -/

section
variable {s : State} {f : State → State}

theorem event_lamps_of_seq (h : LampsInv s) (hf : (f s).seq = s.seq) : LampsInv (event s f) :=
  event_lamps _ _ h fun h => lampsInv_of_seq h hf

theorem outsideReset_lamps_of_seq (h : LampsInv s) (hf : (f s).seq = s.seq) : LampsInv (outsideReset s f) :=
  outsideReset_lamps _ _ h fun h => lampsInv_of_seq h hf

theorem readLine_lamps (g : Bus → Bus) (h : LampsInv s) : LampsInv (readLine s g) :=
  outsideReset_lamps_of_seq h (ite_seq rfl)

end

/-! ### Every command, and a millisecond -/

theorem Lamp.allowed_of_fields {f : Lamp → Lamp}
    (hf : ∀ l, (f l).index = l.index ∧ (f l).state = l.state ∧ (f l).slot = l.slot) : Lamp.Allowed f := by
  intro l
  obtain ⟨hi, hst, hsl⟩ := hf l
  exact ⟨hi, fun h => by rw [← h]; unfold Lamp.slotSound; rw [hst, hsl]⟩

/-- Every command keeps the lamp table: by the operations of its meaning. -/
theorem exec_lamps (c : Instr) (s : State) (h : LampsInv s) : ∃ t, exec c s = .next t ∧ LampsInv t := by
  cases c with
  | supplyBelowReset mv | supplyLowChange mv => exact ⟨_, rfl, takeSupply_lamps s mv h⟩
  | resetnLow us =>
    refine ⟨_, rfl, onceStood_keeps h ?_⟩
    split
    · exact lampsInv_of_seq h rfl
    · exact takeReset_lamps _ _ h
  | resetRelease pins => exact ⟨_, rfl, ite_lamps h (releaseOrHold_lamps s pins h)⟩
  | cfgBusError =>
    have hu : LampsInv (s.setLdr { s.ldr with attempts := s.ldr.attempts + 1 }) := lampsInv_of_seq h rfl
    exact ⟨_, rfl, event_lamps _ _ h fun h => ite_lamps h (ite_lamps hu (enterFailsafe_lamps _ _ hu))⟩
  | imageReadComplete image =>
    refine ⟨_, rfl, event_lamps _ _ h fun h => ite_lamps h ?_⟩
    split
    · exact enterFailsafe_lamps _ _ h
    · exact enterListen_lamps _ _ _ h
  | listenEnd =>
    exact ⟨_, rfl, event_lamps _ _ h fun h => ite_lamps h (lampsInv_of_seq (listenOver_lamps s h) (by simp))⟩
  | accrualTimerExpiry =>
    exact ⟨_, rfl, event_lamps _ _ h fun h => ite_lamps h (closeExpiry_lamps _ _ (lampsInv_of_seq h (by simp)))⟩
  | statusTimerExpiry | wipeIntervalExpiry | claimWindowExpiry | waitRecordExpiry | releaseTimerExpiry =>
    exact ⟨_, rfl, event_lamps_of_seq h (ite_seq (by simp))⟩
  | flowTimerExpiry | uvtTimerExpiry =>
    refine ⟨_, rfl, event_lamps_of_seq h (ite_seq ?_)⟩
    simp only; split <;> simp
  | flowSourceLapse =>
    exact ⟨_, rfl, event_lamps _ _ h fun h => ite_lamps h (flowChanged_lamps _ (lampsInv_of_seq h rfl))⟩
  | holdTimerExpiry =>
    exact ⟨_, rfl, event_lamps _ _ h fun h => ite_lamps h (followHold_lamps _ (lampsInv_of_seq h rfl))⟩
  | flowSourceDupClear | uvtSourceDupClear | pendingBreakExpiry | quietGapEnd =>
    exact ⟨_, rfl, outsideReset_lamps_of_seq h rfl⟩
  | pollCycleDue | scanStart | servedFlagClear | transmitStart _ =>
    exact ⟨_, rfl, outsideReset_lamps_of_seq h (ite_seq (by simp))⟩
  | dayTimerExpiry =>
    exact ⟨_, rfl, outsideReset_lamps _ _ h fun h =>
      lampsInv_map (fun l => { l with strikesDay := 0 }) (Lamp.allowed_of_fields fun _ => ⟨rfl, rfl, rfl⟩) h rfl⟩
  | runMinute i =>
    exact ⟨_, rfl, outsideReset_lamps _ _ h fun h =>
      mapLamps_lamps _ _ _ (Lamp.allowed_of_fields fun _ => ⟨rfl, rfl, rfl⟩) h⟩
  | uvtSourceLapse =>
    exact ⟨_, rfl, outsideReset_lamps _ _ h fun h => ite_lamps h (lampEvent_lamps _ (lampsInv_of_seq h rfl))⟩
  | warmupEnd i | coolingEnd i =>
    exact ⟨_, rfl, outsideReset_lamps _ _ h fun h => ite_lamps h (lampEvent_lamps _ (enterLamp_lamps _ _ _ h))⟩
  | strikeSpacingExpiry =>
    exact ⟨_, rfl, outsideReset_lamps _ _ h fun h => ite_lamps h (lampEvent_lamps _ (lampsInv_of_lamps h rfl))⟩
  | strikeAttemptExpiry i =>
    exact ⟨_, rfl, outsideReset_lamps _ _ h fun h => ite_lamps h (lampEvent_lamps _ (strikeBoundary_lamps _ _ h))⟩
  | extinguishHoldoffExpiry =>
    exact ⟨_, rfl, outsideReset_lamps _ _ h fun h => ite_lamps h (lampEvent_lamps _ (putOut_lamps _ h))⟩
  | rosterEntryLost key =>
    exact ⟨_, rfl, event_lamps _ _ h fun h =>
      ite_lamps h (lampsInv_of_seq (settleRos_lamps _ h) (freeWait_seq _ _ _))⟩
  | rosterEntryRemove key =>
    exact ⟨_, rfl, event_lamps _ _ h fun h => ite_lamps h (settleRos_lamps _ h)⟩
  | rxFrameBroken _ | rxFrameRejected _ | idleMarkZeroCharacter _ => exact ⟨_, rfl, readLine_lamps _ h⟩
  | formatErrorFrame src =>
    refine ⟨_, rfl, event_lamps _ _ h fun h => ?_⟩
    have hu : LampsInv (s.setBus { s.bus.frameTaken with formatErrors := bump16 s.bus.formatErrors }) :=
      lampsInv_of_seq h rfl
    simp only
    split
    · exact hu
    · exact learnSource_lamps _ _ hu
  | joinReceived src b =>
    exact ⟨_, rfl, frameEvent_lamps _ _ h fun t h =>
      lampsInv_of_seq (settleRos_lamps _ h) (noteBreak_seq _ _ _ _)⟩
  | statusReceived src b =>
    exact ⟨_, rfl, frameEvent_lamps _ _ h fun t h =>
      lampsInv_of_seq (settleRos_lamps _ h) (statusWatermark_seq _ _ _)⟩
  | flowReceived src b =>
    exact ⟨_, rfl, frameEvent_lamps _ _ h fun t h =>
      have hl := learnSource_lamps t src h
      ite_lamps hl (flowChanged_lamps _ (lampsInv_of_seq hl (by simp)))⟩
  | uvtReceived src _ =>
    exact ⟨_, rfl, frameEvent_lamps _ _ h fun t h =>
      have hl := learnSource_lamps t src h
      ite_lamps hl (lampEvent_lamps _ (lampsInv_of_seq hl (by simp)))⟩
  | parcelReceived src _ | wipeClaimReceived src =>
    exact ⟨_, rfl, frameEvent_lamps _ _ h fun t h =>
      lampsInv_of_seq (learnSource_lamps t src h) (ite_seq (by simp))⟩
  | dischargeReceived src _ | reportReceived src =>
    exact ⟨_, rfl, frameEvent_lamps _ _ h fun t h => learnSource_lamps t src h⟩
  | leaveReceived src reason =>
    refine ⟨_, rfl, frameEvent_lamps _ _ h fun t h => ?_⟩
    split
    · exact settleRos_lamps _ h
    · exact lampsInv_of_seq (settleRos_lamps (t.ros.leaveFrom src) h) (ite_seq (freeWait_seq _ _ _))
  | wipeActiveReceived src | wipeDoneReceived src _ =>
    exact ⟨_, rfl, frameEvent_lamps _ _ h fun t h =>
      lampsInv_of_seq (settleRos_lamps ((t.ros.learnPlain src).setWiping src _) h) (ite_seq (by simp))⟩
  | clearLamp src b =>
    exact ⟨_, rfl, commandEvent_lamps _ _ _ _ h fun t h => applyCommand_lamps _ _ h (clearLamps_lamps _ _ h)⟩
  | clearBallast _ _ | clearSensor _ _ | clearWiper _ _ | wipeNow _ _ =>
    exact ⟨_, rfl, commandEvent_lamps _ _ _ _ h fun t h => applyCommand_lamps _ _ h (lampsInv_of_seq h (by simp))⟩
  | restart src b =>
    refine ⟨_, rfl, commandEvent_lamps _ _ _ _ h fun t h => ?_⟩
    split
    · exact takeReset_lamps _ _ h
    · exact lampsInv_of_seq h (by simp)
  | query src b =>
    refine ⟨_, rfl, commandEvent_lamps _ _ _ _ h fun t h => lampsInv_of_seq h ?_⟩
    split <;> simp
  | commandOtherCode src code b =>
    exact ⟨_, rfl, commandEvent_lamps _ _ _ _ h fun t h => lampsInv_of_seq h (by simp)⟩
  | restartTimeout =>
    exact ⟨_, rfl, outsideReset_lamps _ _ h fun h => ite_lamps h (takeReset_lamps _ _ h)⟩
  | transmitComplete _ | collision _ =>
    refine ⟨_, rfl, event_lamps_of_seq h ?_⟩
    split
    · exact ite_seq (by simp)
    · rfl
  | ballastGoodReply reply =>
    refine ⟨_, rfl, outsideReset_lamps _ _ h fun h => ?_⟩
    split
    · exact goodReply_lamps _ _ _ h
    · exact h
  | ballastMiss reply =>
    refine ⟨_, rfl, outsideReset_lamps _ _ h fun h => ?_⟩
    split
    · exact missedReply_lamps _ _ h
    · exact h
  | lockoutOpen m ms =>
    refine ⟨_, rfl, onceStood_keeps h (outsideReset_lamps _ _ h fun h => ?_)⟩
    have hu := restartScan_lockouts_lamps (s.seq.lockouts ||| BitVec.twoPow 6 (m - 1)) h
    split
    · exact h
    · exact ite_lamps hu (lampEvent_lamps _ (lockModule_lamps _ m hu))
  | lockoutClose m ms =>
    refine ⟨_, rfl, onceStood_keeps h (outsideReset_lamps _ _ h fun h => ite_lamps h ?_)⟩
    have hu := restartScan_lockouts_lamps (s.seq.lockouts &&& ~~~(BitVec.twoPow 6 (m - 1))) h
    exact ite_lamps hu (lampEvent_lamps _ (foldl_unlockLamp_lamps _ _ hu))
  | scanComplete raw fdir =>
    exact ⟨_, rfl, event_lamps _ _ h fun h => ite_lamps h (completeScan_lamps _ _ _ h)⟩
  | wendActive active ms =>
    refine ⟨_, rfl, onceStood_keeps h (event_lamps_of_seq h ?_)⟩
    split
    · rfl
    · simp only; split <;> simp
  | whomeActive ms =>
    refine ⟨_, rfl, onceStood_keeps h (event_lamps_of_seq h ?_)⟩
    split
    · rfl
    · simp
  | whomeInactive ms => exact ⟨_, rfl, onceStood_keeps h (outsideReset_lamps_of_seq h rfl)⟩
  | strokeTimerExpiry =>
    refine ⟨_, rfl, event_lamps_of_seq h (ite_seq ?_)⟩
    split <;> simp

theorem tick_lamps (s : State) (h : LampsInv s) : LampsInv (tick s) := by
  unfold tick; split
  · exact h
  · exact lampsInv_map (tickLamp (linkRuns s)) (Lamp.allowed_of_fields fun _ => ⟨rfl, rfl, rfl⟩) h rfl

/-- Settles O57: a step is a command or a millisecond, and both keep the table. -/
theorem stepsKeepTheLampTable : Obligations.StepsKeepTheLampTable := by
  unfold Obligations.StepsKeepTheLampTable
  exact step_keeps (fun _ _ h => lampsInv_of_seq h rfl) tick_lamps exec_lamps

end Sys2Proof.Machine
end

section
/-! The CLEAR commands act on their conditions or are refused without effect (O32). -/

namespace Sys2Proof.Machine

/-! ### A command given to its owner (R188, R196) -/

theorem answered_answer (s : State) (code outcome : Byte) : Answered code outcome s (answer s code outcome) := by
  unfold answer
  exact ⟨fun hm => if_pos hm, fun hm => if_neg hm⟩

theorem applyCommand_of_done {s : State} (code : Byte) {done : Bool} (f : State → State) (hd : done = true)
    (hm : s.ctl.mode ≠ .failsafe) : applyCommand s code done f = answer (f s) code 0 := by
  simp [applyCommand, hd, inFailsafe, hm, outcomeDone]

theorem applyCommand_of_refused (s : State) (code : Byte) {done : Bool} (f : State → State) (hd : done = false) :
    applyCommand s code done f = answer s code 1 := by
  simp [applyCommand, hd, outcomeRefused]

theorem applyCommand_restarting (s : State) (code : Byte) (done : Bool) {f : State → State}
    (hf : ∀ t, (f t).restarting = t.restarting) : (applyCommand s code done f).restarting = s.restarting := by
  unfold applyCommand; split <;> simp only [answer_restarting, hf]

theorem readied_restarting (s : State) (a : Src) : (readied s a).restarting = s.restarting :=
  (setReply_restarting _ _).trans (learned_restarting s a)

/-- `v` is what a command to the owner leaves of `u`: done by `f` where the owner does it, refused where not. -/
def OwnerAnswers (code : Byte) (done : State → Bool) (f : State → State) (u v : State) : Prop :=
  (done u = true → Answered code 0 (f u) v) ∧ (done u = false → Answered code 1 u v)

/-- Outside FAILSAFE a COMMAND that passes the screen is answered as its owner answers (R196). -/
theorem commandEvent_ownerAnswers {s : State} {a : Src} {b : CommandBody} (h : TakesFrames s) (ha : AimedHere s a b)
    (hm : (readied s a).ctl.mode ≠ .failsafe) (code : Byte) (done : State → Bool) {f : State → State}
    (hf : ∀ t, (f t).restarting = t.restarting) :
    OwnerAnswers code done f (readied s a) (commandEvent s a b fun s => applyCommand s code (done s) f) := by
  rw [commandEvent_of_aimed _ h ha ((applyCommand_restarting _ _ _ hf).trans (readied_restarting s a))]
  refine ⟨fun hd => ?_, fun hd => ?_⟩
  · rw [applyCommand_of_done code f hd hm]; exact answered_answer _ _ _
  · rw [applyCommand_of_refused _ code f hd]; exact answered_answer _ _ _

/-! ### What the owners ask and do -/

theorem clearLampDone_iff (u : State) (i : Nat) :
    clearLampDone u i = true ↔ i = 0 ∨ ∃ l, lampAt u i = some l ∧ lampClearable u l = true := by
  unfold clearLampDone
  by_cases hi : i = 0
  · simp [hi]
  · cases hl : lampAt u i <;> simp [hi]

/-- CLEAR_LAMP as the statement writes it (R107). -/
theorem clearLamps_eq (u : State) (i : Nat) : clearLamps u i = lampEvent (u.setSeq { u.seq with
    lamps := u.seq.lamps.map fun l => if (i = 0 ∨ l.index = i) ∧ lampClearable u l = true then
      { l with state := .off, slot := ⟨.off, 0⟩, cause := none, timer := 0, attempt := 0, e := u.ldr.cfg.eNom }
      else l }) := by
  simp only [clearLamps, mapLamps, setLamps, Bool.and_eq_true, Bool.or_eq_true, decide_eq_true_eq]
  rfl

theorem clearLamps_restarting (u : State) (i : Nat) : (clearLamps u i).restarting = u.restarting := by
  simp [State.restarting]

theorem clearBallastDone_iff (u : State) (i : Nat) : clearBallastDone u i = true ↔
    u.link.phase = .running ∧ 1 ≤ i ∧ i ≤ u.link.count ∧ ballastLost u i = true := by
  simp [clearBallastDone, linkRuns, and_assoc]

theorem clearBallast_restarting (u : State) (i : Nat) : (clearBallast u i).restarting = u.restarting := rfl

theorem mem_convertedInputs (u : State) (i : Nat) : i ∈ convertedInputs u ↔ i < min u.ldr.cfg.nMod 6 ∨
    (i = 6 ∧ u.ldr.straps.flowSrc = true) ∨ (i = 7 ∧ u.ldr.straps.uvtSrc = true) := by
  unfold convertedInputs
  cases u.ldr.straps.flowSrc <;> cases u.ldr.straps.uvtSrc <;> simp

theorem sensorClearable_iff (u : State) (i : Nat) : sensorClearable u i = true ↔
    (i < min u.ldr.cfg.nMod 6 ∨ (i = 6 ∧ u.ldr.straps.flowSrc = true) ∨ (i = 7 ∧ u.ldr.straps.uvtSrc = true)) ∧
      (inputAt u i).fault = true := by
  rw [← mem_convertedInputs]
  simp [sensorClearable]

theorem clearInput_restarting (u : State) (i : Nat) : (clearInput u i).restarting = u.restarting := rfl

/-- Settles O32, each command by its owner's condition. -/
theorem clearCommandsActOrAreRefused : Obligations.ClearCommandsActOrAreRefused := by
  unfold Obligations.ClearCommandsActOrAreRefused
  refine ⟨fun a b s h ha hm => ?_, fun a b s h ha hm => ?_, fun a b s h ha hm => ?_⟩
  · obtain ⟨hdone, hrefused⟩ := commandEvent_ownerAnswers h ha hm 1 (clearLampDone · b.arg1.toNat)
      (clearLamps_restarting · b.arg1.toNat)
    refine ⟨fun hc => ⟨_, rfl, ?_⟩, fun hi hc => ⟨_, rfl, hrefused ?_⟩⟩
    · have hv : Answered 1 0 (clearLamps (readied s a) b.arg1.toNat) _ := hdone ((clearLampDone_iff _ _).mpr hc)
      rw [clearLamps_eq] at hv
      exact hv
    · rw [← Bool.not_eq_true, clearLampDone_iff]
      rintro (h0 | ⟨l, hl, hcl⟩)
      · exact hi h0
      · exact Bool.false_ne_true ((hc l hl).symm.trans hcl)
  · obtain ⟨hdone, hrefused⟩ := commandEvent_ownerAnswers h ha hm 2 (clearBallastDone · b.arg1.toNat)
      (clearBallast_restarting · b.arg1.toNat)
    refine ⟨fun hc => ⟨_, rfl, hdone ((clearBallastDone_iff _ _).mpr hc)⟩, fun hc => ⟨_, rfl, hrefused ?_⟩⟩
    rw [← Bool.not_eq_true, clearBallastDone_iff]
    exact hc
  · obtain ⟨hdone, hrefused⟩ := commandEvent_ownerAnswers h ha hm 3 (sensorClearable · b.arg1.toNat)
      (clearInput_restarting · b.arg1.toNat)
    refine ⟨fun hc hf => ⟨_, rfl, hdone ((sensorClearable_iff _ _).mpr ⟨hc, hf⟩)⟩, fun hc => ⟨_, rfl, hrefused ?_⟩⟩
    rw [← Bool.not_eq_true, sensorClearable_iff]
    rintro ⟨hconv, hf⟩
    rcases hc with hc | hc
    · exact hc hconv
    · exact Bool.false_ne_true (hc.symm.trans hf)

end Sys2Proof.Machine
end

section
/-! Reported statuses and the findings of readback move the lamps (O42). -/

namespace Sys2Proof.Machine

/-! ### A reported status, every pair (R98, R100, R101, R118) -/

section
variable {l : Lamp}

theorem takeStatus_of_striking (level : Nat) (h : l.state = .striking) :
    takeStatus level l .lit = l.enter false level .warming ∧ takeStatus level l .off = l ∧
      takeStatus level l .striking = l ∧ takeStatus level l .openCircuit = l.fail .lampOpen ∧
      takeStatus level l .shortCircuit = l.fail .lampShort := by
  simp only [takeStatus, h, and_self]

theorem takeStatus_of_burning (level : Nat) (h : l.state = .warming ∨ l.state = .lit) :
    takeStatus level l .lit = l ∧ takeStatus level l .off = l.enter false level .cooling ∧
      takeStatus level l .striking = l.enter false level .cooling ∧
      takeStatus level l .openCircuit = l.fail .lampOpen ∧ takeStatus level l .shortCircuit = l.fail .lampShort := by
  rcases h with h | h <;> simp only [takeStatus, h, and_self]

theorem takeStatus_of_dark (level : Nat) (hb : ¬ (l.state = .warming ∨ l.state = .lit)) (hs : l.state ≠ .striking)
    (st : LampStatus) : takeStatus level l st = l := by
  unfold takeStatus
  cases h : l.state <;> simp_all

theorem takeStatusFailsafe_of_off (h : l.state = .off) :
    takeStatusFailsafe l .lit = l.enter true 10 .lit ∧ takeStatusFailsafe l .off = l ∧
      takeStatusFailsafe l .striking = l ∧ takeStatusFailsafe l .openCircuit = l.fail .lampOpen ∧
      takeStatusFailsafe l .shortCircuit = l.fail .lampShort := by
  simp only [takeStatusFailsafe, h, and_self]

theorem takeStatusFailsafe_of_lit (h : l.state = .lit) :
    takeStatusFailsafe l .lit = l ∧ takeStatusFailsafe l .off = l.enter true 10 .off ∧
      takeStatusFailsafe l .striking = l.enter true 10 .off ∧ takeStatusFailsafe l .openCircuit = l.fail .lampOpen ∧
      takeStatusFailsafe l .shortCircuit = l.fail .lampShort := by
  simp only [takeStatusFailsafe, h, and_self]

theorem takeStatusFailsafe_of_others (ho : l.state ≠ .off) (hl : l.state ≠ .lit) (st : LampStatus) :
    takeStatusFailsafe l st = l := by
  unfold takeStatusFailsafe
  cases h : l.state <;> simp_all

end

/-! ### The readback table (R117, R118) -/

/-- A record built from a finding, field by field. -/
theorem builtLamp_eq (s : State) (fs : List (Option BallastReply)) (level : Nat) (l : Lamp) :
    builtLamp s fs level l = { l with
      state := (lampFinding s fs l).1
      slot := if l.fitted then slotFor (inFailsafe s) level (lampFinding s fs l).1 else ⟨.off, 0⟩
      cause := (lampFinding s fs l).2, timer := 0, attempt := 0 } := rfl

section
variable {s : State} {fs : List (Option BallastReply)} {l : Lamp}

theorem lampFinding_of_unfitted (hf : l.fitted = false) : lampFinding s fs l = (.off, none) := by
  simp [lampFinding, hf]

theorem lampFinding_of_locked (hf : l.fitted = true) (ho : lockoutOpenAt s (moduleOf l.index) = true) :
    lampFinding s fs l = (.locked, none) := by
  simp [lampFinding, readbackState, hf, ho]

theorem lampFinding_of_lost (hf : l.fitted = true) (ho : lockoutOpenAt s (moduleOf l.index) = false)
    (hn : findingFor fs l.index = none) : lampFinding s fs l = (.failed, some .ballastLost) := by
  simp [lampFinding, readbackState, hf, ho, hn]

theorem lampFinding_of_hot (hf : l.fitted = true) (ho : lockoutOpenAt s (moduleOf l.index) = false)
    {r : BallastReply} (hr : findingFor fs l.index = some r) (hc : r.cls = .hot) :
    lampFinding s fs l = (.failed, some .ballastHot) := by
  simp [lampFinding, readbackState, hf, ho, hr, hc]

/-- Where a lamp goes by its reported status (R117). -/
def stateReported : LampStatus → LampState × Option FailCause
  | .openCircuit => (.failed, some .lampOpen)
  | .shortCircuit => (.failed, some .lampShort)
  | .lit => (.lit, none)
  | .off => (.off, none)
  | .striking => (.off, none)

theorem lampFinding_of_reported (hf : l.fitted = true) (ho : lockoutOpenAt s (moduleOf l.index) = false)
    {r : BallastReply} (hr : findingFor fs l.index = some r) (hc : r.cls ≠ .hot) :
    lampFinding s fs l = stateReported (reportOf r l.index).status := by
  simp only [lampFinding, readbackState, hf, ho, hr, hc, if_true, if_false, Bool.false_eq_true]
  cases (reportOf r l.index).status <;> rfl

/-- The record of a lamp found out of service, or not fitted at all. -/
theorem builtLamp_of_out {st : LampState} {c : Option FailCause} (level : Nat) (h : lampFinding s fs l = (st, c))
    (hout : l.fitted = false ∨ st = .failed ∨ st = .locked) :
    (builtLamp s fs level l).state = st ∧ (builtLamp s fs level l).cause = c ∧
      (builtLamp s fs level l).slot = ⟨.off, 0⟩ := by
  simp only [builtLamp_eq, h, true_and]
  rcases hout with hf | rfl | rfl
  · rw [hf]; rfl
  · exact ite_self _
  · exact ite_self _

/-- The record of a lamp found in service. -/
theorem builtLamp_of_service {st : LampState} (level : Nat) (h : lampFinding s fs l = (st, none))
    (hf : l.fitted = true) : (builtLamp s fs level l).state = st ∧ (builtLamp s fs level l).cause = none ∧
      (builtLamp s fs level l).slot = slotFor (inFailsafe s) level st := by
  simp only [builtLamp_eq, h, hf, if_true, true_and]

end

theorem slotFor_lit (s : State) (level : Nat) : slotFor (inFailsafe s) level .lit =
    if s.ctl.mode = .failsafe then ⟨.strike, 10⟩ else ⟨.on, level⟩ := by
  simp [slotFor, inFailsafe]

theorem slotFor_off (s : State) (level : Nat) : slotFor (inFailsafe s) level .off =
    if s.ctl.mode = .failsafe then ⟨.strike, 10⟩ else ⟨.off, 0⟩ := by
  simp [slotFor, inFailsafe]

/-! ### The level at readback (R117, R118) -/

/-- The level code reported for a lamp, 0 where its ballast has none. -/
def reportedLevel (fs : List (Option BallastReply)) (l : Lamp) : Nat :=
  match findingFor fs l.index with
  | some r => (if l.index % 2 = 1 then r.a else r.b).level
  | none => 0

/-- The lamp goes to LIT at readback. -/
def foundLit (s : State) (fs : List (Option BallastReply)) (l : Lamp) : Prop :=
  l ∈ s.seq.lamps ∧ (builtLamp s fs 10 l).state = .lit

/-- The levels that readback chooses from. -/
def levelsFound (s : State) (fs : List (Option BallastReply)) : List Nat :=
  (s.seq.lamps.filter fun l => (lampFinding s fs l).1 == .lit).map (reportedLevel fs)

theorem readbackLevel_eq (s : State) (fs : List (Option BallastReply)) : readbackLevel s fs =
    if inFailsafe s then 10 else ((levelsFound s fs).max?.map fun v => max 5 (min 10 v)).getD 10 := by
  have hlevels : (fun l : Lamp => ((findingFor fs l.index).map fun r => (reportOf r l.index).level).getD 0) =
      reportedLevel fs := by
    funext l
    unfold reportedLevel
    cases findingFor fs l.index <;> rfl
  unfold readbackLevel levelsFound
  simp only [hlevels]
  generalize ((s.seq.lamps.filter fun l => (lampFinding s fs l).1 == .lit).map (reportedLevel fs)).max? = top
  cases top <;> cases inFailsafe s <;> rfl

theorem mem_levelsFound (s : State) (fs : List (Option BallastReply)) (v : Nat) :
    v ∈ levelsFound s fs ↔ ∃ l, foundLit s fs l ∧ reportedLevel fs l = v := by
  simp [levelsFound, foundLit, builtLamp_eq]

theorem readbackLevel_of_none {s : State} {fs : List (Option BallastReply)}
    (h : s.ctl.mode = .failsafe ∨ ∀ l, ¬ foundLit s fs l) : readbackLevel s fs = 10 := by
  rw [readbackLevel_eq]
  rcases h with hm | hn
  · exact if_pos (by simp [inFailsafe, hm])
  · have hempty : levelsFound s fs = [] := List.eq_nil_iff_forall_not_mem.mpr fun v hv => by
      obtain ⟨l, hl, -⟩ := (mem_levelsFound s fs v).mp hv
      exact hn l hl
    rw [hempty]
    exact ite_self _

/-- Outside FAILSAFE the level is the highest reported among the lamps that go to LIT, limited. -/
theorem readbackLevel_of_lit {s : State} {fs : List (Option BallastReply)} {l : Lamp} (hm : s.ctl.mode ≠ .failsafe)
    (hl : foundLit s fs l) : ∃ g, foundLit s fs g ∧ reportedLevel fs l ≤ reportedLevel fs g ∧
      readbackLevel s fs = max 5 (min 10 (reportedLevel fs g)) := by
  have hs : inFailsafe s = false := by simp [inFailsafe, hm]
  have hmem : reportedLevel fs l ∈ levelsFound s fs := (mem_levelsFound _ _ _).mpr ⟨l, hl, rfl⟩
  cases hv : (levelsFound s fs).max? with
  | none => rw [List.max?_eq_none_iff.mp hv] at hmem; exact absurd hmem (by simp)
  | some v =>
    obtain ⟨hin, htop⟩ := List.max?_eq_some_iff.mp hv
    obtain ⟨g, hg, rfl⟩ := (mem_levelsFound _ _ _).mp hin
    refine ⟨g, hg, htop _ hmem, ?_⟩
    rw [readbackLevel_eq, hv, hs]
    rfl

/-- Settles O42: statuses by the lamp's state, findings row by row, then the level. -/
theorem reportsMoveTheLamps : Obligations.ReportsMoveTheLamps := by
  unfold Obligations.ReportsMoveTheLamps
  refine ⟨fun l level => ⟨fun h => (takeStatus_of_striking level h).1, fun h => ?_, fun h => ?_,
    fun h => (takeStatus_of_burning level h).1, fun h => ?_, fun hb hs => takeStatus_of_dark level hb hs, fun h => ?_,
    fun h => ?_, fun h => ?_, fun ho hl => takeStatusFailsafe_of_others ho hl⟩, fun s fs => ⟨fun level l => ?_, ?_⟩⟩
  · obtain ⟨-, hoff, hstriking, -⟩ := takeStatus_of_burning level h
    exact ⟨hoff, hstriking⟩
  · rcases h with h | h
    · obtain ⟨-, -, -, hopen, hshort⟩ := takeStatus_of_burning level h
      exact ⟨hopen, hshort⟩
    · obtain ⟨-, -, -, hopen, hshort⟩ := takeStatus_of_striking level h
      exact ⟨hopen, hshort⟩
  · obtain ⟨-, hoff, hstriking, -⟩ := takeStatus_of_striking level h
    exact ⟨hoff, hstriking⟩
  · obtain ⟨hlit, hoff, hstriking, -⟩ := takeStatusFailsafe_of_off h
    exact ⟨hlit, hoff, hstriking⟩
  · obtain ⟨hlit, hoff, hstriking, -⟩ := takeStatusFailsafe_of_lit h
    exact ⟨hoff, hstriking, hlit⟩
  · rcases h with h | h
    · obtain ⟨-, -, -, hopen, hshort⟩ := takeStatusFailsafe_of_off h
      exact ⟨hopen, hshort⟩
    · obtain ⟨-, -, -, hopen, hshort⟩ := takeStatusFailsafe_of_lit h
      exact ⟨hopen, hshort⟩
  · refine ⟨fun hf => builtLamp_of_out level (lampFinding_of_unfitted hf) (.inl hf),
      fun hf ho => builtLamp_of_out level (lampFinding_of_locked hf ho) (.inr (.inr rfl)),
      fun hf ho => ⟨fun hn => builtLamp_of_out level (lampFinding_of_lost hf ho hn) (.inr (.inl rfl)),
        fun r hr => ⟨fun hc => builtLamp_of_out level (lampFinding_of_hot hf ho hr hc) (.inr (.inl rfl)),
          fun hc => ?_⟩⟩, rfl⟩
    have hfound := lampFinding_of_reported hf ho hr hc
    refine ⟨fun hst => ?_, fun hst => ?_, fun hst => ?_, fun hst => ?_⟩
    · exact builtLamp_of_out level (hfound.trans (congrArg stateReported hst)) (.inr (.inl rfl))
    · exact builtLamp_of_out level (hfound.trans (congrArg stateReported hst)) (.inr (.inl rfl))
    · rw [← slotFor_lit]
      exact builtLamp_of_service level (hfound.trans (congrArg stateReported hst)) hf
    · rw [← slotFor_off]
      have hoff : stateReported (reportOf r l.index).status = (.off, none) := by
        rcases hst with hst | hst <;> exact congrArg stateReported hst
      exact builtLamp_of_service level (hfound.trans hoff) hf
  · refine ⟨fun h => readbackLevel_of_none h, fun hm l hl => ?_⟩
    obtain ⟨g, hg, hle, heq⟩ := readbackLevel_of_lit hm hl
    refine ⟨?_, g, hg, heq⟩
    rw [heq]
    exact max_le_max_left 5 (min_le_min_left 10 hle)

end Sys2Proof.Machine
end

section
/-! Choosing a lamp: who is preferred, and who comes first or last in the table (R111, R114). -/

namespace Sys2Proof.Machine

/-! ### Preferences -/

theorem mem_preferring {α : Type} {p : α → Bool} {l : List α} {x : α} :
    x ∈ preferring p l ↔ x ∈ l ∧ ((∃ y ∈ l, p y = true) → p x = true) := by
  unfold preferring
  split
  · rename_i hempty
    have hnone : ¬ ∃ y ∈ l, p y = true := by simpa [List.isEmpty_iff] using hempty
    exact ⟨fun hx => ⟨hx, fun hy => absurd hy hnone⟩, fun hx => hx.1⟩
  · rename_i hsome
    have hy : ∃ y ∈ l, p y = true := by simpa [List.isEmpty_iff] using hsome
    rw [List.mem_filter]
    exact ⟨fun hx => ⟨hx.1, fun _ => hx.2⟩, fun hx => ⟨hx.1, hx.2 hy⟩⟩

theorem preferring_sublist {α : Type} (p : α → Bool) (l : List α) : (preferring p l).Sublist l := by
  unfold preferring
  split
  · exact List.Sublist.refl l
  · exact List.filter_sublist

theorem preferring_ne_nil {α : Type} (p : α → Bool) {l : List α} (h : l ≠ []) : preferring p l ≠ [] := by
  unfold preferring
  split
  · exact h
  · rename_i hsome
    simpa [List.isEmpty_iff] using hsome

/-! ### The order of the table -/

/-- The records of a sound table stand in the order of their indices (R93). -/
theorem lamps_ordered {s : State} (h : LampsInv s) : s.seq.lamps.Pairwise fun a b => a.index < b.index := by
  have hindices : (s.seq.lamps.map (·.index)).Pairwise (· < ·) := by rw [h.1]; decide
  exact List.pairwise_map.mp hindices

theorem index_le_of_head {ls : List Lamp} {l : Lamp} (ho : ls.Pairwise fun a b => a.index < b.index)
    (hl : ls.head? = some l) : ∀ g ∈ ls, l.index ≤ g.index := by
  cases ls with
  | nil => simp at hl
  | cons a rest =>
    obtain rfl : a = l := by simpa using hl
    intro g hg
    rcases List.mem_cons.mp hg with rfl | hg
    · exact le_refl _
    · exact (List.rel_of_pairwise_cons ho hg).le

theorem index_le_of_getLast {ls : List Lamp} {l : Lamp} (ho : ls.Pairwise fun a b => a.index < b.index)
    (hl : ls.getLast? = some l) : ∀ g ∈ ls, g.index ≤ l.index := by
  obtain ⟨init, rfl⟩ := List.getLast?_eq_some_iff.mp hl
  intro g hg
  rcases List.mem_append.mp hg with hg | hg
  · exact ((List.pairwise_append.mp ho).2.2 g hg l (by simp)).le
  · rw [List.mem_singleton.mp hg]

/-! ### The lamp to put out (R114) -/

/-- LIT, with the most run minutes of the LIT lamps. -/
def MostRun (s : State) (l : Lamp) : Prop :=
  l ∈ s.seq.lamps ∧ l.state = .lit ∧ ∀ g ∈ s.seq.lamps, g.state = .lit → g.runMinutes ≤ l.runMinutes

/-- The lamps R114 leaves to choose from. -/
def extinguishCandidates (s : State) : List Lamp :=
  let lit := s.seq.lamps.filter Lamp.isLit
  preferring (ballastWarm s) (lit.filter fun l => lit.all fun g => decide (g.runMinutes ≤ l.runMinutes))

theorem extinguishChoice_eq (s : State) : extinguishChoice s = (extinguishCandidates s).getLast? := rfl

theorem mem_mostRun (s : State) (l : Lamp) :
    (l ∈ (s.seq.lamps.filter Lamp.isLit).filter fun l =>
      (s.seq.lamps.filter Lamp.isLit).all fun g => decide (g.runMinutes ≤ l.runMinutes)) ↔ MostRun s l := by
  simp only [MostRun, List.mem_filter, List.all_eq_true, Lamp.isLit, decide_eq_true_eq, and_imp, and_assoc]

theorem ballastWarm_iff (s : State) (l : Lamp) :
    ballastWarm s l = true ↔ ballastClass s ((l.index + 1) / 2) = .warm := decide_eq_true_iff

theorem mem_extinguishCandidates (s : State) (l : Lamp) : l ∈ extinguishCandidates s ↔ MostRun s l ∧
    ((∃ g, MostRun s g ∧ ballastClass s ((g.index + 1) / 2) = .warm) →
      ballastClass s ((l.index + 1) / 2) = .warm) := by
  unfold extinguishCandidates
  simp only [mem_preferring, mem_mostRun, ballastWarm_iff]

theorem extinguishCandidates_ne_nil {s : State} (h : s.seq.lamps.any Lamp.isLit = true) :
    extinguishCandidates s ≠ [] := by
  obtain ⟨l, hl, hlit⟩ := List.any_eq_true.mp h
  obtain ⟨g, hg, hmost⟩ := (s.seq.lamps.filter Lamp.isLit).toFinset.exists_max_image (·.runMinutes)
    ⟨l, by simp [hl, hlit]⟩
  refine preferring_ne_nil _ (List.ne_nil_of_mem ((mem_mostRun s g).mpr ?_))
  simp only [List.mem_toFinset, List.mem_filter, Lamp.isLit, decide_eq_true_eq, and_imp] at hg hmost
  exact ⟨hg.1, hg.2, hmost⟩

/-- Where a lamp is LIT, one is chosen, and in a sound table it is the last of the candidates. -/
theorem extinguishChoice_of_lit {s : State} (h : s.seq.lamps.any Lamp.isLit = true) :
    ∃ l, extinguishChoice s = some l ∧ l ∈ extinguishCandidates s ∧
      (LampsInv s → ∀ g ∈ extinguishCandidates s, g.index ≤ l.index) := by
  have hne := extinguishCandidates_ne_nil h
  have hlast := List.getLast?_eq_some_getLast hne
  refine ⟨_, (extinguishChoice_eq s).trans hlast, List.getLast_mem hne, fun hi => ?_⟩
  have hsub : (extinguishCandidates s).Sublist s.seq.lamps :=
    (preferring_sublist _ _).trans (List.filter_sublist.trans List.filter_sublist)
  exact index_le_of_getLast ((lamps_ordered hi).sublist hsub) hlast

theorem extinguishChoice_of_none {s : State} (h : ∀ l ∈ s.seq.lamps, l.state ≠ .lit) : extinguishChoice s = none := by
  have hempty : extinguishCandidates s = [] := List.eq_nil_iff_forall_not_mem.mpr fun l hl => by
    obtain ⟨⟨hm, hlit, -⟩, -⟩ := (mem_extinguishCandidates s l).mp hl
    exact h l hm hlit
  rw [extinguishChoice_eq, hempty]; rfl

end Sys2Proof.Machine
end

section
/-! The expiries of the lamps' and the sequencer's timers (O44). -/

namespace Sys2Proof.Machine

theorem lampIn_iff (s : State) (i : Nat) (st : LampState) :
    lampIn s i st = true ↔ ∃ l, lampAt s i = some l ∧ l.fitted = true ∧ l.state = st := by
  unfold lampIn
  cases lampAt s i <;> simp

/-- A command outside reset that acts on a condition. -/
theorem exec_of_outsideReset_ite {i : Instr} {s : State} (h : s.hold.held = false) (c : State → Bool)
    (f : State → State) (hi : exec i s = .next (outsideReset s fun s => if c s then f s else s)) :
    (c s = true → exec i s = .next (f s)) ∧ (c s = false → exec i s = .next s) := by
  rw [hi, outsideReset_of_run _ h]
  refine ⟨fun hc => ?_, fun hc => ?_⟩
  · rw [if_pos hc]
  · rw [hc]; rfl

/-! ### One lamp's own timer (R96, R98, R99) -/

section
variable {s : State}

theorem exec_strikeAttemptExpiry (h : s.hold.held = false) (i : Nat) :
    (lampIn s i .striking = true → exec (.strikeAttemptExpiry i) s = .next (lampEvent (strikeBoundary s i))) ∧
      (lampIn s i .striking = false → exec (.strikeAttemptExpiry i) s = .next s) :=
  exec_of_outsideReset_ite h (lampIn · i .striking) (fun s => lampEvent (strikeBoundary s i)) rfl

theorem strikeBoundary_of_next {i : Nat} {l : Lamp} (hl : lampAt s i = some l) (ha : l.attempt < 3) :
    strikeBoundary s i = mapLamp s i Lamp.nextAttempt := by
  simp only [strikeBoundary, hl, ha, if_true]

theorem strikeBoundary_of_last {i : Nat} {l : Lamp} (hl : lampAt s i = some l) (ha : 3 ≤ l.attempt) :
    strikeBoundary s i = failLamp s i .noStrike := by
  simp only [strikeBoundary, hl, Nat.not_lt.mpr ha, if_false]

theorem exec_warmupEnd (h : s.hold.held = false) (i : Nat) :
    (lampIn s i .warming = true → exec (.warmupEnd i) s = .next (lampEvent (enterLamp s i .lit))) ∧
      (lampIn s i .warming = false → exec (.warmupEnd i) s = .next s) :=
  exec_of_outsideReset_ite h (lampIn · i .warming) (fun s => lampEvent (enterLamp s i .lit)) rfl

theorem exec_coolingEnd (h : s.hold.held = false) (i : Nat) :
    (lampIn s i .cooling = true → exec (.coolingEnd i) s = .next (lampEvent (enterLamp s i .off))) ∧
      (lampIn s i .cooling = false → exec (.coolingEnd i) s = .next s) :=
  exec_of_outsideReset_ite h (lampIn · i .cooling) (fun s => lampEvent (enterLamp s i .off)) rfl

/-- A lamp enters a state with the slot half that state asks for. -/
theorem enterLamp_eq {i : Nat} {st : LampState} {slot : SlotHalf} (h : slotFor (inFailsafe s) s.seq.level st = slot) :
    enterLamp s i st = s.setSeq { s.seq with lamps := s.seq.lamps.map fun l => if l.index = i then
      { l with state := st, slot := slot, cause := none, timer := 0, attempt := 0 } else l } := by
  subst h; rfl

theorem slotFor_of_service {st : LampState} (hm : s.ctl.mode ≠ .failsafe) :
    slotFor (inFailsafe s) s.seq.level st = slotFor false s.seq.level st := by
  simp [inFailsafe, hm]

theorem slotFor_of_failsafe {st : LampState} (hm : s.ctl.mode = .failsafe) :
    slotFor (inFailsafe s) s.seq.level st = slotFor true s.seq.level st := by
  simp [inFailsafe, hm]

theorem exec_runMinute (h : s.hold.held = false) (i : Nat) : exec (.runMinute i) s =
    .next (s.setSeq { s.seq with lamps := s.seq.lamps.map fun l =>
      if l.index = i ∧ (l.state = .lit ∨ l.state = .warming ∨ 60000 ≤ l.residue) then
        { l with runMinutes := min (l.runMinutes + 1) 16777215, residue := l.residue - 60000 } else l }) := by
  refine congrArg Host.Outcome.next ((outsideReset_of_run _ h).trans ?_)
  simp only [mapLamps, setLamps, Lamp.runs, Bool.and_eq_true, Bool.or_eq_true, decide_eq_true_eq, burning_iff, or_assoc]
  rfl

/-! ### The spacing and the hold-off (R110, R113, R114) -/

theorem exec_strikeSpacingExpiry (h : s.hold.held = false) :
    (s.seq.spacing.isSome = true →
      exec .strikeSpacingExpiry s = .next (lampEvent (s.setSeq { s.seq with spacing := none }))) ∧
      (s.seq.spacing.isSome = false → exec .strikeSpacingExpiry s = .next s) :=
  exec_of_outsideReset_ite h (·.seq.spacing.isSome) (fun s => lampEvent (s.setSeq { s.seq with spacing := none })) rfl

theorem exec_extinguishHoldoffExpiry (h : s.hold.held = false) :
    (s.seq.holdoff.isSome = true → exec .extinguishHoldoffExpiry s = .next (lampEvent (putOut s))) ∧
      (s.seq.holdoff.isSome = false → exec .extinguishHoldoffExpiry s = .next s) :=
  exec_of_outsideReset_ite h (·.seq.holdoff.isSome) (fun s => lampEvent (putOut s)) rfl

theorem putOut_of_none (hc : extinguishChoice s = none) : putOut s = s := by
  simp only [putOut, hc]

theorem putOut_of_some {l : Lamp} (hc : extinguishChoice s = some l) : putOut s = s.setSeq { s.seq with
    holdoff := some 0
    lamps := s.seq.lamps.map fun g => if g.index = l.index then
      { g with state := .cooling, slot := ⟨.off, 0⟩, cause := none, timer := 0, attempt := 0 } else g } := by
  simp only [putOut, hc]
  rfl

end

/-- Settles O44, timer by timer. -/
theorem lampAndSequencerTimersAreTaken : Obligations.LampAndSequencerTimersAreTaken := by
  unfold Obligations.LampAndSequencerTimersAreTaken
  refine ⟨fun i s h => ?_, fun s h => congrArg Host.Outcome.next (outsideReset_of_run _ h), fun s h => ?_⟩
  · have hnot (st : LampState) (hn : ¬ ∃ l, lampAt s i = some l ∧ l.fitted = true ∧ l.state = st) :
        lampIn s i st = false := by rwa [← lampIn_iff, Bool.not_eq_true] at hn
    refine ⟨fun l hl hf hst => ?_, fun hn => (exec_strikeAttemptExpiry h i).2 (hnot _ hn), fun hs hm => ?_,
      fun hn => (exec_warmupEnd h i).2 (hnot _ hn), fun hs hm => ?_, fun hs hm => ?_,
      fun hn => (exec_coolingEnd h i).2 (hnot _ hn), exec_runMinute h i⟩
    · rw [(exec_strikeAttemptExpiry h i).1 ((lampIn_iff _ _ _).mpr ⟨l, hl, hf, hst⟩)]
      refine ⟨fun ha => ?_, fun ha => ?_⟩
      · rw [strikeBoundary_of_next hl ha]; rfl
      · rw [strikeBoundary_of_last hl ha]; rfl
    · rw [(exec_warmupEnd h i).1 ((lampIn_iff _ _ _).mpr hs), enterLamp_eq (slotFor_of_service hm)]; rfl
    · rw [(exec_coolingEnd h i).1 ((lampIn_iff _ _ _).mpr hs), enterLamp_eq (slotFor_of_service hm)]; rfl
    · rw [(exec_coolingEnd h i).1 ((lampIn_iff _ _ _).mpr hs), enterLamp_eq (slotFor_of_failsafe hm)]; rfl
  · refine ⟨(exec_strikeSpacingExpiry h).1, fun hn => (exec_strikeSpacingExpiry h).2 (by rw [hn]; rfl),
      fun hn => (exec_extinguishHoldoffExpiry h).2 (by rw [hn]; rfl), fun hr hnone => ?_, fun hr _ hlit => ?_⟩
    · rw [(exec_extinguishHoldoffExpiry h).1 hr, putOut_of_none (extinguishChoice_of_none hnone)]
    · obtain ⟨l, hc, hl, hlast⟩ := extinguishChoice_of_lit hlit
      refine ⟨l, (mem_extinguishCandidates s l).mp hl,
        fun hi g hg => hlast hi g ((mem_extinguishCandidates s g).mpr hg), ?_⟩
      rw [(exec_extinguishHoldoffExpiry h).1 hr, putOut_of_some hc]

end Sys2Proof.Machine
end

section
/-! What a record's index says in a sound table, and the urgent list (R93, R129). -/

namespace Sys2Proof.Machine

theorem lampAt_of_mem {s : State} (h : LampsInv s) {l : Lamp} (hl : l ∈ s.seq.lamps) : lampAt s l.index = some l := by
  cases hg : lampAt s l.index with
  | none => simpa using List.find?_eq_none.mp hg l hl
  | some g =>
    obtain ⟨hi, hm⟩ := lampAt_index s _ g hg
    rw [lampsInv_unique s h g l hm hl hi]

/-- In a sound table a lamp is in a state where some record of its index is. -/
theorem lampIn_iff_exists {s : State} (h : LampsInv s) (i : Nat) (st : LampState) :
    lampIn s i st = true ↔ ∃ l ∈ s.seq.lamps, l.index = i ∧ l.fitted = true ∧ l.state = st := by
  rw [lampIn_iff]
  constructor
  · rintro ⟨l, hl, hf, hst⟩
    obtain ⟨hi, hm⟩ := lampAt_index s i l hl
    exact ⟨l, hm, hi, hf, hst⟩
  · rintro ⟨l, hm, rfl, hf, hst⟩
    exact ⟨l, lampAt_of_mem h hm, hf, hst⟩

/-- A request as the statements write it (R129). -/
theorem requestUrgent_eq (u : State) (b : Nat) : requestUrgent u b =
    if b ≤ u.link.count ∧ b ∉ u.link.urgent then u.setLink { u.link with urgent := u.link.urgent ++ [b] } else u := by
  unfold requestUrgent Link.request
  by_cases h : b ≤ u.link.count ∧ b ∉ u.link.urgent
  · rw [if_pos h, if_pos (by simpa using h)]
  · rw [if_neg h, if_neg (by simpa using h)]; rfl

/-- A ballast asked for twice stands on the list once (R129). -/
theorem Link.request_request (k : Link) (b : Nat) : (k.request b).request b = k.request b := by
  by_cases hk : (decide (b ≤ k.count) && !k.urgent.contains b) = true
  · have hlisted : b ∈ (k.request b).urgent := by
      unfold Link.request; rw [if_pos hk]; simp
    exact if_neg (by simp [hlisted])
  · have hkeeps : k.request b = k := if_neg hk
    rw [hkeeps, hkeeps]

end Sys2Proof.Machine
end

section
/-! A lockout moves its module (O45). -/

namespace Sys2Proof.Machine

/-! ### A lockout that opens (R105, R106, R139) -/

/-- The part with the debounced lockouts `v` and the scan begun again (R105, R139). -/
def lockoutsMoved (s : State) (v : BitVec 6) : State := restartScan (s.setSeq { s.seq with lockouts := v })

section
variable {s : State} {m ms : Nat}

theorem exec_lockout_of_short (h : ms < 50) : exec (.lockoutOpen m ms) s = .next s ∧
    exec (.lockoutClose m ms) s = .next s :=
  ⟨congrArg Host.Outcome.next (onceStood_of_lt s _ h), congrArg Host.Outcome.next (onceStood_of_lt s _ h)⟩

theorem exec_lockoutOpen (hh : s.hold.held = false) (h1 : 1 ≤ m) (h6 : m ≤ 6) (hms : 50 ≤ ms) :
    exec (.lockoutOpen m ms) s = .next (if lockoutOpenAt s m = true then s
      else
        let u := lockoutsMoved s (s.seq.lockouts ||| BitVec.twoPow 6 (m - 1))
        if s.link.phase = .running then lampEvent (lockModule u m) else u) := by
  refine congrArg Host.Outcome.next ((onceStood_of_le s _ hms).trans ((outsideReset_of_run _ hh).trans ?_))
  have hrow : (m = 0 ∨ 6 < m ∨ lockoutOpenAt s m = true) ↔ lockoutOpenAt s m = true := by
    constructor
    · rintro (h | h | h)
      · omega
      · omega
      · exact h
    · exact fun h => .inr (.inr h)
  simp only [hrow, linkRuns, decide_eq_true_eq]
  rfl

theorem exec_lockoutClose (hh : s.hold.held = false) (h1 : 1 ≤ m) (h6 : m ≤ 6) (hms : 50 ≤ ms) :
    exec (.lockoutClose m ms) s = .next (if lockoutOpenAt s m = true then
        let u := lockoutsMoved s (s.seq.lockouts &&& ~~~(BitVec.twoPow 6 (m - 1)))
        if s.link.phase = .running then lampEvent ([4 * m - 3, 4 * m - 2, 4 * m - 1, 4 * m].foldl unlockLamp u) else u
      else s) := by
  refine congrArg Host.Outcome.next ((onceStood_of_le s _ hms).trans ((outsideReset_of_run _ hh).trans ?_))
  simp only [h1, h6, true_and, linkRuns, decide_eq_true_eq]
  rfl

end

theorem lockModule_eq (u : State) (m : Nat) : lockModule u m =
    requestUrgent (requestUrgent (u.setSeq { u.seq with lamps := u.seq.lamps.map fun l =>
      if (l.index + 3) / 4 = m ∧ l.fitted = true then
        { l with state := .locked, slot := ⟨.off, 0⟩, cause := none, timer := 0, attempt := 0 } else l })
      (2 * m - 1)) (2 * m) := by
  simp only [lockModule, mapLamps, setLamps, Bool.and_eq_true, decide_eq_true_eq]
  rfl

/-! ### A lockout that closes: one lamp (R102, R106) -/

/-- What becomes of a lamp when its lockout closes. -/
def leftLocked (s : State) (l : Lamp) : Lamp :=
  if l.fitted = true ∧ l.state = .locked then
    if ballastLost s (ballastOf l.index) then l.fail .ballastLost
    else { l with state := .cooling, slot := ⟨.off, 0⟩, cause := none, timer := 0, attempt := 0 }
  else l

/-- Lamp `i` fails on leaving LOCKED, and asks for its ballast. -/
def failsOnClose (s : State) (i : Nat) : Bool := lampIn s i .locked && ballastLost s (ballastOf i)

/-- The link once lamp `i` has left LOCKED. -/
def askedOnClose (s : State) (k : Link) (i : Nat) : Link := if failsOnClose s i then k.request (ballastOf i) else k

/-- The lamps of the indices `is` have left LOCKED. -/
def lampsLeft (s : State) (is : List Nat) : List Lamp :=
  s.seq.lamps.map fun l => if l.index ∈ is then leftLocked s l else l

theorem leftLocked_index (s : State) (l : Lamp) : (leftLocked s l).index = l.index := by
  unfold leftLocked; split
  · split <;> rfl
  · rfl

/-- A change of lamp `i` that does to its record what leaving LOCKED does, done to the table. -/
theorem mapLamp_lampsLeft {s : State} (h : LampsInv s) {i : Nat} {l : Lamp} (hl : lampAt s i = some l)
    (f : Lamp → Lamp) (hf : f l = leftLocked s l) : mapLamp s i f = setLamps s (lampsLeft s [i]) := by
  obtain ⟨hi, hm⟩ := lampAt_index s i l hl
  refine congrArg (setLamps s) (List.map_congr_left fun g hg => ?_)
  simp only [List.mem_singleton]
  split
  · rename_i hgi
    rw [lampsInv_unique s h g l hg hm (hgi.trans hi.symm), hf]
  · rfl

theorem unlockLamp_eq {s : State} (h : LampsInv s) (i : Nat) :
    unlockLamp s i = (setLamps s (lampsLeft s [i])).setLink (askedOnClose s s.link i) := by
  cases hin : lampIn s i .locked with
  | true =>
    obtain ⟨l, hl, hf, hst⟩ := (lampIn_iff s i .locked).mp hin
    obtain ⟨rfl, -⟩ := lampAt_index s i l hl
    cases hlost : ballastLost s (ballastOf l.index) with
    | true =>
      have hmap := mapLamp_lampsLeft h hl (Lamp.fail .ballastLost) (by simp [leftLocked, hf, hst, hlost])
      simp only [unlockLamp, askedOnClose, failsOnClose, failLamp, hin, hlost, hmap, if_true, Bool.and_self]
      rfl
    | false =>
      have hmap := mapLamp_lampsLeft h hl (Lamp.enter (inFailsafe s) s.seq.level .cooling)
        (by simp [leftLocked, hf, hst, hlost, Lamp.enter, slotFor])
      simp only [unlockLamp, askedOnClose, failsOnClose, enterLamp, hin, hlost, hmap, if_true, if_false,
        Bool.and_false, Bool.false_eq_true]
      rfl
  | false =>
    have hsame : lampsLeft s [i] = s.seq.lamps := by
      refine (List.map_congr_left fun g hg => ?_).trans (List.map_id _)
      have hg' : ¬ (g.index = i ∧ g.fitted = true ∧ g.state = .locked) := fun hc => by
        rw [(lampIn_iff_exists h i .locked).mpr ⟨g, hg, hc⟩] at hin
        exact Bool.noConfusion hin
      simp only [List.mem_singleton, leftLocked, id]
      split
      · rename_i hgi
        exact if_neg fun hc => hg' ⟨hgi, hc⟩
      · rfl
    simp only [unlockLamp, askedOnClose, failsOnClose, hin, hsame, Bool.false_and, Bool.false_eq_true, if_false]
    rfl

/-! ### A lockout that closes: the lamps one after another -/

theorem ballastLost_request (s : State) (ls : List Lamp) (k : Link) (hk : k.ballasts = s.link.ballasts) (b : Nat) :
    ballastLost ((setLamps s ls).setLink k) b = ballastLost s b := by
  simp [ballastLost, hk]

theorem askedOnClose_ballasts (s : State) (k : Link) (i : Nat) : (askedOnClose s k i).ballasts = k.ballasts := by
  unfold askedOnClose Link.request
  repeat' split
  all_goals rfl

/-- A lamp that leaves LOCKED moves no lamp of another index. -/
theorem failsOnClose_unlockLamp {s : State} (h : LampsInv s) {i j : Nat} (hij : j ≠ i) :
    failsOnClose (unlockLamp s i) j = failsOnClose s j := by
  have hin : lampIn (unlockLamp s i) j .locked = lampIn s j .locked := by
    rw [Bool.eq_iff_iff, lampIn_iff_exists (unlockLamp_lamps s i h), lampIn_iff_exists h, unlockLamp_eq h]
    show (∃ l ∈ lampsLeft s [i], _) ↔ _
    simp only [lampsLeft, List.mem_singleton, List.mem_map]
    constructor
    · rintro ⟨_, ⟨l, hl, rfl⟩, hj, hrest⟩
      have hli : l.index ≠ i := fun hli => by
        rw [if_pos hli, leftLocked_index] at hj; exact hij (hj.symm.trans hli)
      rw [if_neg hli] at hj hrest
      exact ⟨l, hl, hj, hrest⟩
    · rintro ⟨l, hl, hj, hrest⟩
      refine ⟨l, ⟨l, hl, if_neg fun hli => hij (hj.symm.trans hli)⟩, hj, hrest⟩
  unfold failsOnClose
  rw [hin, unlockLamp_eq h, ballastLost_request s _ _ (askedOnClose_ballasts _ _ _)]

theorem leftLocked_unlockLamp {s : State} (h : LampsInv s) (i : Nat) (l : Lamp) :
    leftLocked (unlockLamp s i) l = leftLocked s l := by
  unfold leftLocked
  rw [unlockLamp_eq h, ballastLost_request s _ _ (askedOnClose_ballasts _ _ _)]

theorem lampsLeft_unlockLamp {s : State} (h : LampsInv s) {i : Nat} {is : List Nat} (hi : i ∉ is) :
    lampsLeft (unlockLamp s i) is = lampsLeft s (i :: is) := by
  have hlamps : (unlockLamp s i).seq.lamps = lampsLeft s [i] := by rw [unlockLamp_eq h]; rfl
  unfold lampsLeft
  rw [hlamps]
  unfold lampsLeft
  rw [List.map_map]
  refine List.map_congr_left fun l _ => ?_
  simp only [Function.comp, List.mem_cons, leftLocked_unlockLamp h]
  by_cases hl : l.index = i
  · simp [hl, leftLocked_index, hi]
  · simp [hl]

theorem foldl_askedOnClose_congr {s u : State} (is : List Nat) (k : Link)
    (h : ∀ j ∈ is, failsOnClose u j = failsOnClose s j) : is.foldl (askedOnClose u) k = is.foldl (askedOnClose s) k := by
  induction is generalizing k with
  | nil => rfl
  | cons i is ih =>
    have hi : askedOnClose u k i = askedOnClose s k i := by
      unfold askedOnClose; rw [h i (by simp)]
    rw [List.foldl_cons, List.foldl_cons, hi, ih _ fun j hj => h j (by simp [hj])]

/-- Lamps that leave LOCKED one after another: the table at once, and the ballasts asked for in order. -/
theorem foldl_unlockLamp_eq {is : List Nat} (hn : is.Nodup) {s : State} (h : LampsInv s) :
    is.foldl unlockLamp s = (setLamps s (lampsLeft s is)).setLink (is.foldl (askedOnClose s) s.link) := by
  induction is generalizing s with
  | nil =>
    have hsame : lampsLeft s [] = s.seq.lamps := by simp [lampsLeft]
    rw [hsame]; rfl
  | cons i is ih =>
    obtain ⟨hi, hn⟩ := List.nodup_cons.mp hn
    have hasked := foldl_askedOnClose_congr (u := unlockLamp s i) is (askedOnClose s s.link i) fun j hj =>
      failsOnClose_unlockLamp h fun hji => hi (hji ▸ hj)
    have hlink : (unlockLamp s i).link = askedOnClose s s.link i := by rw [unlockLamp_eq h]; rfl
    rw [List.foldl_cons, ih hn (unlockLamp_lamps s i h), lampsLeft_unlockLamp h hi, hlink, hasked, unlockLamp_eq h]
    rfl

/-! ### A lockout that closes: the module (R106, R129) -/

/-- A LOST ballast with a lamp in LOCKED. -/
def ballastFailsOnClose (s : State) (b : Nat) : Bool :=
  ballastLost s b && s.seq.lamps.any fun l => (l.index + 1) / 2 == b && l.fitted && decide (l.state = .locked)

theorem ballastFailsOnClose_eq {s : State} (h : LampsInv s) {b : Nat} (hb : 1 ≤ b) :
    ballastFailsOnClose s b = (failsOnClose s (2 * b - 1) || failsOnClose s (2 * b)) := by
  have hodd : ballastOf (2 * b - 1) = b := by unfold ballastOf; omega
  have heven : ballastOf (2 * b) = b := by unfold ballastOf; omega
  rw [Bool.eq_iff_iff]
  simp only [ballastFailsOnClose, failsOnClose, hodd, heven, Bool.or_eq_true, Bool.and_eq_true, List.any_eq_true,
    beq_iff_eq, decide_eq_true_eq, lampIn_iff_exists h]
  constructor
  · rintro ⟨hlost, l, hl, ⟨hi, hf⟩, hst⟩
    have hcase : l.index = 2 * b - 1 ∨ l.index = 2 * b := by omega
    exact hcase.imp (fun hi => ⟨⟨l, hl, hi, hf, hst⟩, hlost⟩) (fun hi => ⟨⟨l, hl, hi, hf, hst⟩, hlost⟩)
  · rintro (⟨⟨l, hl, hi, hf, hst⟩, hlost⟩ | ⟨⟨l, hl, hi, hf, hst⟩, hlost⟩)
    · exact ⟨hlost, l, hl, ⟨by omega, hf⟩, hst⟩
    · exact ⟨hlost, l, hl, ⟨by omega, hf⟩, hst⟩

/-- The two lamps of a ballast ask for it once. -/
theorem askedOnClose_pair {s : State} (h : LampsInv s) (k : Link) {b : Nat} (hb : 1 ≤ b) :
    askedOnClose s (askedOnClose s k (2 * b - 1)) (2 * b) =
      if ballastFailsOnClose s b then k.request b else k := by
  have hodd : ballastOf (2 * b - 1) = b := by unfold ballastOf; omega
  have heven : ballastOf (2 * b) = b := by unfold ballastOf; omega
  rw [ballastFailsOnClose_eq h hb]
  unfold askedOnClose
  rw [hodd, heven]
  cases failsOnClose s (2 * b - 1) <;> cases failsOnClose s (2 * b) <;> simp [Link.request_request]

theorem setLink_request_ite (u : State) (c : Bool) (b : Nat) :
    u.setLink (if c then u.link.request b else u.link) = if c then requestUrgent u b else u := by
  cases c <;> rfl

/-- The module's lamps leave LOCKED, and each ballast that fails is asked for (R102, R106). -/
theorem unlockModule_eq {s : State} (h : LampsInv s) {m : Nat} (hm : 1 ≤ m) :
    [4 * m - 3, 4 * m - 2, 4 * m - 1, 4 * m].foldl unlockLamp s =
      (let moved := setLamps s (s.seq.lamps.map fun l => if (l.index + 3) / 4 = m then leftLocked s l else l)
       let asked (b : Nat) (u : State) : State := if ballastFailsOnClose s b then requestUrgent u b else u
       asked (2 * m) (asked (2 * m - 1) moved)) := by
  have hn : [4 * m - 3, 4 * m - 2, 4 * m - 1, 4 * m].Nodup := by
    simp only [List.nodup_cons, List.mem_cons, List.not_mem_nil, or_false, not_or, List.nodup_nil, and_true,
      not_false_eq_true]
    omega
  have hlamps : lampsLeft s [4 * m - 3, 4 * m - 2, 4 * m - 1, 4 * m] =
      s.seq.lamps.map fun l => if (l.index + 3) / 4 = m then leftLocked s l else l := by
    refine List.map_congr_left fun l _ => ?_
    have hmem : l.index ∈ [4 * m - 3, 4 * m - 2, 4 * m - 1, 4 * m] ↔ (l.index + 3) / 4 = m := by
      simp only [List.mem_cons, List.not_mem_nil, or_false]
      omega
    simp only [hmem]
  have hfirst := askedOnClose_pair h s.link (b := 2 * m - 1) (by omega)
  have hsecond := fun k => askedOnClose_pair h k (b := 2 * m) (by omega)
  rw [show 2 * (2 * m - 1) - 1 = 4 * m - 3 by omega, show 2 * (2 * m - 1) = 4 * m - 2 by omega] at hfirst
  simp only [show 2 * (2 * m) = 4 * m by omega] at hsecond
  rw [foldl_unlockLamp_eq hn h, hlamps]
  simp only [List.foldl_cons, List.foldl_nil, hfirst, hsecond, ← setLink_request_ite]
  rfl

theorem ballastFailsOnClose_moved (s : State) (v : BitVec 6) (b : Nat) :
    ballastFailsOnClose (lockoutsMoved s v) b = ballastFailsOnClose s b := rfl

theorem leftLocked_module (s : State) (v : BitVec 6) (m : Nat) (l : Lamp) :
    (if (l.index + 3) / 4 = m then leftLocked (lockoutsMoved s v) l else l) =
      if (l.index + 3) / 4 = m ∧ l.fitted = true ∧ l.state = .locked then
        if ballastLost s ((l.index + 1) / 2) then
          { l with state := .failed, slot := ⟨.off, 0⟩, cause := some .ballastLost, timer := 0, attempt := 0 }
        else { l with state := .cooling, slot := ⟨.off, 0⟩, cause := none, timer := 0, attempt := 0 }
      else l := by
  rw [ite_and]
  rfl

/-- Settles O45: by how long the input has stood, where it stood, and whether readback has completed. -/
theorem lockoutsMoveTheModule : Obligations.LockoutsMoveTheModule := by
  unfold Obligations.LockoutsMoveTheModule
  refine ⟨fun m ms s h => exec_lockout_of_short h, fun m ms s hh h1 h6 hms => ?_⟩
  have hopen := exec_lockoutOpen hh h1 h6 hms
  have hclose := exec_lockoutClose hh h1 h6 hms
  have hat : lockoutOpenAt s m = s.seq.lockouts.getLsbD (m - 1) := rfl
  rw [hat] at hopen hclose
  refine ⟨fun hw => ?_, fun hw => ?_, fun hw hr => ?_, fun hw hr => ?_, fun hw hr => ?_, fun hw hr hi => ?_⟩
  · rw [hopen, if_pos hw]
  · rw [hclose, hw]; rfl
  · rw [hopen, hw]; exact congrArg Host.Outcome.next (if_neg hr)
  · rw [hclose, if_pos hw]; exact congrArg Host.Outcome.next (if_neg hr)
  · rw [hopen, hw]
    refine congrArg Host.Outcome.next ((if_pos hr).trans (congrArg lampEvent ?_))
    rw [lockModule_eq]
    simp only [requestUrgent_eq]
    rfl
  · rw [hclose, if_pos hw]
    refine congrArg Host.Outcome.next ((if_pos hr).trans (congrArg lampEvent ?_))
    have hmoved : LampsInv (lockoutsMoved s (s.seq.lockouts &&& ~~~(BitVec.twoPow 6 (m - 1)))) :=
      restartScan_lockouts_lamps _ hi
    rw [unlockModule_eq hmoved h1]
    simp only [ballastFailsOnClose_moved, leftLocked_module, requestUrgent_eq]
    rfl

end Sys2Proof.Machine
end

section
/-! What a lamp event does to the sequencer: at most one strike, then the hold-off, then the common level
(R108–R115). -/

namespace Sys2Proof.Machine

/-! ### What the judgements of a state read -/

/-- The setpoint apart, what the lamps' fluences are read from is the image and the transmittance. -/
theorem fluenceOf_congr {s u : State} (hcfg : u.ldr.cfg = s.ldr.cfg) (huvt : u.pln.uvt = s.pln.uvt) (n : Nat) :
    fluenceOf u n = fluenceOf s n := by
  simp [fluenceOf, gFactor, uvtValue, hcfg, huvt]

/-- The setpoint of a lamp event moves F_req alone (R89). -/
theorem refreshSetpoint_pln (s : State) :
    (refreshSetpoint s).pln = { s.pln with fReq := (refreshSetpoint s).pln.fReq } := by
  unfold refreshSetpoint; split <;> rfl

theorem refreshSetpoint_uvt (s : State) : (refreshSetpoint s).pln.uvt = s.pln.uvt := by
  rw [refreshSetpoint_pln]

theorem lampEvent_pln (s : State) : (lampEvent s).pln = (refreshSetpoint s).pln := by simp [lampEvent]

theorem lampEvent_uvt (s : State) : (lampEvent s).pln.uvt = s.pln.uvt := by
  rw [lampEvent_pln, refreshSetpoint_uvt]

theorem lampEvent_seq (s : State) : (lampEvent s).seq = (judgeLamps (refreshSetpoint s)).seq := by simp [lampEvent]

theorem refreshSetpoint_of_rests {s : State} {v : Nat} (h : s.ctl.mode = .listen ∧ v = fMin s ∨
    s.ctl.mode = .isolated ∧ v = fMax s) : (refreshSetpoint s).pln.fReq = v := by
  unfold refreshSetpoint
  rcases h with ⟨hm, rfl⟩ | ⟨hm, rfl⟩ <;> rw [hm] <;> rfl

/-- The judgements of R108 are made. -/
def Judging (s : State) : Prop := s.link.phase = .running ∧ s.ctl.mode ∈ [BankMode.listen, .dosing, .hold, .isolated]

theorem judging_iff (s : State) :
    (linkRuns (refreshSetpoint s) && (refreshSetpoint s).ctl.mode.judgesLamps) = true ↔ Judging s := by
  have hmode : ∀ m : BankMode, m.judgesLamps = true ↔ m ∈ [BankMode.listen, .dosing, .hold, .isolated] := by
    intro m; cases m <;> simp [BankMode.judgesLamps]
  simp only [Judging, Bool.and_eq_true, linkRuns, decide_eq_true_eq, hmode, refreshSetpoint_keeps]

theorem lampEvent_seq_of_not {s : State} (h : ¬ Judging s) : (lampEvent s).seq = s.seq := by
  rw [lampEvent_seq, judgeLamps, if_neg (mt (judging_iff s).mp h)]
  simp

/-! ### The lamp to strike (R109, R111) -/

/-- In the table, fitted and in OFF (R109). -/
def StrikeEligible (s : State) (l : Lamp) : Prop := l ∈ s.seq.lamps ∧ l.fitted = true ∧ l.state = .off

/-- Eligible, and within the day budget where an eligible lamp is (R111). -/
def StrikePool (s : State) (l : Lamp) : Prop :=
  StrikeEligible s l ∧ ((∃ g, StrikeEligible s g ∧ g.strikesDay < 8) → l.strikesDay < 8)

/-- Of the pool, with the fewest run minutes (R111). -/
def StrikeFewest (s : State) (l : Lamp) : Prop :=
  StrikePool s l ∧ ∀ g, StrikePool s g → l.runMinutes ≤ g.runMinutes

/-- The eligible lamps, those within the day budget where there are such. -/
def strikePool (s : State) : List Lamp :=
  preferring (fun l => decide (l.strikesDay < 8)) (s.seq.lamps.filter Lamp.eligible)

/-- The lamps R111 leaves to choose from. -/
def strikeCandidates (s : State) : List Lamp :=
  preferring (fun l => !ballastWarm s l)
    ((strikePool s).filter fun l => (strikePool s).all fun g => decide (l.runMinutes ≤ g.runMinutes))

theorem strikeChoice_eq (s : State) : strikeChoice s = (strikeCandidates s).head? := rfl

theorem mem_eligible (s : State) (l : Lamp) : l ∈ s.seq.lamps.filter Lamp.eligible ↔ StrikeEligible s l := by
  simp [StrikeEligible, Lamp.eligible]

theorem mem_strikePool (s : State) (l : Lamp) : l ∈ strikePool s ↔ StrikePool s l := by
  simp only [strikePool, mem_preferring, mem_eligible, decide_eq_true_eq, StrikePool]

theorem mem_strikeFewest (s : State) (l : Lamp) :
    (l ∈ (strikePool s).filter fun l => (strikePool s).all fun g => decide (l.runMinutes ≤ g.runMinutes)) ↔
      StrikeFewest s l := by
  simp only [List.mem_filter, List.all_eq_true, decide_eq_true_eq, mem_strikePool, StrikeFewest]

theorem mem_strikeCandidates (s : State) (l : Lamp) : l ∈ strikeCandidates s ↔ StrikeFewest s l ∧
    ((∃ g, StrikeFewest s g ∧ ballastClass s ((g.index + 1) / 2) ≠ .warm) →
      ballastClass s ((l.index + 1) / 2) ≠ .warm) := by
  simp only [strikeCandidates, mem_preferring, mem_strikeFewest, Bool.not_eq_true', ← Bool.not_eq_true,
    ballastWarm_iff, ne_eq]

theorem strikeCandidates_sublist (s : State) : (strikeCandidates s).Sublist (s.seq.lamps.filter Lamp.eligible) :=
  (preferring_sublist _ _).trans (List.filter_sublist.trans (preferring_sublist _ _))

theorem strikeCandidates_ne_nil {s : State} (h : s.seq.lamps.any Lamp.eligible = true) : strikeCandidates s ≠ [] := by
  obtain ⟨l, hl, he⟩ := List.any_eq_true.mp h
  have hpool : strikePool s ≠ [] := preferring_ne_nil _ (List.ne_nil_of_mem (List.mem_filter.mpr ⟨hl, he⟩))
  obtain ⟨g, hg, hfewest⟩ := (strikePool s).toFinset.exists_min_image (·.runMinutes) (by simpa using hpool)
  refine preferring_ne_nil _ (List.ne_nil_of_mem ((mem_strikeFewest s g).mpr ?_))
  simp only [List.mem_toFinset, mem_strikePool] at hg hfewest
  exact ⟨hg, hfewest⟩

/-- A lamp is chosen wherever the rule holds, and in a sound table it is the first of the candidates. -/
theorem strikeChoice_of_rule {s : State} (h : strikeRule s = true) : ∃ l, strikeChoice s = some l ∧
    l ∈ strikeCandidates s ∧ (LampsInv s → ∀ g ∈ strikeCandidates s, l.index ≤ g.index) := by
  simp only [strikeRule, Bool.and_eq_true] at h
  obtain ⟨⟨-, heligible⟩, -⟩ := h
  have hne := strikeCandidates_ne_nil heligible
  have hhead := List.head?_eq_some_head hne
  exact ⟨_, hhead, List.head_mem hne, fun hi => index_le_of_head
    ((lamps_ordered hi).sublist ((strikeCandidates_sublist s).trans List.filter_sublist)) hhead⟩

theorem strikeChoice_mem {s : State} {l : Lamp} (h : strikeChoice s = some l) :
    l ∈ s.seq.lamps ∧ l.eligible = true :=
  List.mem_filter.mp ((strikeCandidates_sublist s).subset (List.mem_of_mem_head? h))

/-! ### The strike -/

/-- The part once the strike rule has been judged at the setpoint of the event (R109). -/
def struck (s : State) : State := judgeStrike (refreshSetpoint s)

/-- The common level that the event sets (R115). -/
def judgedLevel (s : State) : Nat := levelFor (judgeHoldoff (struck s))

/-- A lamp at the common level (R115). -/
def Lamp.levelled (level : Nat) (l : Lamp) : Lamp := if l.isLit then { l with slot := ⟨.on, level⟩ } else l

theorem levelled_state (level : Nat) (l : Lamp) : (l.levelled level).state = l.state := by
  unfold Lamp.levelled; split <;> rfl

theorem levelled_of_lit {l : Lamp} (level : Nat) (h : l.state = .lit) :
    l.levelled level = { l with slot := ⟨.on, level⟩ } := if_pos (by simp [Lamp.isLit, h])

theorem levelled_of_not_lit {l : Lamp} (level : Nat) (h : l.state ≠ .lit) : l.levelled level = l :=
  if_neg (by simp [Lamp.isLit, h])

/-- Where the judgements are made, they leave this sequencer. -/
theorem lampEvent_seq_of_judging {s : State} (h : Judging s) : (lampEvent s).seq = { (struck s).seq with
    level := judgedLevel s
    holdoff := if extinguishHolds (struck s) then some ((struck s).seq.holdoff.getD 0) else none
    lamps := (struck s).seq.lamps.map (Lamp.levelled (judgedLevel s)) } := by
  rw [lampEvent_seq, judgeLamps, if_pos ((judging_iff s).mpr h)]
  rfl

theorem struck_of_refused {s : State} (h : strikeRule (refreshSetpoint s) = false) : struck s = refreshSetpoint s := by
  simp [struck, judgeStrike, h]

theorem strikeRule_no_striking {s : State} (h : strikeRule s = true) : ∀ l ∈ s.seq.lamps, l.state ≠ .striking := by
  simp only [strikeRule, Bool.and_eq_true, Bool.not_eq_true', List.any_eq_false, decide_eq_true_eq] at h
  obtain ⟨⟨⟨hstriking, -⟩, -⟩, -⟩ := h
  exact hstriking

theorem strikeRule_spacing {s : State} (h : strikeRule s = true) : s.seq.spacing = none := by
  simp only [strikeRule, Bool.and_eq_true, Option.isNone_iff_eq_none] at h
  obtain ⟨⟨⟨-, hspacing⟩, -⟩, -⟩ := h
  exact hspacing

/-- From `l` to `g` a lamp has been struck, or left alone. -/
def Struck (l g : Lamp) : Prop := g = l ∨ (l.state = .off ∧ l.fitted = true ∧ g = l.strike)

/-- A lamp struck may be told by its index: in a sound table it is the only one of it. -/
theorem strikeLamp_struck {s : State} (h : LampsInv s) {l : Lamp} (hl : l ∈ s.seq.lamps) (he : l.eligible = true) :
    List.Forall₂ Struck s.seq.lamps (strikeLamp s l).seq.lamps := by
  simp only [Lamp.eligible, Bool.and_eq_true, decide_eq_true_eq] at he
  refine List.forall₂_map_right_iff.mpr (List.forall₂_same.mpr fun g hg => ?_)
  by_cases hi : g.index = l.index
  · rw [if_pos hi]
    rw [lampsInv_unique s h g l hg hl hi]
    exact .inr ⟨he.2, he.1, rfl⟩
  · rw [if_neg hi]
    exact .inl rfl

theorem judgeStrike_struck {s : State} (h : LampsInv s) :
    List.Forall₂ Struck s.seq.lamps (judgeStrike s).seq.lamps := by
  have hsame : List.Forall₂ Struck s.seq.lamps s.seq.lamps := List.forall₂_same.mpr fun _ _ => .inl rfl
  unfold judgeStrike
  split
  · split
    · rename_i l hl
      obtain ⟨hm, he⟩ := strikeChoice_mem hl
      exact strikeLamp_struck h hm he
    · exact hsame
  · exact hsame

theorem struck_forall {s : State} (h : LampsInv s) : List.Forall₂ Struck s.seq.lamps (struck s).seq.lamps := by
  have hset : (refreshSetpoint s).seq = s.seq := by simp
  have hs := judgeStrike_struck (lampsInv_of_seq h hset)
  rwa [hset] at hs

/-! ### What a strike leaves alone -/

theorem Struck.isLit {l g : Lamp} (h : Struck l g) : g.isLit = l.isLit := by
  rcases h with rfl | ⟨hoff, -, rfl⟩
  · rfl
  · simp [Lamp.isLit, Lamp.strike, hoff]

theorem Struck.e {l g : Lamp} (h : Struck l g) : g.e = l.e := by
  rcases h with rfl | ⟨-, -, rfl⟩ <;> rfl

theorem eSum_congr {ls gs : List Lamp} {p : Lamp → Bool} (h : List.Forall₂ (fun l g => p g = p l ∧ g.e = l.e) ls gs) :
    eSum gs p = eSum ls p := by
  unfold eSum
  refine congrArg sumOf ?_
  induction h with
  | nil => rfl
  | cons hlg _ ih =>
    rw [List.filter_cons, List.filter_cons, hlg.1]
    split
    · rw [List.map_cons, List.map_cons, ih, hlg.2]
    · exact ih

theorem countP_congr_forall {ls gs : List Lamp} {p : Lamp → Bool} (h : List.Forall₂ (fun l g => p g = p l) ls gs) :
    gs.countP p = ls.countP p := by
  induction h with
  | nil => rfl
  | cons hlg _ ih => rw [List.countP_cons, List.countP_cons, ih, hlg]

theorem judgeStrike_holdoff (s : State) : (judgeStrike s).seq.holdoff = s.seq.holdoff := by
  unfold judgeStrike
  split
  · split <;> rfl
  · rfl

theorem struck_keeps (s : State) : (struck s).ldr = s.ldr ∧ (struck s).pln = (refreshSetpoint s).pln ∧
    (struck s).link = s.link ∧ (struck s).seq.holdoff = s.seq.holdoff := by
  simp [struck, judgeStrike_holdoff]

/-- A strike moves no light: F_lit_full stays (R151). -/
theorem fLitFull_struck {s : State} (h : LampsInv s) : fLitFull (struck s) = fLitFull s := by
  obtain ⟨hldr, hpln, -⟩ := struck_keeps s
  unfold fLitFull
  rw [fluenceOf_congr (s := s) (u := struck s) (by rw [hldr]) (by rw [hpln, refreshSetpoint_uvt]),
    eSum_congr ((struck_forall h).imp fun _ _ hs => ⟨hs.isLit, hs.e⟩)]

theorem countLit_struck {s : State} (h : LampsInv s) :
    (struck s).seq.lamps.countP Lamp.isLit = s.seq.lamps.countP Lamp.isLit :=
  countP_congr_forall ((struck_forall h).imp fun _ _ hs => hs.isLit)

/-- The common level by the setpoint of the event and the light that stood before it (R115). -/
theorem judgedLevel_eq {s : State} (h : LampsInv s) : judgedLevel s = if fLitFull s = 0 then 10
    else max 5 (min 10 ((10 * (lampEvent s).pln.fReq + fLitFull s - 1) / fLitFull s)) := by
  have hlit : fLitFull (judgeHoldoff (struck s)) = fLitFull s := fLitFull_struck h
  have hreq : (judgeHoldoff (struck s)).pln.fReq = (lampEvent s).pln.fReq := by
    obtain ⟨-, hpln, -⟩ := struck_keeps s
    rw [lampEvent_pln]; exact congrArg Planner.fReq hpln
  unfold judgedLevel levelFor ceilDiv
  rw [hlit, hreq]

/-- The extinguish condition by the setpoint of the event and the lamps that stood LIT before it (R113). -/
theorem extinguishHolds_struck {s : State} (h : LampsInv s) : extinguishHolds (struck s) = true ↔
    100 * (lampEvent s).pln.fReq < 45 * fLitFull s ∧ s.ldr.cfg.minLit < s.seq.lamps.countP Lamp.isLit := by
  obtain ⟨hldr, hpln, -⟩ := struck_keeps s
  unfold extinguishHolds
  rw [fLitFull_struck h, countLit_struck h, hldr, hpln, lampEvent_pln, Bool.and_eq_true, decide_eq_true_eq,
    decide_eq_true_eq]

/-! ### What becomes of each lamp -/

/-- From `l` to `g` a lamp event may have moved a lamp so: to the common level where it is LIT, or by a strike. -/
def Judged (level : Nat) (l g : Lamp) : Prop :=
  g = l ∨ (l.state = .lit ∧ g = { l with slot := ⟨.on, level⟩ }) ∨ (l.state = .off ∧ l.fitted = true ∧ g = l.strike)

theorem Struck.levelled {l g : Lamp} (level : Nat) (h : Struck l g) : Judged level l (g.levelled level) := by
  rcases h with rfl | ⟨hoff, hf, rfl⟩
  · by_cases hlit : g.state = .lit
    · exact .inr (.inl ⟨hlit, levelled_of_lit level hlit⟩)
    · exact .inl (levelled_of_not_lit level hlit)
  · exact .inr (.inr ⟨hoff, hf, levelled_of_not_lit level (l := l.strike) (fun h => LampState.noConfusion h)⟩)

/-- The lamps change in two ways only (R108, R109, R115). -/
theorem lampEvent_judged {s : State} (h : LampsInv s) :
    List.Forall₂ (Judged (lampEvent s).seq.level) s.seq.lamps (lampEvent s).seq.lamps := by
  by_cases hj : Judging s
  · rw [lampEvent_seq_of_judging hj]
    exact List.forall₂_map_right_iff.mpr ((struck_forall h).imp fun _ _ hs => hs.levelled _)
  · rw [lampEvent_seq_of_not hj]
    exact List.forall₂_same.mpr fun _ _ => .inl rfl

theorem Judged.available {level : Nat} {l g : Lamp} (h : Judged level l g) :
    g.available = l.available ∧ g.e = l.e := by
  rcases h with rfl | ⟨-, rfl⟩ | ⟨hoff, -, rfl⟩
  · exact ⟨rfl, rfl⟩
  · exact ⟨rfl, rfl⟩
  · simp [Lamp.available, Lamp.strike, Lamp.countStrike, hoff]

/-- A lamp event leaves the lamps available that were (R151). -/
theorem fMax_lampEvent {s : State} (h : LampsInv s) : fMax (lampEvent s) = fMax s := by
  have hldr : (lampEvent s).ldr = s.ldr := by simp
  unfold fMax
  rw [fluenceOf_congr (s := s) (u := lampEvent s) (by rw [hldr]) (lampEvent_uvt s),
    eSum_congr ((lampEvent_judged h).imp fun _ _ hg => hg.available)]

theorem lampEvent_lit {s : State} (hj : Judging s) : ∀ g ∈ (lampEvent s).seq.lamps, g.state = .lit →
    g.slot = ⟨.on, (lampEvent s).seq.level⟩ := by
  rw [lampEvent_seq_of_judging hj]
  intro g hg hst
  obtain ⟨l, -, rfl⟩ := List.mem_map.mp hg
  rw [levelled_of_lit _ ((levelled_state _ l).symm.trans hst)]

/-! ### Who strikes afterwards -/

/-- Where the strike rule does not hold, no lamp begins to strike and the spacing timer stays (R109, R110). -/
theorem lampEvent_of_refused {s : State} (hr : strikeRule (refreshSetpoint s) = false) :
    (lampEvent s).seq.spacing = s.seq.spacing ∧
      ∀ g ∈ (lampEvent s).seq.lamps, g.state = .striking → g ∈ s.seq.lamps := by
  have hset : (refreshSetpoint s).seq = s.seq := by simp
  by_cases hj : Judging s
  · rw [lampEvent_seq_of_judging hj, struck_of_refused hr, hset]
    refine ⟨rfl, fun g hg hst => ?_⟩
    obtain ⟨l, hl, rfl⟩ := List.mem_map.mp hg
    rw [levelled_state] at hst
    rwa [levelled_of_not_lit _ (by rw [hst]; decide)]
  · rw [lampEvent_seq_of_not hj]
    exact ⟨rfl, fun g hg _ => hg⟩

/-- The sequencer once lamp `l` has been struck. -/
theorem strikeLamp_seq (s : State) (l : Lamp) : (strikeLamp s l).seq =
    { s.seq with spacing := some 0, lamps := s.seq.lamps.map fun g => if g.index = l.index then g.strike else g } := rfl

/-- Where it holds, the chosen lamp strikes and no other does, and the spacing timer restarts (R96, R109, R110). -/
theorem lampEvent_of_struck {s : State} (h : LampsInv s) (hj : Judging s)
    (hr : strikeRule (refreshSetpoint s) = true) {l : Lamp} (hl : strikeChoice (refreshSetpoint s) = some l) :
    (lampEvent s).seq.spacing = some 0 ∧ lampAt (lampEvent s) l.index = some l.strike ∧
      ∀ g ∈ (lampEvent s).seq.lamps, g.state = .striking → g.index = l.index := by
  have hset : (refreshSetpoint s).seq = s.seq := by simp
  have hs : struck s = strikeLamp (refreshSetpoint s) l := by simp only [struck, judgeStrike, hr, hl, if_true]
  have hspacing : (lampEvent s).seq.spacing = some 0 := by rw [lampEvent_seq_of_judging hj, hs]; rfl
  have hlamps : (lampEvent s).seq.lamps = (s.seq.lamps.map fun g =>
      if g.index = l.index then g.strike else g).map (Lamp.levelled (judgedLevel s)) := by
    rw [lampEvent_seq_of_judging hj, hs, strikeLamp_seq, hset]
  have hm : l ∈ s.seq.lamps := hset ▸ (strikeChoice_mem hl).1
  refine ⟨hspacing, lampAt_of_mem (lampEvent_lamps s h) (l := l.strike) ?_, fun g hg hst => ?_⟩
  · rw [hlamps]
    exact List.mem_map.mpr ⟨l.strike, List.mem_map.mpr ⟨l, hm, if_pos rfl⟩,
      levelled_of_not_lit _ fun h => LampState.noConfusion h⟩
  · rw [hlamps, List.map_map] at hg
    obtain ⟨b, hb, rfl⟩ := List.mem_map.mp hg
    simp only [Function.comp, levelled_state] at hst
    by_cases hi : b.index = l.index
    · simp only [Function.comp, if_pos hi, levelled_of_not_lit (l := b.strike) _ fun h => LampState.noConfusion h]
      exact hi
    · rw [if_neg hi] at hst
      exact absurd hst (strikeRule_no_striking hr b (hset ▸ hb))

/-- In a sound table at most one record is of one index. -/
theorem countP_le_one {s : State} (h : LampsInv s) {p : Lamp → Bool} {i : Nat}
    (hp : ∀ l ∈ s.seq.lamps, p l = true → l.index = i) : s.seq.lamps.countP p ≤ 1 := by
  have hn : (s.seq.lamps.map (·.index)).Nodup := by rw [h.1]; decide
  calc s.seq.lamps.countP p ≤ s.seq.lamps.countP ((· == i) ∘ (·.index)) :=
        List.countP_mono_left fun l hl hpl => by simpa using hp l hl hpl
    _ = (s.seq.lamps.map (·.index)).count i := (List.countP_map ..).symm
    _ ≤ 1 := List.nodup_iff_count_le_one.mp hn i

/-- At most one lamp strikes that did not (R109). -/
theorem countStriking_lampEvent {s : State} (h : LampsInv s) :
    ((lampEvent s).seq.lamps.countP fun l => decide (l.state = .striking)) ≤
      max 1 (s.seq.lamps.countP fun l => decide (l.state = .striking)) := by
  by_cases hj : Judging s
  · cases hr : strikeRule (refreshSetpoint s) with
    | true =>
      obtain ⟨l, hl, -⟩ := strikeChoice_of_rule hr
      refine le_max_of_le_left (countP_le_one (lampEvent_lamps s h) (i := l.index) fun g hg hst => ?_)
      exact (lampEvent_of_struck h hj hr hl).2.2 g hg (by simpa using hst)
    | false =>
      have hset : (refreshSetpoint s).seq = s.seq := by simp
      refine le_max_of_le_right (Nat.le_of_eq ?_)
      rw [lampEvent_seq_of_judging hj, struck_of_refused hr, hset]
      exact countP_congr_forall (List.forall₂_map_right_iff.mpr (List.forall₂_same.mpr fun l _ => by
        rw [levelled_state]))
  · rw [lampEvent_seq_of_not hj]
    exact le_max_right _ _

end Sys2Proof.Machine
end

section
/-! The strike rule strikes its lamp (O47). -/

namespace Sys2Proof.Machine

theorem committed_iff (l : Lamp) :
    l.committed = decide (l.state = .striking ∨ l.state = .warming ∨ l.state = .lit) := by
  cases h : l.state <;> simp [Lamp.committed, h]

/-- The rule as the statement writes it (R109). -/
theorem strikeRule_iff (s : State) : strikeRule (refreshSetpoint s) = true ↔
    (∀ l ∈ s.seq.lamps, l.state ≠ .striking) ∧ s.seq.spacing = none ∧ (∃ l, StrikeEligible s l) ∧
      (85 * fCommitted s < 100 * (lampEvent s).pln.fReq ∨
        (s.seq.lamps.countP fun l => l.state = .striking ∨ l.state = .warming ∨ l.state = .lit) <
          s.ldr.cfg.minLit) := by
  have hset : (refreshSetpoint s).seq = s.seq := by simp
  have hldr : (refreshSetpoint s).ldr = s.ldr := by simp
  have hlight : fCommitted (refreshSetpoint s) = fCommitted s := by
    unfold fCommitted
    rw [fluenceOf_congr (s := s) (by rw [hldr]) (refreshSetpoint_uvt s), hset]
  have hcommitted : Lamp.committed = fun l => decide (l.state = .striking ∨ l.state = .warming ∨ l.state = .lit) :=
    funext committed_iff
  unfold strikeRule
  rw [hlight, hset, hldr, ← lampEvent_pln, ← hcommitted]
  simp [StrikeEligible, Lamp.eligible, and_assoc]

theorem strikeCandidates_refreshSetpoint (s : State) : strikeCandidates (refreshSetpoint s) = strikeCandidates s := by
  have hlink : (refreshSetpoint s).link = s.link := by simp
  have hwarm : ballastWarm (refreshSetpoint s) = ballastWarm s := by
    funext l; rw [ballastWarm, ballastWarm, ballastClass, ballastClass, hlink]
  simp [strikeCandidates, strikePool, hwarm]

/-- Settles O47: by whether the rule holds at the setpoint of the event. -/
theorem strikeRuleStrikesItsLamp : Obligations.StrikeRuleStrikesItsLamp := by
  unfold Obligations.StrikeRuleStrikesItsLamp
  intro s h hr hm
  refine ⟨fun hnot => ?_, fun hdue => ?_⟩
  · exact lampEvent_of_refused (by rw [← Bool.not_eq_true]; exact mt (strikeRule_iff s).mp hnot)
  · have hrule : strikeRule (refreshSetpoint s) = true := (strikeRule_iff s).mpr hdue
    obtain ⟨l, hl, hc, hfirst⟩ := strikeChoice_of_rule hrule
    have hset : LampsInv (refreshSetpoint s) := lampsInv_of_seq h (by simp)
    have hleast := hfirst hset
    rw [strikeCandidates_refreshSetpoint] at hc hleast
    obtain ⟨hspacing, hat, honly⟩ := lampEvent_of_struck h ⟨hr, hm⟩ hrule hl
    exact ⟨l, (mem_strikeCandidates s l).mp hc, fun g hg => hleast g ((mem_strikeCandidates s g).mpr hg), hspacing,
      hat, honly⟩

end Sys2Proof.Machine
end

section
/-! Learning the output estimates, every lamp at once, and who keeps an estimate (R120, R140). -/

namespace Sys2Proof.Machine

/-! ### One module after another -/

/-- The sensor value a module learns from; none where it does not learn (R120). -/
def learnedValue (s : State) (m : Nat) : Option Nat :=
  if learns s m then sensorValue s.ldr.cfg.sensorSpan (inputAt s (m - 1)) else none

/-- The estimate of a lamp once its module has learned (R120). -/
def taughtE (s : State) (l : Lamp) : Nat :=
  if l.isLit then
    ((learnedValue s (moduleOf l.index)).map fun v =>
      learnedE v (litLevels (lampsOf s (moduleOf l.index))) l.e).getD l.e
  else l.e

/-- A lamp once its module has learned. -/
def taught (s : State) (l : Lamp) : Lamp := { l with e := taughtE s l }

/-- The lamps once the modules `ms` have learned. -/
def lampsTaught (s : State) (ms : List Nat) : List Lamp :=
  s.seq.lamps.map fun l => if moduleOf l.index ∈ ms then taught s l else l

theorem learnModule_eq (s : State) (m : Nat) : learnModule s m = setLamps s (lampsTaught s [m]) := by
  have hunmoved (h : learnedValue s m = none) : lampsTaught s [m] = s.seq.lamps := by
    refine (List.map_congr_left fun l _ => ?_).trans (List.map_id _)
    simp only [List.mem_singleton, id]
    split
    · rename_i hm
      simp [taught, taughtE, hm, h]
    · rfl
  cases hl : learns s m with
  | false => rw [hunmoved (by simp [learnedValue, hl])]; simp only [learnModule, hl]; rfl
  | true =>
    cases hv : sensorValue s.ldr.cfg.sensorSpan (inputAt s (m - 1)) with
    | none => rw [hunmoved (by simp [learnedValue, hl, hv])]; simp only [learnModule, hl, hv]; rfl
    | some v =>
      simp only [learnModule, hl, hv]
      refine congrArg (setLamps s) (List.map_congr_left fun l _ => ?_)
      simp only [List.mem_singleton, Bool.and_eq_true, decide_eq_true_eq]
      by_cases hm : moduleOf l.index = m
      · cases hlit : l.isLit <;> simp [taught, taughtE, learnedValue, hm, hl, hv, hlit]
      · simp [hm]

/-- The lamps of a module stay while another learns. -/
theorem lampsOf_learnModule (s : State) {m k : Nat} (hk : k ≠ m) : lampsOf (learnModule s m) k = lampsOf s k := by
  have hindex : ∀ l : Lamp, (if moduleOf l.index ∈ [m] then taught s l else l).index = l.index := by
    intro l; split <;> rfl
  rw [learnModule_eq]
  show (s.seq.lamps.map _).filter _ = _
  rw [List.filter_map]
  have hfilter : (s.seq.lamps.filter
      ((fun l => moduleOf l.index == k) ∘ fun l => if moduleOf l.index ∈ [m] then taught s l else l)) = lampsOf s k :=
    List.filter_congr fun l _ => by simp only [Function.comp, hindex]
  rw [hfilter]
  refine (List.map_congr_left fun l hl => ?_).trans (List.map_id _)
  have hlk : moduleOf l.index = k := by simpa using (List.mem_filter.mp hl).2
  exact if_neg (by rw [List.mem_singleton, hlk]; exact hk)

theorem learnedValue_learnModule (s : State) {m k : Nat} (hk : k ≠ m) :
    learnedValue (learnModule s m) k = learnedValue s k := by
  unfold learnedValue learns
  rw [lampsOf_learnModule s hk]
  simp [inputAt, inStroke]

theorem lampsTaught_learnModule (s : State) {m : Nat} {ms : List Nat} (hm : m ∉ ms) :
    lampsTaught (learnModule s m) ms = lampsTaught s (m :: ms) := by
  have hlamps : (learnModule s m).seq.lamps = lampsTaught s [m] := by rw [learnModule_eq]; rfl
  have hother (l : Lamp) (hl : moduleOf l.index ≠ m) : taught (learnModule s m) l = taught s l := by
    simp only [taught, taughtE, learnedValue_learnModule s hl, lampsOf_learnModule s hl]
  rw [lampsTaught, hlamps, lampsTaught, List.map_map]
  refine List.map_congr_left fun l _ => ?_
  simp only [Function.comp, List.mem_cons, List.not_mem_nil, or_false]
  by_cases hl : moduleOf l.index = m
  · have hout : moduleOf (taught s l).index ∉ ms := fun h => hm (hl ▸ h)
    rw [if_pos hl, if_neg hout, if_pos (Or.inl hl)]
  · simp only [hl, if_false, false_or, hother l hl]

theorem foldl_learnModule_eq {ms : List Nat} (hn : ms.Nodup) (s : State) :
    ms.foldl learnModule s = setLamps s (lampsTaught s ms) := by
  induction ms generalizing s with
  | nil =>
    have hsame : lampsTaught s [] = s.seq.lamps := by simp [lampsTaught]
    rw [hsame]; rfl
  | cons m ms ih =>
    obtain ⟨hm, hn⟩ := List.nodup_cons.mp hn
    rw [List.foldl_cons, ih hn, lampsTaught_learnModule s hm, learnModule_eq]
    rfl

theorem mem_modules (s : State) (m : Nat) : m ∈ modules s ↔ 1 ≤ m ∧ m ≤ s.ldr.cfg.nMod := by
  simp only [modules, List.mem_map, List.mem_range]
  constructor
  · rintro ⟨k, hk, rfl⟩; omega
  · rintro ⟨h1, h2⟩; exact ⟨m - 1, by omega, by omega⟩

/-- All modules learn from the table as it stood (R120). -/
theorem stepLearn_eq (s : State) : stepLearn s = setLamps s (lampsTaught s (modules s)) :=
  foldl_learnModule_eq (List.nodup_range.map fun _ _ h => Nat.succ.inj h) s

/-! ### Who keeps index and estimate -/

/-- Index and estimate of a record. -/
def Lamp.mark (l : Lamp) : Nat × Nat := (l.index, l.e)

/-- Index and estimate of every record, in order. -/
def marks (s : State) : List (Nat × Nat) := s.seq.lamps.map Lamp.mark

theorem map_marks {ls : List Lamp} {f : Lamp → Lamp} (hf : ∀ l, (f l).mark = l.mark) :
    (ls.map f).map Lamp.mark = ls.map Lamp.mark := by
  rw [List.map_map]
  exact List.map_congr_left fun l _ => hf l

theorem judgeStrike_marks (s : State) : marks (judgeStrike s) = marks s := by
  unfold judgeStrike
  split
  · split
    · refine map_marks fun l => ?_
      split <;> rfl
    · rfl
  · rfl

/-- The judgements of a lamp event move no estimate. -/
theorem lampEvent_marks (s : State) : marks (lampEvent s) = marks s := by
  by_cases hj : Judging s
  · unfold marks
    rw [lampEvent_seq_of_judging hj, map_marks fun l => by unfold Lamp.levelled; split <;> rfl]
    have hset : (refreshSetpoint s).seq = s.seq := by simp
    refine (judgeStrike_marks (refreshSetpoint s)).trans ?_
    rw [marks, hset]
  · rw [marks, lampEvent_seq_of_not hj]; rfl

/-- A table's estimates written into the records they belong to. -/
theorem zipWith_e_of_marks {ls gs ts : List Lamp} {f : Lamp → Nat} (hg : gs = ls.map fun l => { l with e := f l })
    (ht : ts.map Lamp.mark = gs.map Lamp.mark) : List.zipWith (fun l g => { l with e := g.e }) ls ts = gs := by
  have hes : ts.map (·.e) = ls.map f := by
    have h := congrArg (List.map Prod.snd) ht
    rw [hg, List.map_map, List.map_map, List.map_map] at h
    exact h
  calc List.zipWith (fun l g => { l with e := g.e }) ls ts
      = List.zipWith (fun l e => { l with e := e }) ls (ts.map (·.e)) := by rw [List.zipWith_map_right]
    _ = gs := by rw [hes, List.zipWith_map_right, List.zipWith_self, hg]

/-! ### The flow that a completion hands on (R66, R67, R108) -/

theorem SameForLamps.refl (s : State) : SameForLamps s s := ⟨rfl, rfl, rfl, rfl, rfl, rfl⟩

theorem SameForLamps.trans {s t u : State} (h : SameForLamps s t) (g : SameForLamps t u) : SameForLamps s u :=
  ⟨g.mode.trans h.mode, g.cfg.trans h.cfg, g.seq.trans h.seq, g.link.trans h.link, g.fReq.trans h.fReq,
    g.uvt.trans h.uvt⟩

theorem SameForLamps.setMode {s u : State} (h : SameForLamps s u) (m : BankMode) :
    SameForLamps (setMode s m) (setMode u m) := ⟨rfl, h.cfg, h.seq, h.link, h.fReq, h.uvt⟩

/-- The entry into ISOLATED ends as a lamp event in that mode (R67, R108). -/
theorem enterIsolated_shown (s : State) : SameForLamps (lampEvent (setMode s .isolated)) (enterIsolated s) := by
  unfold enterIsolated
  exact SameForLamps.lampEvent ⟨by simp [setMode, judgeRoster], by simp, by simp, by simp, by simp, by simp⟩

/-- What the lamps are shown of `s` once it has come to mode `m`: an entry into ISOLATED judges them (R67, R108). -/
def modeReached (s : State) (m : BankMode) : State :=
  if m = .isolated ∧ s.ctl.mode ≠ .isolated then lampEvent (setMode s m) else setMode s m

theorem modeReached_of_isolation {s : State} (h : s.ctl.mode ≠ .isolated) :
    modeReached s .isolated = lampEvent (setMode s .isolated) := if_pos ⟨rfl, h⟩

theorem modeReached_of_others {s : State} {m : BankMode} (h : m = .isolated → s.ctl.mode = .isolated) :
    modeReached s m = setMode s m := if_neg fun hc => hc.2 (h hc.1)

theorem modeReached_stays (s : State) : SameForLamps (modeReached s s.ctl.mode) s := by
  rw [modeReached_of_others fun h => h]
  exact .refl s

theorem SameForLamps.modeReached {s u : State} (h : SameForLamps s u) (m : BankMode) :
    SameForLamps (modeReached s m) (modeReached u m) := by
  unfold Machine.modeReached
  rw [h.mode]
  split
  · exact (h.setMode m).lampEvent
  · exact h.setMode m

theorem dosingMode_ne (s : State) : dosingMode s ≠ .isolated := by
  unfold dosingMode; split <;> decide

theorem followHold_shown (s : State) : SameForLamps (modeReached s (followHold s).ctl.mode) (followHold s) := by
  cases hd : s.ctl.mode.doses with
  | false => rw [followHold_of_rests hd]; exact modeReached_stays s
  | true =>
    have hm : s.ctl.mode ≠ .isolated := fun h => by rw [h] at hd; exact Bool.noConfusion hd
    rw [followHold_of_doses hd]
    split
    · exact modeReached_stays s
    · have hdoses : (setMode s (dosingMode s)).ctl.mode.doses = true := dosingMode_doses s
      cases hr : reasonStands (judgeRoster (setMode s (dosingMode s))) with
      | true =>
        rw [settle_of_reason hdoses hr, enterIsolated_mode, modeReached_of_isolation hm]
        have hjudged : SameForLamps (Machine.setMode s .isolated)
            (Machine.setMode (judgeRoster (Machine.setMode s (dosingMode s))) .isolated) :=
          ⟨rfl, by simp, by simp, by simp, by simp, by simp⟩
        exact hjudged.lampEvent.trans (enterIsolated_shown _)
      | false =>
        have hmode : (applyRole (judgeRoster (setMode s (dosingMode s))) .byLoss).ctl.mode = dosingMode s := by
          simp [judgeRoster, setMode]
        rw [settle_of_doses hdoses hr, hmode, modeReached_of_others fun h => absurd h (dosingMode_ne s)]
        exact ⟨hmode, by simp, by simp, by simp, by simp, by simp⟩

/-- A flow handed on shows the lamps the mode it leads to, and nothing else. -/
theorem handFlow_shown (s : State) (o : Option Offer) :
    SameForLamps (modeReached s (handFlow s o).ctl.mode) (handFlow s o) := by
  unfold handFlow
  split
  · rename_i x
    have hjudged : SameForLamps s (judgeHold (offerFlow (s.setScn { s.scn with ownFlow := some x })
        s.ldr.straps.position x.state x.value)) := by
      refine ⟨by simp, by simp, by simp, by simp, ?_, ?_⟩
      · rw [judgeHold_eq]; rfl
      · rw [judgeHold_eq]; rfl
    exact (hjudged.modeReached _).trans (followHold_shown _)
  · exact modeReached_stays s

end Sys2Proof.Machine
end

section
/-! The output estimates are learned at a completion, and stand until the next (O49). -/

namespace Sys2Proof.Machine

/-! ### A completion, step by step (R140) -/

/-- The part once the first four steps of a completion are taken: samples, learning, F_eff, fouling. -/
def scanned (s : State) (raw : List (BitVec 10)) : State :=
  stepFouling (stepPublish (stepLearn (stepSamples s raw))) s.scn.inputs raw

/-- The part once the flow of the scan has been handed on. -/
def flowHanded (s : State) (raw : List (BitVec 10)) (fdir : Bool) : State :=
  handFlow (scanned s raw) (flowOffer (scanned s raw) fdir)

/-- The part once the transmittance of the scan has been handed on. -/
def uvtHanded (s : State) (raw : List (BitVec 10)) (fdir : Bool) : State :=
  handUvt (flowHanded s raw fdir) (uvtOffer (flowHanded s raw fdir))

theorem completeScan_eq (s : State) (raw : List (BitVec 10)) (fdir : Bool) :
    completeScan s raw fdir = lampEvent (endScan (uvtHanded s raw fdir)) := rfl

theorem exec_scanComplete {s : State} (raw : List (BitVec 10)) (fdir : Bool) (h : Runs s)
    (hs : s.scn.scan.isSome = true) : exec (.scanComplete raw fdir) s = .next (completeScan s raw fdir) := by
  refine congrArg Host.Outcome.next ((event_of_runs _ h ?_).trans ?_) <;> rw [if_pos hs]
  exact completeScan_restarting s raw fdir

/-- The lamps as the first four steps leave them: the estimates taught, and nothing else moved (R120). -/
theorem scanned_seq (s : State) (raw : List (BitVec 10)) :
    (scanned s raw).seq = { s.seq with lamps := lampsTaught (stepSamples s raw) (modules s) } := by
  have hseq : (scanned s raw).seq = (stepLearn (stepSamples s raw)).seq := by simp [scanned]
  have hmodules : modules (stepSamples s raw) = modules s := by simp [modules]
  rw [hseq, stepLearn_eq, hmodules]
  rfl

/-! ### After the learning no estimate moves -/

theorem modeReached_marks (s : State) (m : BankMode) : marks (modeReached s m) = marks s := by
  unfold modeReached
  split
  · exact lampEvent_marks _
  · rfl

theorem marks_of_seq {s t : State} (h : t.seq = s.seq) : marks t = marks s := by rw [marks, marks, h]

theorem completeScan_marks (s : State) (raw : List (BitVec 10)) (fdir : Bool) :
    marks (completeScan s raw fdir) = marks (scanned s raw) :=
  calc marks (completeScan s raw fdir)
      = marks (endScan (uvtHanded s raw fdir)) := lampEvent_marks _
    _ = marks (flowHanded s raw fdir) := marks_of_seq (by simp [uvtHanded])
    _ = marks (modeReached (scanned s raw) (flowHanded s raw fdir).ctl.mode) :=
        marks_of_seq (handFlow_shown (scanned s raw) (flowOffer (scanned s raw) fdir)).seq
    _ = marks (scanned s raw) := modeReached_marks _ _

/-! ### After the samples no input moves -/

theorem handFlow_inputs (s : State) (o : Option Offer) : (handFlow s o).scn.inputs = s.scn.inputs := by
  unfold handFlow; split <;> simp

theorem handUvt_inputs (s : State) (o : Option Offer) : (handUvt s o).scn.inputs = s.scn.inputs := by
  unfold handUvt; split <;> simp [offerUvt]

theorem endScan_inputs (s : State) : (endScan s).scn.inputs = s.scn.inputs := by
  unfold endScan; split <;> rfl

theorem stepFouling_inputs (s : State) (before : List Input) (raw : List (BitVec 10)) :
    (stepFouling s before raw).scn.inputs = s.scn.inputs := by
  unfold stepFouling; simp only; split <;> simp

theorem completeScan_inputs (s : State) (raw : List (BitVec 10)) (fdir : Bool) :
    (completeScan s raw fdir).scn.inputs = (stepSamples s raw).scn.inputs := by
  have hscn (u : State) : (lampEvent u).scn = u.scn := by simp
  rw [completeScan_eq, hscn, endScan_inputs, uvtHanded, handUvt_inputs, flowHanded,
    handFlow_inputs, scanned, stepFouling_inputs, stepPublish_scn]
  simp

/-! ### What a module learns (R120) -/

/-- The LIT lamps of a module. -/
def litOf (s : State) (m : Nat) : List Lamp := (lampsOf s m).filter Lamp.isLit

theorem igniting_iff (l : Lamp) : l.igniting = true ↔ l.state = .striking ∨ l.state = .warming := by
  simp [Lamp.igniting]

theorem inStroke_iff (s : State) : inStroke s = true ↔ s.wip.state = .strokeOut ∨ s.wip.state = .strokeBack := by
  unfold inStroke
  cases s.wip.state <;> simp [WiperState.stroking]

theorem learns_iff (s : State) (m : Nat) : learns s m = true ↔ (inputAt s (m - 1)).fault = false ∧
    s.wip.state ≠ .strokeOut ∧ s.wip.state ≠ .strokeBack ∧ litOf s m ≠ [] ∧ (∀ l ∈ litOf s m, 60000 ≤ l.timer) ∧
    ∀ l ∈ lampsOf s m, l.state ≠ .striking ∧ l.state ≠ .warming := by
  have hstroke : inStroke s = false ↔ s.wip.state ≠ .strokeOut ∧ s.wip.state ≠ .strokeBack := by
    rw [← Bool.not_eq_true, inStroke_iff, not_or]
  have hlit : (lampsOf s m).any Lamp.isLit = true ↔ litOf s m ≠ [] := by
    simp [litOf, List.filter_eq_nil_iff]
  have hsteady : ((lampsOf s m).all fun l => !l.isLit || decide (60000 ≤ l.timer)) = true ↔
      ∀ l ∈ litOf s m, 60000 ≤ l.timer := by
    simp only [litOf, List.all_eq_true, List.mem_filter, Bool.or_eq_true, Bool.not_eq_true', decide_eq_true_eq, and_imp]
    refine forall₂_congr fun l _ => ?_
    cases l.isLit <;> simp
  have hquiet : (lampsOf s m).any Lamp.igniting = false ↔
      ∀ l ∈ lampsOf s m, l.state ≠ .striking ∧ l.state ≠ .warming := by
    simp only [List.any_eq_false, igniting_iff, not_or, ne_eq]
  simp only [learns, Bool.and_eq_true, Bool.not_eq_true', hstroke, hlit, hsteady, hquiet, and_assoc]

/-- The estimate moved by a sixteenth of its distance, written out. -/
theorem learnedE_eq (v levels e : Nat) : learnedE v levels e =
    (let d : Int := 10 * (v : Int) - (e : Int) * (levels : Int)
     let step : Int := if 0 ≤ d then ((2 * d.toNat + 16 * levels) / (32 * levels) : Nat)
       else -((2 * (-d).toNat + 16 * levels) / (32 * levels) : Nat)
     min ((e : Int) + step).toNat 65535) := by
  have hscale : 2 * (16 * levels) = 32 * levels := by omega
  simp only [learnedE, clamp16, roundAway, roundHalfUp, hscale]

section
variable {s : State} {l : Lamp}

theorem taughtE_of_stays (h : l.state ≠ .lit ∨ learns s (moduleOf l.index) = false ∨
    (inputAt s (moduleOf l.index - 1)).window = []) : taughtE s l = l.e := by
  unfold taughtE learnedValue
  rcases h with hst | hl | hw
  · exact if_neg (by simp [Lamp.isLit, hst])
  · simp [hl]
  · simp [sensorValue, hw]

theorem taughtE_of_moves (hst : l.state = .lit) (hl : learns s (moduleOf l.index) = true) {v : Nat}
    (hv : sensorValue s.ldr.cfg.sensorSpan (inputAt s (moduleOf l.index - 1)) = some v) :
    taughtE s l = learnedE v (litLevels (lampsOf s (moduleOf l.index))) l.e := by
  simp [taughtE, learnedValue, Lamp.isLit, hst, hl, hv]

end

/-- The estimate a completion leaves of a lamp. -/
def estimateAfter (s : State) (raw : List (BitVec 10)) (l : Lamp) : Nat :=
  if moduleOf l.index ≤ s.ldr.cfg.nMod then taughtE (stepSamples s raw) l else l.e

/-- A lamp of the table is found again after a completion, with the estimate it learned. -/
theorem completeScan_lampAt {s : State} (h : LampsInv s) (raw : List (BitVec 10)) (fdir : Bool) {l : Lamp}
    (hl : l ∈ s.seq.lamps) :
    ∃ g, lampAt (completeScan s raw fdir) l.index = some g ∧ g.e = estimateAfter s raw l := by
  have hindex : 1 ≤ l.index := by
    have hm : l.index ∈ (List.range 24).map (· + 1) := h.1 ▸ List.mem_map_of_mem hl
    obtain ⟨k, -, hk⟩ := List.mem_map.mp hm
    omega
  have hmark : (l.index, estimateAfter s raw l) ∈ marks (completeScan s raw fdir) := by
    rw [completeScan_marks, marks, scanned_seq]
    refine List.mem_map.mpr ⟨_, List.mem_map.mpr ⟨l, by simpa using hl, rfl⟩, ?_⟩
    have hmodule : moduleOf l.index ∈ modules s ↔ moduleOf l.index ≤ s.ldr.cfg.nMod := by
      rw [mem_modules]
      exact and_iff_right (by unfold moduleOf; omega)
    unfold estimateAfter
    simp only [hmodule]
    split <;> rfl
  obtain ⟨g, hg, heq⟩ := List.mem_map.mp hmark
  obtain ⟨hi, he⟩ := Prod.mk.inj heq
  exact ⟨g, hi ▸ lampAt_of_mem (completeScan_lamps s raw fdir h) hg, he⟩

/-- Settles O49: by whether the lamp's module is there, and by whether it learns. -/
theorem outputEstimatesAreLearned : Obligations.OutputEstimatesAreLearned := by
  unfold Obligations.OutputEstimatesAreLearned
  intro raw fdir s hr hi hs
  refine ⟨_, exec_scanComplete raw fdir hr hs, fun l hl => ?_⟩
  obtain ⟨g, hg, he⟩ := completeScan_lampAt hi raw fdir hl
  refine ⟨g, hg, ?_⟩
  have hsensor : inputAt (completeScan s raw fdir) ((l.index + 3) / 4 - 1) =
      inputAt (stepSamples s raw) (moduleOf l.index - 1) := by
    unfold inputAt; rw [completeScan_inputs]; rfl
  have hlamps : lampsOf (stepSamples s raw) (moduleOf l.index) =
      s.seq.lamps.filter fun x => decide ((x.index + 3) / 4 = (l.index + 3) / 4) := rfl
  have hwip : (stepSamples s raw).wip = s.wip := by simp
  have hcfg : (stepSamples s raw).ldr = s.ldr := by simp
  have hlearns := learns_iff (stepSamples s raw) (moduleOf l.index)
  have hlit : litOf (stepSamples s raw) (moduleOf l.index) = (s.seq.lamps.filter fun x =>
      decide ((x.index + 3) / 4 = (l.index + 3) / 4)).filter fun x => decide (x.state = .lit) := rfl
  rw [hwip, hlit, hlamps] at hlearns
  simp only [hsensor]
  refine ⟨fun hstays => ?_, fun hst hmoves v hv => ?_⟩
  · rw [he, estimateAfter]
    split
    · rename_i hm
      refine taughtE_of_stays (hstays.imp_right (Or.imp_left fun hnot => ?_))
      rw [← Bool.not_eq_true, hlearns]
      exact fun hc => hnot ⟨hm, hc⟩
    · rfl
  · obtain ⟨hm, hc⟩ := hmoves
    rw [he, estimateAfter, if_pos (show moduleOf l.index ≤ s.ldr.cfg.nMod from hm),
      taughtE_of_moves hst (hlearns.mpr hc) (by rw [hcfg]; exact hv), learnedE_eq]
    rfl

end Sys2Proof.Machine
end

section
/-! The judgements that close a lamp event, and the events that end with them (O46). -/

namespace Sys2Proof.Machine

/-! ### A UVT from a bank (R78) -/

/-- An offer of a UVT and the lamp event after it settle what is held of the transmittance, and F_req alone besides. -/
theorem lampEvent_uvtOffered (s : State) (a : Src) (b : ReadingBody) :
    lampEvent (uvtOffered s a b) = lampEvent ((learned s a).setPln { (learned s a).pln with
      uvt := (lampEvent (uvtOffered s a b)).pln.uvt, uvtSource := (lampEvent (uvtOffered s a b)).pln.uvtSource
      uvtDup := (lampEvent (uvtOffered s a b)).pln.uvtDup }) := by
  obtain ⟨-, -, -, -, huvt, hsource, hdup, -⟩ := lampEvent_pln_keeps (uvtOffered s a b)
  refine congrArg lampEvent ?_
  rw [huvt, hsource, hdup]
  rfl

/-! ### A completion of a scan (R121, R140) -/

theorem scanned_shown (s : State) (raw : List (BitVec 10)) :
    SameForLamps (s.setSeq (scanned s raw).seq) (scanned s raw) :=
  ⟨by simp [scanned], by simp [scanned], rfl, by simp [scanned], by simp [scanned], by simp [scanned]⟩

theorem completeScan_mode (s : State) (raw : List (BitVec 10)) (fdir : Bool) :
    (completeScan s raw fdir).ctl.mode = (flowHanded s raw fdir).ctl.mode := by
  simp [completeScan_eq, uvtHanded]

/-- The estimates that stand after a completion, written into the table before it, are the table as learned. -/
theorem zipWith_e_completeScan (s : State) (raw : List (BitVec 10)) (fdir : Bool) :
    { s.seq with
      lamps := List.zipWith (fun l g => { l with e := g.e }) s.seq.lamps (completeScan s raw fdir).seq.lamps } =
        (scanned s raw).seq := by
  have htaught : lampsTaught (stepSamples s raw) (modules s) = s.seq.lamps.map fun l =>
      { l with e := if moduleOf l.index ∈ modules s then taughtE (stepSamples s raw) l else l.e } := by
    have hseq : (stepSamples s raw).seq = s.seq := by simp
    rw [lampsTaught, hseq]
    refine List.map_congr_left fun l _ => ?_
    split <;> rfl
  have hmarks := completeScan_marks s raw fdir
  rw [marks, marks, scanned_seq] at hmarks
  rw [zipWith_e_of_marks htaught hmarks, scanned_seq]

theorem handUvt_fReq (s : State) (o : Option Offer) : (handUvt s o).pln.fReq = s.pln.fReq := by
  unfold handUvt; split <;> rfl

/-- A completion ends with a lamp event at the mode, the estimates and the transmittance it leaves. -/
theorem completeScan_ends (s : State) (raw : List (BitVec 10)) (fdir : Bool) :
    EndsAsLampEvent
      ((modeReached (s.setSeq (scanned s raw).seq) (completeScan s raw fdir).ctl.mode).setPln
        { (modeReached (s.setSeq (scanned s raw).seq) (completeScan s raw fdir).ctl.mode).pln with
          uvt := (completeScan s raw fdir).pln.uvt })
      (completeScan s raw fdir) := by
  have hflow : SameForLamps (modeReached (s.setSeq (scanned s raw).seq) (flowHanded s raw fdir).ctl.mode)
      (flowHanded s raw fdir) :=
    ((scanned_shown s raw).modeReached _).trans (handFlow_shown _ _)
  have huvt : (completeScan s raw fdir).pln.uvt = (endScan (uvtHanded s raw fdir)).pln.uvt :=
    lampEvent_uvt _
  rw [completeScan_mode, huvt, completeScan_eq]
  refine SameForLamps.ends ⟨?_, ?_, ?_, ?_, ?_, rfl⟩
  · simpa [uvtHanded] using hflow.mode
  · simpa [uvtHanded] using hflow.cfg
  · simpa [uvtHanded] using hflow.seq
  · simpa [uvtHanded] using hflow.link
  · simpa [uvtHanded, handUvt_fReq] using hflow.fReq

/-! ### The end of LISTEN (R65, R67) -/

/-- LISTEN ends with a lamp event in the mode it enters, ISOLATED or one that doses. -/
theorem listenOver_ends (s : State) : EndsAsLampEvent (setMode s (listenOver s).ctl.mode) (listenOver s) := by
  unfold listenOver
  simp only
  split
  · unfold enterIsolated
    exact SameForLamps.ends ⟨by simp [setMode, judgeRoster], by simp, by simp, by simp, by simp, by simp⟩
  · exact SameForLamps.ends
      ⟨by simp [setMode], by simp, by simp, by simp, by simp [enterDosing_pln], by simp [enterDosing_pln]⟩

/-! ### The judgements themselves (R108–R115) -/

theorem lampEvent_onlyChanges (s : State) : OnlyChanges [.pln, .seq, .link] s (lampEvent s) := by
  intro b hb
  cases b <;> simp_all [Block.same]

/-- While the spacing timer runs the strike rule does not hold (R110). -/
theorem strikeRule_of_spacing {s : State} (h : s.seq.spacing.isSome = true) :
    strikeRule (refreshSetpoint s) = false := by
  have hset : (refreshSetpoint s).seq = s.seq := by simp
  rw [← Bool.not_eq_true]
  intro hr
  have hnone := strikeRule_spacing hr
  rw [hset] at hnone
  rw [hnone] at h
  exact Bool.noConfusion h

/-- The hold-off timer runs while the extinguish condition holds, by the lamps that stood before the event (R113). -/
theorem lampEvent_holdoff {s : State} (h : LampsInv s) (hj : Judging s) : (lampEvent s).seq.holdoff =
    if 100 * (lampEvent s).pln.fReq < 45 * fLitFull s ∧ s.ldr.cfg.minLit < s.seq.lamps.countP Lamp.isLit
      then some (s.seq.holdoff.getD 0) else none := by
  obtain ⟨-, -, -, hholdoff⟩ := struck_keeps s
  rw [lampEvent_seq_of_judging hj]
  simp only [extinguishHolds_struck h, hholdoff]

/-- Settles O46: the events by what they show the lamps last, the judgements each by its own lemma. -/
theorem lampJudgementsStrikeOrLevel : Obligations.LampJudgementsStrikeOrLevel := by
  unfold Obligations.LampJudgementsStrikeOrLevel
  refine ⟨⟨fun s hh hs => exec_uvtSourceLapse hh hs, fun a b s ht ha => ?_, fun raw fdir s hr hs => ?_,
    fun s hr hm => ?_⟩, fun s h => ?_⟩
  · refine ⟨_, exec_uvtReceived a b ht, ?_⟩
    rw [if_pos ha]
    exact lampEvent_uvtOffered s a b
  · refine ⟨_, exec_scanComplete raw fdir hr hs, ?_⟩
    rw [zipWith_e_completeScan]
    exact completeScan_ends s raw fdir
  · refine ⟨_, exec_listenEnd hr hm, ?_⟩
    have hends := listenOver_ends s
    unfold EndsAsLampEvent at hends ⊢
    simpa using hends
  · have hpln : (lampEvent s).pln = { s.pln with fReq := (lampEvent s).pln.fReq } := by
      rw [lampEvent_pln]; exact refreshSetpoint_pln s
    refine ⟨lampEvent_onlyChanges s, hpln, lampEvent_judged h, countStriking_lampEvent h,
      fun hs => lampEvent_of_refused (strikeRule_of_spacing hs), fun hj => lampEvent_seq_of_not hj,
      fun hj => ⟨lampEvent_lit hj, ?_, lampEvent_holdoff h hj⟩, fun hm => ?_, fun hm => ?_, fun hm => ?_⟩
    · rw [← judgedLevel_eq h, lampEvent_seq_of_judging hj]
    · rw [lampEvent_pln_of_doses ((doses_iff _).mpr hm)]
    · rw [lampEvent_pln]
      exact refreshSetpoint_of_rests (.inl ⟨hm, rfl⟩)
    · rw [fMax_lampEvent h, lampEvent_pln]
      exact refreshSetpoint_of_rests (.inr ⟨hm, rfl⟩)

end Sys2Proof.Machine
end

section
/-! The exchange a visit drives on the ballast link, and the judgement of a ballast's reply (O40). -/

namespace Sys2Proof.Machine

/-! ### Bits on the line, most significant bit first (R123) -/

/-- The bits of a word in the order they are sent. -/
def msbBits {n : Nat} (x : BitVec n) : List Bool := (List.range n).map x.getMsbD

theorem bitsMsbFirst_eq (b : Byte) : bitsMsbFirst b = msbBits b := rfl

@[simp] theorem msbBits_length {n : Nat} (x : BitVec n) : (msbBits x).length = n := by simp [msbBits]

theorem msbBits_getElem? {n k : Nat} (x : BitVec n) (h : k < n) : (msbBits x)[k]? = some (x.getLsbD (n - 1 - k)) := by
  simp [msbBits, h, BitVec.getMsbD]

/-- Words sent one after another are their concatenation sent. -/
theorem msbBits_append {m n : Nat} (x : BitVec m) (y : BitVec n) : msbBits (x ++ y) = msbBits x ++ msbBits y := by
  have hx : (List.range m).map (x ++ y).getMsbD = (List.range m).map x.getMsbD :=
    List.map_congr_left fun k hk => by simp [BitVec.getMsbD_append, Nat.not_le.mpr (List.mem_range.mp hk)]
  have hy : (List.range n).map (fun k => (x ++ y).getMsbD (m + k)) = (List.range n).map y.getMsbD :=
    List.map_congr_left fun k _ => by simp [BitVec.getMsbD_append]
  unfold msbBits
  rw [List.range_add, List.map_append, List.map_map, hx]
  exact congrArg _ hy

/-! ### The periods of an exchange (R123, R124) -/

/-- The 24 bits of a command: address, the two actions, the two levels (R124; log 25). -/
def commandWord (v : Visit) : BitVec 24 :=
  BitVec.ofNat 8 v.ballast ++ BitVec.ofNat 4 v.a.action.code ++ BitVec.ofNat 4 v.b.action.code ++
    BitVec.ofNat 4 v.a.sentLevel ++ BitVec.ofNat 4 v.b.sentLevel

theorem command_bits (v : Visit) : v.command.flatMap bitsMsbFirst = msbBits (commandWord v) := by
  unfold commandWord
  simp only [Visit.command, List.flatMap_cons, List.flatMap_nil, bitsMsbFirst_eq, codePair, msbBits_append,
    List.append_assoc, List.append_nil]

/-- Command, turnaround with the reply, gap. -/
theorem exchange_eq (v : Visit) : v.exchange = (msbBits (commandWord v)).map (fun x => ⟨true, x⟩) ++
    (List.replicate 32 ⟨true, true⟩ ++ List.replicate 8 ⟨false, true⟩) := by
  unfold Visit.exchange
  rw [command_bits, List.append_assoc, List.append_assoc]
  rfl

section
variable (v : Visit) {k : Nat}

theorem exchange_length : v.exchange.length = 64 := by simp [exchange_eq]

theorem exchange_command (h : k < 24) : v.exchange[k]? = some ⟨true, (commandWord v).getLsbD (23 - k)⟩ := by
  rw [exchange_eq, List.getElem?_append_left (by simpa using h), List.getElem?_map, msbBits_getElem? _ h]
  rfl

theorem exchange_reply (h : 24 ≤ k) (h' : k < 56) : v.exchange[k]? = some ⟨true, true⟩ := by
  rw [exchange_eq, List.getElem?_append_right (by simpa using h), List.getElem?_append_left (by simp; omega),
    List.getElem?_replicate_of_lt (by simp; omega)]

theorem exchange_gap (h : 56 ≤ k) (h' : k < 64) : v.exchange[k]? = some ⟨false, true⟩ := by
  rw [exchange_eq, List.getElem?_append_right (by simp; omega), List.getElem?_append_right (by simp; omega),
    List.getElem?_replicate_of_lt (by simp; omega)]

end

/-! ### The outputs of the link (R123) -/

section
variable {l : Link} {v : Visit} {k : Nat}

theorem outputs_of_none (h : l.visit = none) (k : Nat) : l.outputs k = ⟨false, true⟩ := by
  simp [Link.outputs, h, LinePeriod.idle]

theorem outputs_of_visit (h : l.visit = some v) (hk : k < 64) : v.exchange[k]? = some (l.outputs k) := by
  have hlt : k < v.exchange.length := by rwa [exchange_length]
  simp [Link.outputs, h, hlt]

theorem outputs_after_visit (h : l.visit = some v) (hk : 64 ≤ k) : l.outputs k = ⟨false, true⟩ := by
  have hle : v.exchange.length ≤ k := by rwa [exchange_length]
  simp [Link.outputs, h, hle, LinePeriod.idle]

end

/-- A command that has taken the part into reset has ended the exchange in flight (R64). -/
theorem outputs_of_gone_into_reset {c : Instr} {s t : State} (h : s.hold.held = false) (ht : exec c s = .next t)
    (hheld : t.hold.held = true) (k : Nat) : t.link.outputs k = ⟨false, true⟩ := by
  obtain ⟨u, hold, rfl⟩ := (exec_goneInto h ht hheld).taken
  exact outputs_of_none rfl k

/-! ### The codes of a reply (R124, R125; log 25) -/

def statusCode : LampStatus → Nat
  | .off => 0
  | .striking => 1
  | .lit => 2
  | .openCircuit => 3
  | .shortCircuit => 4

def classCode : TempClass → Nat
  | .normal => 0
  | .warm => 1
  | .hot => 2

theorem statusCode_le (st : LampStatus) : statusCode st ≤ 4 := by cases st <;> decide

theorem classCode_le (c : TempClass) : classCode c ≤ 2 := by cases c <;> decide

theorem lampStatusOf_eq_some (c : BitVec 4) (st : LampStatus) :
    lampStatusOf c = some st ↔ c.toNat = statusCode st := by
  revert c; cases st <;> decide

theorem tempClassOf_eq_some (c : BitVec 4) (cls : TempClass) : tempClassOf c = some cls ↔ c.toNat = classCode cls := by
  revert c; cases cls <;> decide

/-- Code `k` of a reply's six, as the statements write it. -/
def codeAt (w : BitVec 24) (k : Nat) : Nat := w.toNat / 16 ^ (5 - k) % 16

theorem replyCode_toNat (w : BitVec 24) {k : Nat} (h : k ≤ 5) : (replyCode w k).toNat = codeAt w k := by
  have hp : 2 ^ (20 - 4 * k) = 16 ^ (5 - k) := by
    rw [show 20 - 4 * k = 4 * (5 - k) by omega, Nat.pow_mul]
  simp [replyCode, codeAt, Nat.shiftRight_eq_div_pow, hp]

theorem replyChecksum_eq (addr : Nat) (w : BitVec 24) : replyChecksum addr w =
    (addr + codeAt w 0 + codeAt w 1 + codeAt w 2 + codeAt w 3 + codeAt w 4) % 16 := by
  simp [replyChecksum, replyCode_toNat]

/-! ### One lamp's report -/

/-- A status, and a level with lit and with lit alone (R125). -/
def LampForm (st lv : Nat) : Prop := st ≤ 4 ∧ (st = 2 → 5 ≤ lv ∧ lv ≤ 10) ∧ (st ≠ 2 → lv = 0)

theorem lampForm_statusCode (st : LampStatus) (lv : Nat) : LampForm (statusCode st) lv ↔ reportSound ⟨st, lv⟩ := by
  cases st <;> simp [LampForm, reportSound, statusCode]

theorem exists_statusCode {n : Nat} (h : n ≤ 4) : ∃ st, n = statusCode st := by
  interval_cases n
  exacts [⟨.off, rfl⟩, ⟨.striking, rfl⟩, ⟨.lit, rfl⟩, ⟨.openCircuit, rfl⟩, ⟨.shortCircuit, rfl⟩]

/-- What is asked of a level code beside its status is that the report is sound. -/
theorem levelFits_iff (st : LampStatus) (d : BitVec 4) :
    (levelCode d && (decide (st = .lit) == decide (d ≠ 0))) = true ↔ reportSound ⟨st, d.toNat⟩ := by
  unfold reportSound
  revert d; cases st <;> decide

/-- Two codes spell a report: its status, its level, and the two go together. -/
theorem lampReportOf_eq_some (c d : BitVec 4) (r : LampReport) : lampReportOf c d = some r ↔
    c.toNat = statusCode r.status ∧ d.toNat = r.level ∧ reportSound r := by
  rw [← lampStatusOf_eq_some]
  unfold lampReportOf
  cases hs : lampStatusOf c with
  | none => simp
  | some st =>
    obtain ⟨status, level⟩ := r
    simp only [levelFits_iff, Option.ite_none_right_eq_some, Option.some.injEq, LampReport.mk.injEq]
    constructor
    · rintro ⟨hr, rfl, rfl⟩
      exact ⟨rfl, rfl, hr⟩
    · rintro ⟨rfl, rfl, hr⟩
      exact ⟨hr, rfl, rfl⟩

theorem lampForm_iff (c d : BitVec 4) : LampForm c.toNat d.toNat ↔ ∃ r, lampReportOf c d = some r := by
  simp only [lampReportOf_eq_some]
  constructor
  · intro hform
    obtain ⟨st, hst⟩ := exists_statusCode hform.1
    exact ⟨⟨st, d.toNat⟩, hst, rfl, (lampForm_statusCode _ _).mp (hst ▸ hform)⟩
  · rintro ⟨⟨st, lv⟩, hst, hlv, hr⟩
    rw [hst, hlv]
    exact (lampForm_statusCode _ _).mpr hr

theorem classForm_iff (c : BitVec 4) : c.toNat ≤ 2 ↔ ∃ cls, tempClassOf c = some cls := by
  simp only [tempClassOf_eq_some]
  constructor
  · intro h
    generalize c.toNat = n at h
    interval_cases n
    exacts [⟨.normal, rfl⟩, ⟨.warm, rfl⟩, ⟨.hot, rfl⟩]
  · rintro ⟨cls, h⟩
    exact h ▸ classCode_le cls

/-! ### The judgement, row by row (R125) -/

/-- The five codes beside the checksum make two reports and a class. -/
def Formed (w : BitVec 24) : Prop :=
  LampForm (codeAt w 0) (codeAt w 1) ∧ LampForm (codeAt w 2) (codeAt w 3) ∧ codeAt w 4 ≤ 2

/-- The five fields that the codes of a reply spell are those of `r`. -/
def Spells (w : BitVec 24) (r : BallastReply) : Prop :=
  lampReportOf (replyCode w 0) (replyCode w 1) = some r.a ∧ lampReportOf (replyCode w 2) (replyCode w 3) = some r.b ∧
    tempClassOf (replyCode w 4) = some r.cls

theorem formed_iff (w : BitVec 24) : Formed w ↔ ∃ r, Spells w r := by
  have hcode {k : Nat} (h : k ≤ 5) : codeAt w k = (replyCode w k).toNat := (replyCode_toNat w h).symm
  unfold Formed Spells
  rw [hcode (k := 0) (by decide), hcode (k := 1) (by decide), hcode (k := 2) (by decide), hcode (k := 3) (by decide),
    hcode (k := 4) (by decide), lampForm_iff, lampForm_iff, classForm_iff]
  constructor
  · rintro ⟨⟨a, ha⟩, ⟨b, hb⟩, c, hc⟩
    exact ⟨⟨c, a, b⟩, ha, hb, hc⟩
  · rintro ⟨r, ha, hb, hc⟩
    exact ⟨⟨_, ha⟩, ⟨_, hb⟩, _, hc⟩

section
variable {addr : Nat} {w : BitVec 24}

theorem judgeReply_of_silent (h : w = BitVec.allOnes 24) : judgeReply addr w = .miss .noReply := by
  rw [judgeReply, if_pos h]

theorem judgeReply_of_badChecksum (h : w ≠ BitVec.allOnes 24) (hc : codeAt w 5 ≠ replyChecksum addr w) :
    judgeReply addr w = .miss .badChecksum := by
  rw [judgeReply, if_neg h, if_pos (by rwa [replyCode_toNat w le_rfl])]

theorem judgeReply_of_spells {r : BallastReply} (h : w ≠ BitVec.allOnes 24) (hc : codeAt w 5 = replyChecksum addr w)
    (hr : Spells w r) : judgeReply addr w = .good r := by
  obtain ⟨ha, hb, hcls⟩ := hr
  rw [judgeReply, if_neg h, if_neg (by rw [replyCode_toNat w le_rfl]; exact not_not.mpr hc)]
  simp only [ha, hb, hcls]

theorem judgeReply_of_malformed (h : w ≠ BitVec.allOnes 24) (hc : codeAt w 5 = replyChecksum addr w)
    (hf : ¬ Formed w) : judgeReply addr w = .miss .malformed := by
  rw [judgeReply, if_neg h, if_neg (by rw [replyCode_toNat w le_rfl]; exact not_not.mpr hc)]
  split
  · rename_i a b c ha hb hcls
    exact absurd ((formed_iff w).mpr ⟨⟨c, a, b⟩, ha, hb, hcls⟩) hf
  · rfl

/-- A reply judged good has the checksum of its address. -/
theorem checksum_of_good {r : BallastReply} (h : judgeReply addr w = .good r) :
    codeAt w 5 = replyChecksum addr w := by
  by_contra hc
  by_cases hs : w = BitVec.allOnes 24
  · rw [judgeReply_of_silent hs] at h; cases h
  · rw [judgeReply_of_badChecksum hs hc] at h; cases h

end

/-! ### The word of six codes (log 25) -/

theorem toNat_append_code {n : Nat} (x : BitVec n) (c : BitVec 4) : (x ++ c).toNat = 16 * x.toNat + c.toNat := by
  rw [BitVec.toNat_append, ← Nat.shiftLeft_add_eq_or_of_lt c.isLt, Nat.shiftLeft_eq, Nat.mul_comm]

/-- A reply of six codes, the first foremost. -/
def replyWord (c₀ c₁ c₂ c₃ c₄ c₅ : BitVec 4) : BitVec 24 := c₀ ++ c₁ ++ c₂ ++ c₃ ++ c₄ ++ c₅

theorem replyWord_toNat (c₀ c₁ c₂ c₃ c₄ c₅ : BitVec 4) : (replyWord c₀ c₁ c₂ c₃ c₄ c₅).toNat =
    16 * (16 * (16 * (16 * (16 * c₀.toNat + c₁.toNat) + c₂.toNat) + c₃.toNat) + c₄.toNat) + c₅.toNat := by
  unfold replyWord
  simp only [toNat_append_code]

/-- Its codes are those it is made of. -/
theorem codeAt_replyWord (c₀ c₁ c₂ c₃ c₄ c₅ : BitVec 4) :
    (let w := replyWord c₀ c₁ c₂ c₃ c₄ c₅
     codeAt w 0 = c₀.toNat ∧ codeAt w 1 = c₁.toNat ∧ codeAt w 2 = c₂.toNat ∧ codeAt w 3 = c₃.toNat ∧
       codeAt w 4 = c₄.toNat ∧ codeAt w 5 = c₅.toNat) := by
  simp only [codeAt, replyWord_toNat]
  omega

/-- A word is made of its codes. -/
theorem replyWord_replyCode (w : BitVec 24) : replyWord (replyCode w 0) (replyCode w 1) (replyCode w 2)
    (replyCode w 3) (replyCode w 4) (replyCode w 5) = w := by
  refine BitVec.eq_of_toNat_eq ?_
  simp only [replyWord_toNat, replyCode_toNat w (show 0 ≤ 5 by decide), replyCode_toNat w (show 1 ≤ 5 by decide),
    replyCode_toNat w (show 2 ≤ 5 by decide), replyCode_toNat w (show 3 ≤ 5 by decide),
    replyCode_toNat w (show 4 ≤ 5 by decide), replyCode_toNat w (show 5 ≤ 5 by decide), codeAt]
  omega

/-! ### The reply of a ballast that stands as `r` says -/

section
variable {addr : Nat} {r : BallastReply}

/-- The sum whose low four bits are the checksum (R125). -/
def codeSum (addr : Nat) (r : BallastReply) : Nat :=
  addr + statusCode r.a.status + r.a.level + statusCode r.b.status + r.b.level + classCode r.cls

theorem replyBits_eq (addr : Nat) (r : BallastReply) : replyBits addr r =
    replyWord (BitVec.ofNat 4 (statusCode r.a.status)) (BitVec.ofNat 4 r.a.level)
      (BitVec.ofNat 4 (statusCode r.b.status)) (BitVec.ofNat 4 r.b.level) (BitVec.ofNat 4 (classCode r.cls))
      (BitVec.ofNat 4 (codeSum addr r)) := rfl

theorem level_le_of_sound {x : LampReport} (h : reportSound x) : x.level ≤ 10 := by
  obtain ⟨hlit, hdark⟩ := h
  by_cases hs : x.status = .lit
  · exact (hlit hs).2
  · rw [hdark hs]; exact Nat.zero_le _

theorem codes_replyBits (addr : Nat) (ha : reportSound r.a) (hb : reportSound r.b) :
    (let w := replyBits addr r
     codeAt w 0 = statusCode r.a.status ∧ codeAt w 1 = r.a.level ∧ codeAt w 2 = statusCode r.b.status ∧
       codeAt w 3 = r.b.level ∧ codeAt w 4 = classCode r.cls ∧ codeAt w 5 = codeSum addr r % 16) := by
  have hsa := statusCode_le r.a.status
  have hsb := statusCode_le r.b.status
  have hc := classCode_le r.cls
  have hla := level_le_of_sound ha
  have hlb := level_le_of_sound hb
  obtain ⟨h₀, h₁, h₂, h₃, h₄, h₅⟩ := codeAt_replyWord (BitVec.ofNat 4 (statusCode r.a.status))
    (BitVec.ofNat 4 r.a.level) (BitVec.ofNat 4 (statusCode r.b.status)) (BitVec.ofNat 4 r.b.level)
    (BitVec.ofNat 4 (classCode r.cls)) (BitVec.ofNat 4 (codeSum addr r))
  simp only [replyBits_eq, h₀, h₁, h₂, h₃, h₄, h₅, BitVec.toNat_ofNat, and_true]
  omega

/-- A reply built from sound fields is judged good as those fields. -/
theorem judgeReply_replyBits (addr : Nat) (ha : reportSound r.a) (hb : reportSound r.b) :
    judgeReply addr (replyBits addr r) = .good r := by
  obtain ⟨h₀, h₁, h₂, h₃, h₄, h₅⟩ := codes_replyBits addr ha hb
  have hcode {k : Nat} (h : k ≤ 5) := replyCode_toNat (replyBits addr r) h
  refine judgeReply_of_spells (fun hs => ?_) ?_ ⟨?_, ?_, ?_⟩
  · have hle := statusCode_le r.a.status
    rw [hs] at h₀
    have hones : codeAt (BitVec.allOnes 24) 0 = 15 := rfl
    omega
  · rw [h₅, replyChecksum_eq, h₀, h₁, h₂, h₃, h₄]
    rfl
  · exact (lampReportOf_eq_some _ _ _).mpr ⟨(hcode (by decide)).trans h₀, (hcode (by decide)).trans h₁, ha⟩
  · exact (lampReportOf_eq_some _ _ _).mpr ⟨(hcode (by decide)).trans h₂, (hcode (by decide)).trans h₃, hb⟩
  · exact (tempClassOf_eq_some _ _).mpr ((hcode (by decide)).trans h₄)

theorem eq_ofNat_of_toNat {c : BitVec 4} {n : Nat} (h : c.toNat = n) : c = BitVec.ofNat 4 n := by
  subst h; simp

/-- A reply with a good checksum is built from the fields it spells. -/
theorem replyBits_of_spells {w : BitVec 24} (hc : codeAt w 5 = replyChecksum addr w) (hr : Spells w r) :
    replyBits addr r = w := by
  obtain ⟨ha, hb, hcls⟩ := hr
  obtain ⟨h₀, h₁, -⟩ := (lampReportOf_eq_some _ _ _).mp ha
  obtain ⟨h₂, h₃, -⟩ := (lampReportOf_eq_some _ _ _).mp hb
  have h₄ := (tempClassOf_eq_some _ _).mp hcls
  have h₅ : replyCode w 5 = BitVec.ofNat 4 (codeSum addr r) := by
    refine BitVec.eq_of_toNat_eq ?_
    rw [replyCode_toNat w le_rfl, hc, replyChecksum, h₀, h₁, h₂, h₃, h₄, BitVec.toNat_ofNat]
    rfl
  rw [replyBits_eq, ← eq_ofNat_of_toNat h₀, ← eq_ofNat_of_toNat h₁, ← eq_ofNat_of_toNat h₂, ← eq_ofNat_of_toNat h₃,
    ← eq_ofNat_of_toNat h₄, ← h₅, replyWord_replyCode]

/-- A reply good at one address is a miss at every other, their checksums being different (R125). -/
theorem judgeReply_elsewhere {w : BitVec 24} {other : Nat} (h : judgeReply addr w = .good r)
    (ho : other % 16 ≠ addr % 16) : ∃ k, judgeReply other w = .miss k := by
  cases hj : judgeReply other w with
  | miss k => exact ⟨k, rfl⟩
  | good g =>
    have hsame := (checksum_of_good h).symm.trans (checksum_of_good hj)
    rw [replyChecksum_eq, replyChecksum_eq] at hsame
    omega

end

/-- A formed reply with a good checksum is good, with sound fields, and built from them. -/
theorem judgeReply_of_formed {addr : Nat} {w : BitVec 24} (h : w ≠ BitVec.allOnes 24)
    (hc : codeAt w 5 = replyChecksum addr w) (hf : Formed w) : ∃ r, judgeReply addr w = .good r ∧ reportSound r.a ∧
      reportSound r.b ∧ r.a.level = codeAt w 1 ∧ r.b.level = codeAt w 3 ∧ replyBits addr r = w := by
  obtain ⟨r, hr⟩ := (formed_iff w).mp hf
  have ⟨hreportA, hreportB, _⟩ := hr
  obtain ⟨-, ha, hsa⟩ := (lampReportOf_eq_some _ _ _).mp hreportA
  obtain ⟨-, hb, hsb⟩ := (lampReportOf_eq_some _ _ _).mp hreportB
  rw [replyCode_toNat w (by decide)] at ha hb
  exact ⟨r, judgeReply_of_spells h hc hr, hsa, hsb, ha.symm, hb.symm, replyBits_of_spells hc hr⟩

theorem eq_allOnes_iff (w : BitVec 24) : w = BitVec.allOnes 24 ↔ w.toNat = 2 ^ 24 - 1 :=
  ⟨fun h => h ▸ rfl, fun h => BitVec.eq_of_toNat_eq h⟩

/-- Settles O40: the exchange phase by phase, the judgement row by row. -/
theorem exchangesAreDrivenAndJudged : Obligations.ExchangesAreDrivenAndJudged := by
  unfold Obligations.ExchangesAreDrivenAndJudged
  refine ⟨fun v l => ?_, outputs_of_none rfl, fun c s t h ht hheld k => outputs_of_gone_into_reset h ht hheld k,
    fun addr w => ?_, fun addr r ha hb => ?_⟩
  · exact ⟨exchange_length v, fun k => exchange_command v, fun k => exchange_reply v, fun k => exchange_gap v,
      fun hv => ⟨fun k => outputs_of_visit hv, fun k => outputs_after_visit hv⟩, outputs_of_none⟩
  · simp only [ne_eq, ← eq_allOnes_iff]
    refine ⟨judgeReply_of_silent, fun h hc => ?_, fun h hc hf => ?_, fun h hc hf => ?_⟩
    · exact judgeReply_of_badChecksum h (by rwa [replyChecksum_eq])
    · exact judgeReply_of_malformed h (by rwa [replyChecksum_eq]) hf
    · exact judgeReply_of_formed h (by rwa [replyChecksum_eq]) hf
  · have hgood := judgeReply_replyBits addr ha hb
    exact ⟨hgood, fun other => judgeReply_elsewhere hgood⟩

end Sys2Proof.Machine
end

section
/-! The end of a visit: misses counted up to LOST, good replies taken in order, and what each leaves of the ballast, its
lamps and the urgent list (O41). -/

namespace Sys2Proof.Machine

/-! ### The judgement of the reply names the row (R125, log 4) -/

section
variable {s : State} {v : Visit}

theorem visitJudged_of_visit (hv : s.link.visit = some v) (w : BitVec 24) :
    visitJudged s w = some (v, judgeReply v.ballast w) := by
  simp [visitJudged, hv]

theorem exec_ballastMiss (h : s.hold.held = false) (hv : s.link.visit = some v) (w : BitVec 24) :
    (∀ r, judgeReply v.ballast w = .good r → exec (.ballastMiss w) s = .next s) ∧
      ∀ k, judgeReply v.ballast w = .miss k → exec (.ballastMiss w) s = .next (missedReply s v) := by
  have he : exec (.ballastMiss w) s = execBallastMiss w s := rfl
  simp only [he, execBallastMiss, outsideReset_of_run _ h, visitJudged_of_visit hv]
  exact ⟨fun r hr => by rw [hr], fun k hk => by rw [hk]⟩

theorem exec_ballastGoodReply (h : s.hold.held = false) (hv : s.link.visit = some v) (w : BitVec 24) :
    (∀ k, judgeReply v.ballast w = .miss k → exec (.ballastGoodReply w) s = .next s) ∧
      ∀ r, judgeReply v.ballast w = .good r → exec (.ballastGoodReply w) s = .next (goodReply s v r) := by
  have he : exec (.ballastGoodReply w) s = execBallastGoodReply w s := rfl
  simp only [he, execBallastGoodReply, outsideReset_of_run _ h, visitJudged_of_visit hv]
  exact ⟨fun k hk => by rw [hk], fun r hr => by rw [hr]⟩

end

/-! ### Readback after one more finding (R117, R133, R134) -/

theorem completeReadback_eq_tableBuilt (s : State) (fs : List (Option BallastReply)) :
    completeReadback s fs = tableBuilt s fs := rfl

theorem advanceReadback_of_next {s : State} {fs : List (Option BallastReply)} (f : Option BallastReply)
    (h : fs.length + 1 < s.link.count) : advanceReadback s (fs ++ [f]) =
      beginVisit (s.setLink { s.link with phase := .readback (fs ++ [f]) }) (fs.length + 2) := by
  simp [advanceReadback, h]

theorem advanceReadback_of_last {s : State} {fs : List (Option BallastReply)} (f : Option BallastReply)
    (h : s.link.count ≤ fs.length + 1) : advanceReadback s (fs ++ [f]) = tableBuilt s (fs ++ [f]) := by
  simp [advanceReadback, Nat.not_lt.mpr h, completeReadback_eq_tableBuilt]

/-! ### A visit that ends with a miss (R104, R131, R133) -/

/-- The visit of `v` has ended and its miss is counted. -/
def missCounted (s : State) (v : Visit) : State :=
  (endVisit s).setLink
    { (endVisit s).link.mapBallast v.ballast BallastRec.missed with misses := bump16 (endVisit s).link.misses }

section
variable {s : State} {v : Visit}

/-- After readback a miss fails the lamps of the ballast that it has lost, and of no other. -/
theorem missedReply_of_running (hp : s.link.phase = .running) : missedReply s v = lampEvent
    (if ballastLost (missCounted s v) v.ballast && !ballastLost s v.ballast then
      failBallast (missCounted s v) v.ballast .ballastLost else missCounted s v) := by
  have hc : (missCounted s v).link.phase = .running := hp
  unfold missCounted at hc ⊢
  simp only [missedReply, hc]

/-- In readback a miss that has not lost the ballast has it visited again. -/
theorem missedReply_of_readback {fs : List (Option BallastReply)} (hp : s.link.phase = .readback fs) :
    missedReply s v = if ballastLost (missCounted s v) v.ballast then advanceReadback (missCounted s v) (fs ++ [none])
      else beginVisit (missCounted s v) v.ballast := by
  have hc : (missCounted s v).link.phase = .readback fs := hp
  unfold missCounted at hc ⊢
  simp only [missedReply, hc]

end

/-! ### A visit that ends with a good reply (R103, R130, R133) -/

/-- The visit of `v` has ended and its ballast is PRESENT, with no miss and the class reported. -/
def visitAnswered (s : State) (v : Visit) (cls : TempClass) : State :=
  (endVisit s).setLink ((endVisit s).link.mapBallast v.ballast (BallastRec.answered cls))

section
variable {s : State} {v : Visit} {r : BallastReply}

theorem goodReply_of_running (hp : s.link.phase = .running) :
    goodReply s v r = lampEvent (replyEvent (visitAnswered s v r.cls) v.ballast r) := by
  have hc : (visitAnswered s v r.cls).link.phase = .running := hp
  unfold visitAnswered at hc ⊢
  simp only [goodReply, hc]

theorem goodReply_of_readback {fs : List (Option BallastReply)} (hp : s.link.phase = .readback fs) :
    goodReply s v r = advanceReadback (visitAnswered s v r.cls) (fs ++ [some r]) := by
  have hc : (visitAnswered s v r.cls).link.phase = .readback fs := hp
  unfold visitAnswered at hc ⊢
  simp only [goodReply, hc]

end

/-! ### The lamps a ballast fails (R102–R104) -/

theorem failsWithBallast_iff (b : Nat) (l : Lamp) : failsWithBallast b l = true ↔
    (l.index + 1) / 2 = b ∧ l.fitted = true ∧ l.state ≠ .failed ∧ l.state ≠ .locked := by
  change _ ↔ ballastOf l.index = b ∧ _
  simp only [failsWithBallast, Lamp.outOfService, Bool.and_eq_true, Bool.not_eq_true', Bool.or_eq_false_iff,
    decide_eq_true_eq, decide_eq_false_iff_not, and_assoc, ne_eq]

theorem failBallast_of_none {s : State} {b : Nat} (cause : FailCause)
    (h : ∀ l ∈ s.seq.lamps, failsWithBallast b l = false) : failBallast s b cause = s := by
  rw [failBallast, if_neg (by simpa using h)]

theorem failBallast_of_some {s : State} {b : Nat} (cause : FailCause)
    (h : ∃ l ∈ s.seq.lamps, failsWithBallast b l = true) :
    failBallast s b cause = requestUrgent (mapLamps s (failsWithBallast b) (Lamp.fail cause)) b := by
  rw [failBallast, if_pos (by simpa using h)]

/-! ### The lamp a status moves (R101, R102, R118) -/

/-- A lamp's record once a status has been taken, by the table of the mode. -/
def statusTaken (s : State) (l : Lamp) (st : LampStatus) : Lamp :=
  if s.ctl.mode = .failsafe then takeStatusFailsafe l st else takeStatus s.seq.level l st

theorem statusEvent_of_none {s : State} {i : Nat} (st : LampStatus) (h : lampAt s i = none) :
    statusEvent s i st = s := by
  simp only [statusEvent, h]

section
variable {s : State} {i : Nat} {l : Lamp}

theorem statusEvent_of_unfitted (st : LampStatus) (hl : lampAt s i = some l) (hf : l.fitted = false) :
    statusEvent s i st = s := by
  simp [statusEvent, hl, hf]

theorem statusEvent_of_fitted (st : LampStatus) (hl : lampAt s i = some l) (hf : l.fitted = true) :
    statusEvent s i st = if (statusTaken s l st).state = .failed ∧ l.state ≠ .failed then
      requestUrgent (mapLamp s i fun _ => statusTaken s l st) (ballastOf i)
      else mapLamp s i fun _ => statusTaken s l st := by
  have hs : statusTaken s l st =
      if inFailsafe s then takeStatusFailsafe l st else takeStatus s.seq.level l st := by
    simp [statusTaken, inFailsafe]
  simp only [statusEvent, hl, hf, if_true, hs]

end

/-! ### The statement, part by part -/

theorem ballastMiss_taken (w : BitVec 24) {s : State} {v : Visit} (h : s.hold.held = false)
    (hv : s.link.visit = some v) :
    (∀ r, judgeReply v.ballast w = .good r → exec (.ballastMiss w) s = .next s) ∧
    (∀ k, judgeReply v.ballast w = .miss k →
      (s.link.phase = .running → ballastLost s v.ballast = true ∨ ballastLost (missCounted s v) v.ballast = false →
        exec (.ballastMiss w) s = .next (lampEvent (missCounted s v))) ∧
      (s.link.phase = .running → ballastLost s v.ballast = false → ballastLost (missCounted s v) v.ballast = true →
        exec (.ballastMiss w) s = .next (lampEvent (failBallast (missCounted s v) v.ballast .ballastLost))) ∧
      (∀ fs, s.link.phase = .readback fs → ballastLost (missCounted s v) v.ballast = false →
        exec (.ballastMiss w) s = .next (beginVisit (missCounted s v) v.ballast)) ∧
      (∀ fs, s.link.phase = .readback fs → ballastLost (missCounted s v) v.ballast = true →
        exec (.ballastMiss w) s = .next (advanceReadback (missCounted s v) (fs ++ [none])))) := by
  obtain ⟨hgood, hmiss⟩ := exec_ballastMiss h hv w
  refine ⟨hgood, fun k hk => ⟨fun hp hno => ?_, fun hp hwas hlost => ?_, fun fs hp hlost => ?_, fun fs hp hlost => ?_⟩⟩
  · rw [hmiss k hk, missedReply_of_running hp, if_neg]
    rcases hno with hwas | hlost
    · simp [hwas]
    · simp [hlost]
  · rw [hmiss k hk, missedReply_of_running hp, if_pos (by simp [hwas, hlost])]
  · rw [hmiss k hk, missedReply_of_readback hp, if_neg (by simp [hlost])]
  · rw [hmiss k hk, missedReply_of_readback hp, if_pos hlost]

theorem ballastGoodReply_taken (w : BitVec 24) {s : State} {v : Visit} (h : s.hold.held = false)
    (hv : s.link.visit = some v) :
    (∀ k, judgeReply v.ballast w = .miss k → exec (.ballastGoodReply w) s = .next s) ∧
    (∀ r, judgeReply v.ballast w = .good r →
      (s.link.phase = .running → exec (.ballastGoodReply w) s =
        .next (lampEvent (replyEvent (visitAnswered s v r.cls) v.ballast r))) ∧
      (∀ fs, s.link.phase = .readback fs → exec (.ballastGoodReply w) s =
        .next (advanceReadback (visitAnswered s v r.cls) (fs ++ [some r])))) := by
  obtain ⟨hmiss, hgood⟩ := exec_ballastGoodReply h hv w
  refine ⟨hmiss, fun r hr => ⟨fun hp => ?_, fun fs hp => ?_⟩⟩
  · rw [hgood r hr, goodReply_of_running hp]
  · rw [hgood r hr, goodReply_of_readback hp]

/-- Settles O41: by the phase of the link, and of a miss by whether it loses the ballast. -/
theorem repliesAndMissesAreTakenInOrder : Obligations.RepliesAndMissesAreTakenInOrder := by
  unfold Obligations.RepliesAndMissesAreTakenInOrder
  refine ⟨fun w s v h hv => ?_, fun w s v h hv => ?_, fun s b cause => ⟨fun hno => ?_, fun hsome => ?_⟩,
    fun s i st => ⟨statusEvent_of_none st, fun l hl => ⟨statusEvent_of_unfitted st hl, fun hf => ?_⟩⟩,
    fun s b => ⟨fun hb hl => ?_, fun hno => ?_⟩⟩
  · obtain ⟨hgood, hmiss⟩ := ballastMiss_taken w h hv
    refine ⟨hgood, fun k hk => ?_⟩
    obtain ⟨hkeeps, hloses, hagain, hgone⟩ := hmiss k hk
    refine ⟨hkeeps, hloses, hagain, fun fs hp hlost hn => ?_, fun fs hp hlost hn => ?_⟩
    · exact (hgone fs hp hlost).trans (congrArg _ (advanceReadback_of_next none hn))
    · exact (hgone fs hp hlost).trans (congrArg _ (advanceReadback_of_last none hn))
  · obtain ⟨hmiss, hgood⟩ := ballastGoodReply_taken w h hv
    refine ⟨hmiss, fun r hr => ?_⟩
    obtain ⟨hrunning, hreadback⟩ := hgood r hr
    refine ⟨hrunning, fun fs hp hn => ?_, fun fs hp hn => ?_⟩
    · exact (hreadback fs hp).trans (congrArg _ (advanceReadback_of_next (some r) hn))
    · exact (hreadback fs hp).trans (congrArg _ (advanceReadback_of_last (some r) hn))
  · refine failBallast_of_none cause fun l hl => ?_
    rw [← Bool.not_eq_true, failsWithBallast_iff]
    rintro ⟨hb, hf, hfailed, hlocked⟩
    exact (hno l hl hb hf).elim hfailed hlocked
  · simp only [← failsWithBallast_iff] at hsome ⊢
    exact failBallast_of_some cause hsome
  · have he := statusEvent_of_fitted st hl hf
    refine ⟨fun hwas hg => he.trans (if_pos ⟨hg, hwas⟩), fun hno => he.trans (if_neg ?_)⟩
    exact fun hboth => hno.elim hboth.2 (· hboth.1)
  · rw [requestUrgent_eq, if_pos ⟨hb, hl⟩]
  · rw [requestUrgent_eq, if_neg]
    exact fun hboth => hno.elim (Nat.not_lt.mpr hboth.1) hboth.2

end Sys2Proof.Machine
end

section
/-! A scan or a poll cycle that falls due begins or waits, and a free link takes the next visit (O43). -/

namespace Sys2Proof.Machine

/-! ### A scan falls due (R137) -/

theorem exec_scanStart {s : State} (h : s.hold.held = false) (ht : s.scn.timer.isSome = true) :
    exec .scanStart s = .next (scanFallsDue s) :=
  congrArg Host.Outcome.next ((outsideReset_of_run _ h).trans (if_pos ht))

theorem scanFallsDue_of_none {s : State} (h : s.scn.scan = none) :
    scanFallsDue s = s.setScn { s.scn with scan := some 0, timer := some 0 } := by
  unfold scanFallsDue; rw [h]

theorem scanFallsDue_of_some {s : State} {n : Nat} (h : s.scn.scan = some n) :
    scanFallsDue s = s.setScn { s.scn with scanDue := true } := by
  unfold scanFallsDue; rw [h]

/-! ### The next visit of a free link (R128, R129) -/

/-- A link between two cycles begins the one that is due (R128). -/
def Link.opened (l : Link) : Link := if !l.cycleRunning && l.cycleDue then l.beginCycle else l

theorem Link.opened_keeps (l : Link) : l.opened.urgent = l.urgent ∧ l.opened.count = l.count := by
  unfold Link.opened; split <;> exact ⟨rfl, rfl⟩

theorem Link.opened_of_begins {l : Link} (hr : l.cycleRunning = false) (hd : l.cycleDue = true) :
    l.opened = l.beginCycle := by
  simp [Link.opened, hr, hd]

theorem Link.opened_of_stays {l : Link} (h : l.cycleRunning = true ∨ l.cycleDue = false) : l.opened = l := by
  rcases h with h | h <;> simp [Link.opened, h]

/-- The visit of ballast `b` is read from the lamp table alone. -/
theorem visitOf_congr {s u : State} (h : u.seq = s.seq) (b : Nat) : visitOf u b = visitOf s b := by
  simp [visitOf, slotHalf, lampAt, h]

/-- A link that does not run, or has a visit in flight, is left alone. -/
theorem pump_of_busy {s : State} (h : s.link.phase ≠ .running ∨ s.link.visit.isSome = true) : pump s = s := by
  refine if_neg fun hfree => h.elim (fun hphase => hphase hfree.1) fun hvisit => ?_
  rw [hfree.2] at hvisit
  exact Bool.noConfusion hvisit

/-- The walk of the link moves no slot. -/
theorem visitOf_pump (s : State) (b : Nat) : visitOf (pump s) b = visitOf s b := visitOf_congr (by simp) b

/-- The walk of the link once a cycle that is due between two has begun. -/
def pumpOpened (s : State) : State :=
  match s.link.urgent with
  | b :: rest => beginVisit (s.setLink { s.link with urgent := rest }) b
  | [] =>
    if s.link.cycleRunning then
      if s.link.cursor ≤ s.link.count then visitCursor s
      else if s.link.cycleDue then visitCursor (s.setLink s.link.beginCycle)
      else s.setLink { s.link with cycleRunning := false }
    else s

theorem pumpOpened_of_urgent {s : State} {b : Nat} {rest : List Nat} (hu : s.link.urgent = b :: rest) :
    pumpOpened s = beginVisit (s.setLink { s.link with urgent := rest }) b := by
  unfold pumpOpened; rw [hu]

theorem pumpOpened_of_none {s : State} (hu : s.link.urgent = []) : pumpOpened s =
    if s.link.cycleRunning then
      if s.link.cursor ≤ s.link.count then visitCursor s
      else if s.link.cycleDue then visitCursor (s.setLink s.link.beginCycle)
      else s.setLink { s.link with cycleRunning := false }
    else s := by
  unfold pumpOpened; rw [hu]

section
variable {s : State} (hp : s.link.phase = .running) (hv : s.link.visit = none)
include hp hv

theorem pump_of_free : pump s = pumpOpened (s.setLink s.link.opened) := by
  refine (if_pos ⟨hp, hv⟩).trans (congrArg pumpOpened (?_ : _ = s.setLink s.link.opened))
  unfold Link.opened
  split <;> rfl

/-- The first of the urgent list is visited, and leaves it. -/
theorem pump_of_urgent {b : Nat} {rest : List Nat} (hu : s.link.urgent = b :: rest) :
    pump s = s.setLink { s.link.opened with visit := some (visitOf s b), urgent := rest } := by
  rw [pump_of_free hp hv]
  exact pumpOpened_of_urgent (s := s.setLink s.link.opened) (s.link.opened_keeps.1.trans hu)

/-- With no urgent visit the ballast at the cursor is visited, and the cursor moves on. -/
theorem pump_of_cursor (hu : s.link.urgent = []) (hr : s.link.opened.cycleRunning = true)
    (hc : s.link.opened.cursor ≤ s.link.count) : pump s = s.setLink { s.link.opened with
      visit := some (visitOf s s.link.opened.cursor), cursor := s.link.opened.cursor + 1 } := by
  obtain ⟨hurgent, hcount⟩ := s.link.opened_keeps
  rw [pump_of_free hp hv, pumpOpened_of_none (s := s.setLink s.link.opened) (hurgent.trans hu)]
  exact (if_pos hr).trans (if_pos (hc.trans_eq hcount.symm))

/-- Past the highest ballast the cycle ends, or the one that is due begins with ballast 1. -/
theorem pump_of_cycle_over (hu : s.link.urgent = []) (hr : s.link.cycleRunning = true)
    (hc : s.link.count < s.link.cursor) : pump s = s.setLink (if s.link.cycleDue then
      { s.link.beginCycle with visit := some (visitOf s 1), cursor := 2 }
      else { s.link with cycleRunning := false }) := by
  rw [pump_of_free hp hv, Link.opened_of_stays (.inl hr), pumpOpened_of_none (s := s.setLink s.link) hu]
  refine (if_pos hr).trans ((if_neg (Nat.not_le.mpr hc)).trans ?_)
  by_cases hd : s.link.cycleDue = true
  · rw [if_pos hd]; exact if_pos hd
  · rw [if_neg hd]; exact if_neg hd

/-- Between two cycles with none due a link without an urgent visit rests. -/
theorem pump_of_rest (hu : s.link.urgent = []) (hr : s.link.cycleRunning = false) (hd : s.link.cycleDue = false) :
    pump s = s := by
  rw [pump_of_free hp hv, Link.opened_of_stays (.inr hd), pumpOpened_of_none (s := s.setLink s.link) hu]
  exact if_neg (by simp [hr])

end

/-! ### A poll cycle falls due (R128) -/

theorem exec_pollCycleDue {s : State} (h : s.hold.held = false) (hp : s.link.phase = .running) :
    exec .pollCycleDue s = .next (pump (s.setLink { s.link with cycleDue := true })) :=
  congrArg Host.Outcome.next ((outsideReset_of_run _ h).trans (if_pos (by simp [linkRuns, hp])))

/-- Settles O43: the scan by whether one is in progress, the cycle and the lamp event by how the link stands. -/
theorem scansAndPollCyclesBegin : Obligations.ScansAndPollCyclesBegin := by
  unfold Obligations.ScansAndPollCyclesBegin
  refine ⟨fun s h ht => ⟨fun hn => ?_, fun n hn => ?_⟩, fun s h hp => ?_, fun s b => ?_, fun s => ?_⟩
  · rw [exec_scanStart h ht, scanFallsDue_of_none hn]
  · rw [exec_scanStart h ht, scanFallsDue_of_some hn]
  · rw [exec_pollCycleDue h hp]
    refine ⟨fun hv => ?_, fun hv hr hu hc => ?_, fun b rest hv hr hu => ?_⟩
    · exact congrArg Host.Outcome.next (pump_of_busy (.inr hv))
    · have hopened := Link.opened_of_begins (l := { s.link with cycleDue := true }) hr rfl
      rw [pump_of_cursor (s := s.setLink { s.link with cycleDue := true }) hp hv hu] <;>
        simp only [State.setLink_link, hopened]
      · rfl
      · rfl
      · exact hc
    · have hopened := Link.opened_of_begins (l := { s.link with cycleDue := true }) hr rfl
      rw [pump_of_urgent (s := s.setLink { s.link with cycleDue := true }) hp hv hu]
      simp only [State.setLink_link, hopened]
      rfl
  · unfold visitOf slotHalf lampAt
    simp only
    cases s.seq.lamps.find? fun l => l.index == 2 * b - 1 <;>
      cases s.seq.lamps.find? fun l => l.index == 2 * b <;> rfl
  · have hlink : (judgeLamps (refreshSetpoint s)).link = s.link := by simp
    unfold lampEvent
    rw [← hlink]
    generalize judgeLamps (refreshSetpoint s) = u
    simp only [visitOf_pump]
    refine ⟨fun hbusy => by rw [pump_of_busy hbusy], fun hp hv => ⟨fun b rest hu => ⟨fun hstays => ?_, fun hr hd => ?_⟩,
      fun hu => ⟨fun hr hc => ?_, fun hr hc hd => ?_, fun hr hc hd => ?_, fun hr hd => ?_, fun hr hd hc => ?_⟩⟩⟩
    · rw [pump_of_urgent hp hv hu, Link.opened_of_stays hstays]; rfl
    · rw [pump_of_urgent hp hv hu, Link.opened_of_begins hr hd]; rfl
    · have hopened := Link.opened_of_stays (l := u.link) (.inl hr)
      rw [pump_of_cursor hp hv hu (by rwa [hopened]) (by rwa [hopened]), hopened]; rfl
    · rw [pump_of_cycle_over hp hv hu hr hc, if_neg (by simp [hd])]; rfl
    · rw [pump_of_cycle_over hp hv hu hr hc, if_pos hd]; rfl
    · rw [pump_of_rest hp hv hu hr hd]
    · have hopened := Link.opened_of_begins hr hd
      rw [pump_of_cursor hp hv hu (by rw [hopened]; rfl) (by rwa [hopened]), hopened]; rfl

end Sys2Proof.Machine
end

section
/-! Samples judged row by row, and what a completion makes of them, of the scan and of the own readings (O48). -/

namespace Sys2Proof.Machine

/-! ### One judged sample (R141, R142) -/

theorem enterSample_eq (w : List Nat) (raw : Nat) :
    enterSample w raw = if w.length < 4 then w ++ [raw] else w.drop 1 ++ [raw] := by
  rw [enterSample, List.drop_one]

section
variable {x : Input} (raw : Nat)

theorem sample_of_valid (h : x.fault = false) : x.sample true raw =
    { x with window := enterSample x.window raw, validRun := min (x.validRun + 1) 20, outRun := 0 } := by
  simp [Input.sample, h]

theorem sample_of_out (h : x.fault = false) (hr : x.outRun < 3) :
    x.sample false raw = { x with outRun := x.outRun + 1, validRun := 0 } := by
  simp [Input.sample, h, hr]

/-- The fourth sample out of range in a row takes the input into FAULT. -/
theorem sample_of_fourth_out (h : x.fault = false) (hr : 3 ≤ x.outRun) : x.sample false raw = ⟨[], true, 0, 0⟩ := by
  simp [Input.sample, h, Nat.not_lt.mpr hr]

theorem sample_of_fault_valid (h : x.fault = true) (hr : x.validRun < 19) : x.sample true raw =
    { x with window := enterSample x.window raw, validRun := x.validRun + 1, outRun := 0 } := by
  simp [Input.sample, h, Nat.not_le.mpr hr]

/-- The twentieth valid sample in a row takes it out of FAULT. -/
theorem sample_of_twentieth_valid (h : x.fault = true) (hr : 19 ≤ x.validRun) :
    x.sample true raw = ⟨enterSample x.window raw, false, 0, 0⟩ := by
  simp [Input.sample, h, hr]

theorem sample_of_fault_out (h : x.fault = true) : x.sample false raw = { x with validRun := 0 } := by
  simp [Input.sample, h]

end

/-! ### The samples of a scan (R138, R146) -/

theorem sampleTaken_iff (s : State) (i : Nat) : sampleTaken s i = true ↔
    (i < min s.ldr.cfg.nMod 6 ∨ (i = 6 ∧ s.ldr.straps.flowSrc = true) ∨ (i = 7 ∧ s.ldr.straps.uvtSrc = true)) ∧
      ¬ (i < 6 ∧ (s.wip.state = .strokeOut ∨ s.wip.state = .strokeBack)) := by
  rw [← mem_convertedInputs, ← inStroke_iff, sampleTaken, Bool.and_eq_true, List.contains_iff_mem, Bool.not_eq_true',
    ← Bool.not_eq_true, blanked, Bool.and_eq_true, decide_eq_true_eq]

theorem rawValid_eq (i raw : Nat) :
    rawValid i raw = decide ((if i < 6 then 20 else 180) ≤ raw ∧ raw ≤ 1003) := (Bool.decide_and _ _).symm

/-! ### What each step of a completion leaves of the scanner -/

theorem stepFouling_scn (s : State) (before : List Input) (raw : List (BitVec 10)) :
    (stepFouling s before raw).scn = { s.scn with
      refs := (foulSteps s before raw).map (·.1)
      foulRequests := raise16 s.scn.foulRequests ((foulSteps s before raw).countP (·.2)) } := by
  unfold stepFouling
  simp only
  split <;> simp

theorem handFlow_scn (s : State) (o : Option Offer) :
    (handFlow s o).scn = { s.scn with ownFlow := o.or s.scn.ownFlow } := by
  cases o with
  | none => rfl
  | some x => simp [handFlow, offerFlow]

theorem handUvt_scn (s : State) (o : Option Offer) :
    (handUvt s o).scn = { s.scn with ownUvt := o.or s.scn.ownUvt } := by
  cases o with
  | none => rfl
  | some x => simp [handUvt, offerUvt]

theorem endScan_scn (s : State) : (endScan s).scn = { s.scn with
    scan := if s.scn.scanDue then some 0 else none, timer := if s.scn.scanDue then some 0 else s.scn.timer
    scanDue := false } := by
  unfold endScan
  split <;> rename_i hd <;> simp [hd]

/-- The part once the samples are judged, the estimates learned and F_eff published. -/
def published (s : State) (raw : List (BitVec 10)) : State := stepPublish (stepLearn (stepSamples s raw))

/-- The own flow that a completion hands on is read from the inputs it leaves. -/
theorem flowOffer_congr {s t : State} (hldr : t.ldr = s.ldr) (hinputs : t.scn.inputs = s.scn.inputs) (fdir : Bool) :
    flowOffer t fdir = flowOffer s fdir := by
  unfold flowOffer inputAt; rw [hldr, hinputs]

theorem uvtOffer_congr {s t : State} (hldr : t.ldr = s.ldr) (hinputs : t.scn.inputs = s.scn.inputs) :
    uvtOffer t = uvtOffer s := by
  unfold uvtOffer inputAt; rw [hldr, hinputs]

section
variable (s : State) (raw : List (BitVec 10)) (fdir : Bool)

theorem stepSamples_scn : (stepSamples s raw).scn = { s.scn with
    inputs := sampledInputs s raw
    sensorFaults := raise16 s.scn.sensorFaults (newFaults s.scn.inputs (sampledInputs s raw)) } := rfl

theorem flowOffer_completeScan :
    flowOffer (scanned s raw) fdir = flowOffer (completeScan s raw fdir) fdir := by
  refine flowOffer_congr (by simp [scanned]) ?_ fdir
  rw [completeScan_inputs, scanned, stepFouling_inputs, stepPublish_scn]
  simp

theorem uvtOffer_completeScan : uvtOffer (flowHanded s raw fdir) = uvtOffer (completeScan s raw fdir) := by
  refine uvtOffer_congr (by simp [flowHanded, scanned]) ?_
  rw [completeScan_inputs, flowHanded, handFlow_inputs, scanned, stepFouling_inputs, stepPublish_scn]
  simp

/-- The scanner after a completion, whole. -/
theorem completeScan_scn : (completeScan s raw fdir).scn = { s.scn with
    inputs := sampledInputs s raw
    sensorFaults := raise16 s.scn.sensorFaults (newFaults s.scn.inputs (sampledInputs s raw))
    fEffBegun := s.scn.fEffBegun || lightSeen (stepLearn (stepSamples s raw))
    refs := (foulSteps (published s raw) s.scn.inputs raw).map (·.1)
    foulRequests := raise16 s.scn.foulRequests ((foulSteps (published s raw) s.scn.inputs raw).countP (·.2))
    ownFlow := (flowOffer (completeScan s raw fdir) fdir).or s.scn.ownFlow
    ownUvt := (uvtOffer (completeScan s raw fdir)).or s.scn.ownUvt
    scan := if s.scn.scanDue then some 0 else none
    timer := if s.scn.scanDue then some 0 else s.scn.timer
    scanDue := false } := by
  have hpublished : (published s raw).scn = { (stepSamples s raw).scn with
      fEffBegun := s.scn.fEffBegun || lightSeen (stepLearn (stepSamples s raw)) } := by
    rw [published, stepPublish_scn, (by simp : (stepLearn (stepSamples s raw)).scn = (stepSamples s raw).scn)]
    rfl
  have hfouling : (scanned s raw).scn = { (published s raw).scn with
      refs := (foulSteps (published s raw) s.scn.inputs raw).map (·.1)
      foulRequests := raise16 (published s raw).scn.foulRequests
        ((foulSteps (published s raw) s.scn.inputs raw).countP (·.2)) } := stepFouling_scn _ _ _
  have hscn (u : State) : (lampEvent u).scn = u.scn := by simp
  conv_lhs => rw [completeScan_eq, hscn, endScan_scn, uvtHanded, handUvt_scn, uvtOffer_completeScan, flowHanded,
    handFlow_scn, flowOffer_completeScan, hfouling, hpublished, stepSamples_scn]

/-! ### F_eff begins (R154) -/

/-- The learning moves no lamp's index and no lamp's state. -/
theorem any_burning_stepLearn (u : State) (m : Nat) : (lampsOf (stepLearn u) m).any Lamp.burning = true ↔
    ∃ l ∈ u.seq.lamps, (l.index + 3) / 4 = m ∧ (l.state = .lit ∨ l.state = .warming) := by
  have hkeeps (l : Lamp) : (if moduleOf l.index ∈ modules u then taught u l else l).index = l.index ∧
      (if moduleOf l.index ∈ modules u then taught u l else l).state = l.state := by
    split <;> exact ⟨rfl, rfl⟩
  have hlamps : (stepLearn u).seq.lamps = lampsTaught u (modules u) := by rw [stepLearn_eq]; rfl
  rw [lampsOf, hlamps, lampsTaught]
  simp only [List.any_eq_true, List.mem_filter, List.mem_map, exists_exists_and_eq_and, beq_iff_eq, burning_iff,
    hkeeps, and_assoc]
  exact Iff.rfl

theorem lightSeen_iff : lightSeen (stepLearn (stepSamples s raw)) = true ↔ ∃ m, 1 ≤ m ∧ m ≤ s.ldr.cfg.nMod ∧
    (inputAt (completeScan s raw fdir) (m - 1)).window ≠ [] ∧
    ∃ l ∈ s.seq.lamps, (l.index + 3) / 4 = m ∧ (l.state = .lit ∨ l.state = .warming) := by
  have hldr : (stepLearn (stepSamples s raw)).ldr = s.ldr := by simp
  have hseq : (stepSamples s raw).seq = s.seq := by simp
  have hinput (i : Nat) : inputAt (stepLearn (stepSamples s raw)) i = inputAt (completeScan s raw fdir) i := by
    unfold inputAt; rw [completeScan_inputs]; simp
  unfold lightSeen
  rw [List.any_eq_true]
  simp only [mem_modules, Bool.and_eq_true, decide_eq_true_eq, any_burning_stepLearn, hldr, hseq, hinput, and_assoc]
  exact exists_congr fun m => and_congr_right fun _ => and_congr_right fun _ => and_comm

/-! ### The own readings handed on (R74, R78, R148) -/

/-- What is held of the flow, of the transmittance and of the hold condition, at the end of a completion. -/
theorem completeScan_pln :
    (completeScan s raw fdir).pln.flowHeld = (flowHanded s raw fdir).pln.flowHeld ∧
    (completeScan s raw fdir).pln.uvtHeld = (uvtHanded s raw fdir).pln.uvtHeld ∧
    (completeScan s raw fdir).pln.holdCond = (flowHanded s raw fdir).pln.holdCond ∧
    (completeScan s raw fdir).pln.holdTimer = (flowHanded s raw fdir).pln.holdTimer := by
  have huvt (u : State) (o : Option Offer) : (handUvt u o).pln.flowHeld = u.pln.flowHeld ∧
      (handUvt u o).pln.holdCond = u.pln.holdCond ∧ (handUvt u o).pln.holdTimer = u.pln.holdTimer := by
    unfold handUvt; split <;> exact ⟨rfl, rfl, rfl⟩
  have hend : (endScan (uvtHanded s raw fdir)).pln = (uvtHanded s raw fdir).pln := by simp
  obtain ⟨hflow, hsource, hdup, -, huvt', husource, hudup, -, htimer, hcond, -⟩ :=
    lampEvent_pln_keeps (endScan (uvtHanded s raw fdir))
  obtain ⟨hheld, hc, ht⟩ := huvt (flowHanded s raw fdir) (uvtOffer (flowHanded s raw fdir))
  rw [hend] at hflow hsource hdup huvt' husource hudup htimer hcond
  refine ⟨?_, ?_, hcond.trans hc, htimer.trans ht⟩
  · rw [← hheld]
    exact congrArg₂ Prod.mk hflow (congrArg₂ Prod.mk hsource hdup)
  · exact congrArg₂ Prod.mk huvt' (congrArg₂ Prod.mk husource hudup)

theorem scanned_pln : (scanned s raw).pln = s.pln := by simp [scanned]

theorem scanned_ldr : (scanned s raw).ldr = s.ldr := by simp [scanned]

theorem completeScan_ctl : (completeScan s raw fdir).ctl = (flowHanded s raw fdir).ctl := by
  simp [completeScan_eq, uvtHanded]

end

theorem handFlow_uvtHeld (s : State) (o : Option Offer) : (handFlow s o).pln.uvtHeld = s.pln.uvtHeld := by
  unfold handFlow
  split
  · rename_i x
    obtain ⟨-, -, -, huvt, hsource, hdup⟩ := flowChanged_pln_keeps
      (offerFlow (s.setScn { s.scn with ownFlow := some x }) s.ldr.straps.position x.state x.value)
    exact congrArg₂ Prod.mk huvt (congrArg₂ Prod.mk hsource hdup)
  · rfl

theorem handFlow_judged (s : State) (x : Offer) : OfferJudged s.ldr.straps.position (flowStateAfter x.state x.value)
    s.pln.flowHeld (handFlow s (some x)).pln.flowHeld := by
  obtain ⟨hflow, hsource, hdup, -⟩ := flowChanged_pln_keeps
    (offerFlow (s.setScn { s.scn with ownFlow := some x }) s.ldr.straps.position x.state x.value)
  have hheld : (handFlow s (some x)).pln.flowHeld =
      (offerFlow (s.setScn { s.scn with ownFlow := some x }) s.ldr.straps.position x.state x.value).pln.flowHeld :=
    congrArg₂ Prod.mk hflow (congrArg₂ Prod.mk hsource hdup)
  rw [hheld]
  exact offerJudged_judgeOffer _ _ _ _ _

theorem handUvt_judged (s : State) (x : Offer) : OfferJudged (ownSlot s) (uvtStateAfter x.state x.value)
    s.pln.uvtHeld (handUvt s (some x)).pln.uvtHeld := offerJudged_judgeOffer _ _ _ _ _

section
variable {s : State} {raw : List (BitVec 10)} {fdir : Bool}

theorem completeScan_of_no_flow (h : flowOffer (completeScan s raw fdir) fdir = none) :
    (completeScan s raw fdir).scn.ownFlow = s.scn.ownFlow ∧
    (completeScan s raw fdir).pln.flowHeld = s.pln.flowHeld ∧ HoldStays s (completeScan s raw fdir) ∧
    (completeScan s raw fdir).ctl = s.ctl := by
  obtain ⟨hheld, -, hcond, htimer⟩ := completeScan_pln s raw fdir
  have hhanded : flowHanded s raw fdir = scanned s raw := by
    rw [flowHanded, flowOffer_completeScan, h]; rfl
  rw [hhanded, scanned_pln] at hheld hcond htimer
  refine ⟨by rw [completeScan_scn, h]; rfl, hheld, ⟨hcond, htimer⟩, ?_⟩
  rw [completeScan_ctl, hhanded]
  simp [scanned]

theorem completeScan_of_flow {x : Offer} (h : flowOffer (completeScan s raw fdir) fdir = some x) :
    (completeScan s raw fdir).scn.ownFlow = some x ∧ HoldFollows s (completeScan s raw fdir) ∧
    ModeFollows s (completeScan s raw fdir) ∧ OfferJudged s.ldr.straps.position (flowStateAfter x.state x.value)
      s.pln.flowHeld (completeScan s raw fdir).pln.flowHeld := by
  obtain ⟨hheld, -, hcond, htimer⟩ := completeScan_pln s raw fdir
  have hhanded : flowHanded s raw fdir = handFlow (scanned s raw) (some x) := by
    rw [flowHanded, flowOffer_completeScan, h]
  have hflow : (completeScan s raw fdir).pln.flow = (flowHanded s raw fdir).pln.flow := congrArg Prod.fst hheld
  have hldr : (completeScan s raw fdir).ldr = (flowHanded s raw fdir).ldr := by simp [flowHanded, scanned]
  have hholds : HoldFollows s (flowHanded s raw fdir) := by
    rw [hhanded]
    refine flowChanged_holdFollows ?_ ?_ <;> rw [← scanned_pln s raw] <;> rfl
  have hmode : ModeFollows s (flowHanded s raw fdir) := by
    rw [hhanded]
    exact flowChanged_modeFollows (by simp [offerFlow, scanned]) (by simp [offerFlow, scanned])
      (by simp [offerFlow, scanned])
  refine ⟨by rw [completeScan_scn, h]; rfl, ?_, ?_, ?_⟩
  · simpa only [HoldFollows, flowTaken, hcond, htimer, hflow, hldr] using hholds
  · simpa only [ModeFollows, hcond, completeScan_ctl] using hmode
  · have hjudged := handFlow_judged (scanned s raw) x
    rwa [scanned_pln, scanned_ldr, ← hhanded, ← hheld] at hjudged

theorem completeScan_of_no_uvt (h : uvtOffer (completeScan s raw fdir) = none) :
    (completeScan s raw fdir).scn.ownUvt = s.scn.ownUvt ∧
    (completeScan s raw fdir).pln.uvtHeld = s.pln.uvtHeld := by
  obtain ⟨-, hheld, -⟩ := completeScan_pln s raw fdir
  refine ⟨by rw [completeScan_scn, h]; rfl, ?_⟩
  rw [hheld, uvtHanded, uvtOffer_completeScan, h]
  exact (handFlow_uvtHeld _ _).trans (by rw [scanned_pln])

theorem completeScan_of_uvt {x : Offer} (h : uvtOffer (completeScan s raw fdir) = some x) :
    (completeScan s raw fdir).scn.ownUvt = some x ∧ OfferJudged (ownSlot s) (uvtStateAfter x.state x.value)
      s.pln.uvtHeld (completeScan s raw fdir).pln.uvtHeld := by
  obtain ⟨-, hheld, -⟩ := completeScan_pln s raw fdir
  have hslot : ownSlot (flowHanded s raw fdir) = ownSlot s := by simp [ownSlot, flowHanded, scanned]
  have huvt : (flowHanded s raw fdir).pln.uvtHeld = s.pln.uvtHeld :=
    (handFlow_uvtHeld _ _).trans (by rw [scanned_pln])
  have hjudged := handUvt_judged (flowHanded s raw fdir) x
  rw [hslot, huvt] at hjudged
  refine ⟨by rw [completeScan_scn, h]; rfl, ?_⟩
  rwa [hheld, uvtHanded, uvtOffer_completeScan, h]

end

/-! ### The offers of a scan (R148) -/

section
variable {t : State}

theorem flowOffer_of_none (fdir : Bool) (h : t.ldr.straps.flowSrc = false ∨
    ((inputAt t 6).fault = false ∧ (inputAt t 6).window = [])) : flowOffer t fdir = none := by
  rcases h with h | ⟨hf, hw⟩
  · simp [flowOffer, h]
  · simp [flowOffer, hf, flowInputValue, hw]

theorem flowOffer_of_fault (fdir : Bool) (h : t.ldr.straps.flowSrc = true) (hf : (inputAt t 6).fault = true) :
    flowOffer t fdir = some ⟨.fault, 0⟩ := by
  simp [flowOffer, h, hf]

theorem flowOffer_of_value (fdir : Bool) (h : t.ldr.straps.flowSrc = true) (hf : (inputAt t 6).fault = false)
    (hw : (inputAt t 6).window ≠ []) : ∃ v, flowInputValue t.ldr.cfg.qSpan (inputAt t 6) = some v ∧
      flowOffer t fdir = some ⟨if fdir then .reverse else .normal, v⟩ :=
  ⟨_, if_neg hw, by simp [flowOffer, h, hf, flowInputValue, hw]⟩

theorem uvtOffer_of_none (h : t.ldr.straps.uvtSrc = false ∨
    ((inputAt t 7).fault = false ∧ (inputAt t 7).window = [])) : uvtOffer t = none := by
  rcases h with h | ⟨hf, hw⟩
  · simp [uvtOffer, h]
  · simp [uvtOffer, hf, uvtInputValue, hw]

theorem uvtOffer_of_fault (h : t.ldr.straps.uvtSrc = true) (hf : (inputAt t 7).fault = true) :
    uvtOffer t = some ⟨.fault, 0⟩ := by
  simp [uvtOffer, h, hf]

theorem uvtOffer_of_value (h : t.ldr.straps.uvtSrc = true) (hf : (inputAt t 7).fault = false)
    (hw : (inputAt t 7).window ≠ []) :
    ∃ v, uvtInputValue (inputAt t 7) = some v ∧ uvtOffer t = some ⟨.normal, v⟩ :=
  ⟨_, if_neg hw, by simp [uvtOffer, h, hf, uvtInputValue, hw]⟩

end

/-- The own flow as the planner is handed it. -/
theorem flowStateAfter_fdir (fdir : Bool) (v : Nat) :
    flowStateAfter (if fdir then .reverse else .normal) v = if fdir then .reverse else .normal v := by
  cases fdir <;> rfl

/-- The own slot of a bank (R78). -/
theorem ownSlot_of_channel {s : State} (h : s.ldr.straps.channel ≤ 3) :
    ownSlot s = s.ldr.straps.channel * 8 + s.ldr.straps.position - 1 := by
  unfold ownSlot slotOf
  exact if_neg (by omega)

/-- The inputs after a completion, in the words of the statements. -/
theorem sampledInputs_eq (s : State) (raw : List (BitVec 10)) : sampledInputs s raw = s.scn.inputs.mapIdx fun i x =>
    let r := (raw.getD i 0).toNat
    let converted := i < min s.ldr.cfg.nMod 6 ∨ (i = 6 ∧ s.ldr.straps.flowSrc = true) ∨
      (i = 7 ∧ s.ldr.straps.uvtSrc = true)
    let stroke := s.wip.state = .strokeOut ∨ s.wip.state = .strokeBack
    if converted ∧ ¬ (i < 6 ∧ stroke) then
      x.sample (decide ((if i < 6 then 20 else 180) ≤ r ∧ r ≤ 1003)) r else x := by
  unfold sampledInputs
  refine congrArg (List.mapIdx · s.scn.inputs) (funext₂ fun i x => ?_)
  rw [rawValid_eq]
  exact if_congr (sampleTaken_iff s i) rfl rfl

theorem completeScan_onlyChanges (s : State) (raw : List (BitVec 10)) (fdir : Bool) :
    OnlyChanges [.ctl, .trk, .ros, .pln, .seq, .link, .scn, .wip, .bus, .cmd] s (completeScan s raw fdir) := by
  intro b hb
  cases b <;> simp at hb <;> simp [Block.same]

/-- Settles O48: the rows of a sample, then the completion by what its scan hands on. -/
theorem scansJudgeTheirSamples : Obligations.ScansJudgeTheirSamples := by
  unfold Obligations.ScansJudgeTheirSamples
  refine ⟨fun x raw => ?_, fun raw fdir s hr hs => ⟨_, exec_scanComplete raw fdir hr hs, ?_⟩⟩
  · rw [← enterSample_eq]
    exact ⟨sample_of_valid raw, sample_of_out raw, sample_of_fourth_out raw, sample_of_fault_valid raw,
      sample_of_twentieth_valid raw, sample_of_fault_out raw⟩
  have hscn := completeScan_scn s raw fdir
  have hldr : (completeScan s raw fdir).ldr = s.ldr := by simp
  refine ⟨completeScan_onlyChanges s raw fdir, ?_, ?_, ?_, ?_, ?_, fun hd => ?_, fun hd => ?_, fun hno => ?_,
    fun hsrc hf => ?_, fun hsrc hf hw => ?_, fun hno => ?_, ownSlot_of_channel, fun hsrc hf => ?_,
    fun hsrc hf hw => ?_⟩
  · rw [hscn]; exact sampledInputs_eq s raw
  · rw [hscn]; rfl
  · rw [← lightSeen_iff s raw fdir, hscn]
    exact Bool.or_eq_true_iff
  · rw [hscn]
  · rw [hscn]
  · rw [hscn]; exact if_neg (by simp [hd])
  · rw [hscn]; exact if_pos hd
  · exact completeScan_of_no_flow (flowOffer_of_none fdir (by rwa [hldr]))
  · exact completeScan_of_flow (flowOffer_of_fault fdir (by rwa [hldr]) hf)
  · obtain ⟨v, hv, hoffer⟩ := flowOffer_of_value fdir (by rwa [hldr]) hf hw
    have htaken := completeScan_of_flow hoffer
    rw [flowStateAfter_fdir] at htaken
    exact ⟨v, by rwa [hldr] at hv, htaken⟩
  · exact completeScan_of_no_uvt (uvtOffer_of_none (by rwa [hldr]))
  · exact completeScan_of_uvt (uvtOffer_of_fault (by rwa [hldr]) hf)
  · obtain ⟨v, hv, hoffer⟩ := uvtOffer_of_value (by rwa [hldr]) hf hw
    exact ⟨v, hv, completeScan_of_uvt hoffer⟩

end Sys2Proof.Machine
end

section
/-! The fouling references at a completion: counted, taken and judged, and the wipes they ask for (O50). -/

namespace Sys2Proof.Machine

/-! ### The post-stroke count (R152) -/

theorem countPost_of_armed {r : FoulRef} (h : r.armed = true) (entered faultedNow : Bool) :
    countPost entered faultedNow r = { r with
      postCount := if faultedNow then 0 else if entered then min (r.postCount + 1) 4 else r.postCount } := if_pos h

theorem countPost_of_disarmed {r : FoulRef} (h : r.armed = false) (entered faultedNow : Bool) :
    countPost entered faultedNow r = r := if_neg (by simp [h])

/-! ### The reference (R152) -/

/-- The conditions under which a reference is taken. -/
def ReferenceReady (ls : List Lamp) (i : Input) (r : FoulRef) : Prop :=
  r.armed = true ∧ r.postCount = 4 ∧ i.fault = false ∧ (ls.filter fun l => decide (l.state = .lit)) ≠ [] ∧
    ∀ l ∈ ls, l.state ≠ .striking ∧ l.state ≠ .warming

theorem referenceReady_iff (ls : List Lamp) (i : Input) (r : FoulRef) :
    (r.armed && decide (r.postCount = 4) && !i.fault && ls.any Lamp.isLit && !ls.any Lamp.igniting) = true ↔
      ReferenceReady ls i r := by
  have hlit : ls.any Lamp.isLit = true ↔ (ls.filter fun l => decide (l.state = .lit)) ≠ [] := by
    simp [List.filter_eq_nil_iff, Lamp.isLit]
  have hquiet : ls.any Lamp.igniting = false ↔ ∀ l ∈ ls, l.state ≠ .striking ∧ l.state ≠ .warming := by
    simp only [List.any_eq_false, igniting_iff, not_or, ne_eq]
  simp only [ReferenceReady, Bool.and_eq_true, Bool.not_eq_true', decide_eq_true_eq, hlit, hquiet, and_assoc]

section
variable {ls : List Lamp} {i : Input} {r : FoulRef}

theorem takeReference_of_ready (v : Nat) (h : ReferenceReady ls i r) : takeReference ls i (some v) r = { r with
    ratio := some (ratioTo v (litLevelSum ls)), eRef := ls.map (·.e), armed := false, belowRun := 0 } :=
  if_pos ((referenceReady_iff ls i r).mpr h)

theorem takeReference_of_not_ready (v : Nat) (h : ¬ ReferenceReady ls i r) : takeReference ls i (some v) r = r :=
  if_neg (mt (referenceReady_iff ls i r).mp h)

end

/-! ### The ratios (R152, R153) -/

theorem ratioTo_of_pos (v : Nat) {sum : Nat} (h : 1 ≤ sum) : ratioTo v sum = ⟨10 * v, sum - 1⟩ :=
  if_neg (by omega)

theorem belowShare_iff (now ref : Ratio) (threshold : Nat) : belowShare now ref threshold = true ↔
    100 * now.num * (ref.denPred + 1) < threshold * ref.num * (now.denPred + 1) := by
  rw [belowShare, decide_eq_true_eq, Nat.mul_comm now.num 100]

theorem refLevelSum_eq (ls : List Lamp) (eRef : List Nat) : refLevelSum ls eRef =
    sumOf ((ls.zip eRef).map fun p => if p.1.state = .lit then p.1.slot.level * p.2 else 0) := by
  simp only [refLevelSum, Lamp.isLit, decide_eq_true_eq]

/-! ### The judgement (R153) -/

section
variable {threshold v : Nat} {ls : List Lamp} {r : FoulRef} {ref : Ratio}

theorem judgeFouling_of_missing {v : Option Nat} (judged : Bool) (h : r.ratio = none ∨ v = none) :
    judgeFouling threshold ls judged v r = (r, false) := by
  unfold judgeFouling
  rcases h with h | rfl
  · rw [h]
  · cases r.ratio <;> rfl

theorem judgeFouling_of_unjudged {judged : Bool} (href : r.ratio = some ref)
    (h : (judged && ls.any Lamp.isLit) = false) : judgeFouling threshold ls judged (some v) r = (r, false) := by
  unfold judgeFouling
  rw [href]
  exact if_neg (by simp [h])

variable (href : r.ratio = some ref) (hlit : ls.any Lamp.isLit = true)
include href hlit

/-- A judgement with a reference, a value and a lamp LIT. -/
theorem judgeFouling_of_judged : judgeFouling threshold ls true (some v) r =
    if belowShare (ratioTo v (refLevelSum ls r.eRef)) ref threshold then
      if r.belowRun < 49 then ({ r with belowRun := r.belowRun + 1 }, false) else ({ r with belowRun := 0 }, true)
    else ({ r with belowRun := 0 }, false) := by
  unfold judgeFouling
  rw [href]
  exact if_pos (by simp [hlit])

end

/-! ### A claim given up on the way (R160, R167, R183) -/

/-- `w'` is the wiper `w` but for a claim that may have ended: CLAIMING may have fallen back to WANT. -/
def ClaimMayEnd (w w' : Wiper) : Prop :=
  (w.state ≠ .claiming → w' = w) ∧ (w.state = .claiming → w'.state = .want ∨ w'.state = .claiming)

theorem ClaimMayEnd.refl (w : Wiper) : ClaimMayEnd w w := ⟨fun _ => rfl, .inr⟩

theorem ClaimMayEnd.of_eq {w w' : Wiper} (h : w' = w) : ClaimMayEnd w w' := h ▸ .refl w

theorem ClaimMayEnd.trans {u v w : Wiper} (h : ClaimMayEnd u v) (g : ClaimMayEnd v w) : ClaimMayEnd u w := by
  refine ⟨fun hu => ?_, fun hu => ?_⟩
  · have hv := h.1 hu
    rw [← hv] at hu ⊢
    exact g.1 hu
  · rcases h.2 hu with hv | hv
    · exact .inl (by rw [g.1 (by simp [hv]), hv])
    · exact g.2 hv

/-- Once wanted, a wipe stays wanted or claimed. -/
theorem ClaimMayEnd.stays_wanted {w w' : Wiper} (h : ClaimMayEnd w w') (hw : w.state = .want ∨ w.state = .claiming) :
    w'.state = .want ∨ w'.state = .claiming := by
  rcases hw with hw | hw
  · exact .inl (by rw [h.1 (by simp [hw]), hw])
  · exact h.2 hw

theorem claimMayEnd_claimGone (w : Wiper) (t : Nat) : ClaimMayEnd w (w.claimGone t) := by
  refine ⟨w.claimGone_of_ne t, fun hw => ?_⟩
  unfold Wiper.claimGone
  split
  · exact .inl rfl
  · exact .inr hw

theorem claimMayEnd_post (s : State) (b : Body) : ClaimMayEnd s.wip (post s b).wip := by
  have hall (fs : List Frame) (t : State) : ClaimMayEnd t.wip (giveUpAll t fs).wip := by
    unfold giveUpAll
    induction fs generalizing t with
    | nil => exact .refl _
    | cons f fs ih => exact (claimMayEnd_claimGone t.wip f.ticket).trans (ih (giveUp t f))
  exact hall _ (s.setBus ({ s.bus with nextTicket := s.bus.nextTicket + 1 }.post (ownFrame s b)).bus)

theorem claimMayEnd_releaseClaim (s : State) : ClaimMayEnd s.wip (releaseClaim s).wip := by
  refine ⟨fun hw => ?_, fun hw => .inl ?_⟩ <;> unfold releaseClaim
  · rw [if_neg hw]
  · rw [if_pos hw]; rfl

theorem claimMayEnd_enterIsolated (s : State) : ClaimMayEnd s.wip (enterIsolated s).wip := by
  unfold enterIsolated
  simp only [lampEvent_keeps, judgeRoster_keeps, State.setPln_wip]
  refine .trans ?_ (claimMayEnd_releaseClaim _)
  simp only [State.setRos_wip, setMode_keeps]
  refine .trans ?_ (claimMayEnd_post _ _)
  exact .of_eq (by simp)

theorem claimMayEnd_settle (s : State) : ClaimMayEnd s.wip (settle s).wip :=
  settle_cases (P := fun t => ClaimMayEnd s.wip t.wip) s (fun _ => .of_eq (by simp))
    (fun _ => .trans (.of_eq (by simp)) (claimMayEnd_enterIsolated _)) (fun _ => .of_eq (by simp))
    (fun _ => .of_eq (by simp))

/-- A flow handed on moves of the wiper a claim alone. -/
theorem claimMayEnd_handFlow (s : State) (o : Option Offer) : ClaimMayEnd s.wip (handFlow s o).wip := by
  unfold handFlow
  split
  · unfold flowChanged
    refine followHold_cases (P := fun t => ClaimMayEnd s.wip t.wip) _ (.of_eq (by simp [offerFlow])) fun m => ?_
    exact .trans (.of_eq (by simp [offerFlow])) (claimMayEnd_settle _)
  · exact .refl _

/-! ### A request (R158) -/

theorem requestWipe_of_homing {s : State} (h : s.wip.state = .homing) :
    (requestWipe s).wip = { s.wip with owed := true } := by
  unfold requestWipe; rw [h]; rfl

theorem requestWipe_of_parked {s : State} (h : s.wip.state = .parked) :
    (requestWipe s).wip.state = .want ∨ (requestWipe s).wip.state = .claiming := by
  have hwant : requestWipe s = wantWipe s := by unfold requestWipe; rw [h]
  rw [hwant, wantWipe, judgeAdmission]
  split
  · exact (claimMayEnd_post _ _).stays_wanted (.inr rfl)
  · exact .inl rfl

theorem requestWipe_of_others {s : State} (hp : s.wip.state ≠ .parked) (hh : s.wip.state ≠ .homing) :
    requestWipe s = s := by
  unfold requestWipe
  split
  · exact absurd ‹_› hp
  · exact absurd ‹_› hh
  · rfl

/-! ### The references and the wiper at a completion (R140, R152, R153) -/

section
variable (s : State) (raw : List (BitVec 10)) (fdir : Bool)

/-- The part as the fouling step leaves its scanner, before the wiper is asked. -/
def referenced : State := (published s raw).setScn { (published s raw).scn with
  refs := (foulSteps (published s raw) s.scn.inputs raw).map (·.1)
  foulRequests := raise16 (published s raw).scn.foulRequests
    ((foulSteps (published s raw) s.scn.inputs raw).countP (·.2)) }

theorem scanned_eq : scanned s raw = if (foulSteps (published s raw) s.scn.inputs raw).countP (·.2) = 0
    then referenced s raw else requestWipe (referenced s raw) := rfl

theorem referenced_wip : (referenced s raw).wip = s.wip := by simp [referenced, published]

/-- How many modules ask for a wipe at a completion. -/
def wipeRequests : Nat := (foulSteps (published s raw) s.scn.inputs raw).countP (·.2)

/-- With no request the fouling step leaves the wiper alone. -/
theorem scanned_wip_of_none (h : wipeRequests s raw = 0) : (scanned s raw).wip = s.wip := by
  rw [scanned_eq]
  exact (congrArg State.wip (if_pos h)).trans (referenced_wip s raw)

theorem scanned_wip_of_some (h : 1 ≤ wipeRequests s raw) :
    (scanned s raw).wip = (requestWipe (referenced s raw)).wip := by
  rw [scanned_eq]
  exact congrArg State.wip (if_neg (Nat.one_le_iff_ne_zero.mp h))

/-- After the fouling step a completion moves of the wiper a claim alone. -/
theorem claimMayEnd_completeScan : ClaimMayEnd (scanned s raw).wip (completeScan s raw fdir).wip := by
  have hwip : (completeScan s raw fdir).wip = (flowHanded s raw fdir).wip := by simp [completeScan_eq, uvtHanded]
  rw [hwip]
  exact claimMayEnd_handFlow _ _

/-- The wiper after a completion, by the state in which the requests find it (R158). -/
theorem completeScan_wip :
    (s.wip.state = .homing →
      (completeScan s raw fdir).wip.owed = (s.wip.owed || decide (1 ≤ wipeRequests s raw))) ∧
    (s.wip.state = .parked → wipeRequests s raw = 0 → (completeScan s raw fdir).wip = s.wip) ∧
    (s.wip.state = .parked → 1 ≤ wipeRequests s raw →
      (completeScan s raw fdir).wip.state = .want ∨ (completeScan s raw fdir).wip.state = .claiming) ∧
    (s.wip.state ∉ [WiperState.homing, .parked, .claiming] → (completeScan s raw fdir).wip = s.wip) := by
  have hclaim := claimMayEnd_completeScan s raw fdir
  have hwip := referenced_wip s raw
  have hunmoved (hw : s.wip.state ≠ .claiming) (h : (scanned s raw).wip = s.wip) :
      (completeScan s raw fdir).wip = s.wip := by
    rw [h] at hclaim
    exact hclaim.1 hw
  refine ⟨fun hw => ?_, fun hw hnone => ?_, fun hw hsome => ?_, fun hw => ?_⟩
  · obtain hnone | hsome : wipeRequests s raw = 0 ∨ 1 ≤ wipeRequests s raw := Nat.eq_zero_or_pos _
    · rw [hunmoved (by simp [hw]) (scanned_wip_of_none s raw hnone)]
      simp [hnone]
    · have howed : (scanned s raw).wip = { s.wip with owed := true } := by
        rw [scanned_wip_of_some s raw hsome, requestWipe_of_homing (by rw [hwip, hw]), hwip]
      rw [howed] at hclaim
      rw [hclaim.1 (by simp [hw])]
      simp [hsome]
  · exact hunmoved (by simp [hw]) (scanned_wip_of_none s raw hnone)
  · refine hclaim.stays_wanted ?_
    rw [scanned_wip_of_some s raw hsome]
    exact requestWipe_of_parked (by rw [hwip, hw])
  · simp only [List.mem_cons, List.not_mem_nil, or_false, not_or] at hw
    obtain ⟨hhoming, hparked, hclaiming⟩ := hw
    refine hunmoved hclaiming ?_
    obtain hnone | hsome : wipeRequests s raw = 0 ∨ 1 ≤ wipeRequests s raw := Nat.eq_zero_or_pos _
    · exact scanned_wip_of_none s raw hnone
    · rw [scanned_wip_of_some s raw hsome, requestWipe_of_others (by rwa [hwip]) (by rwa [hwip]), hwip]

/-- A sample that joins its window, in the words of the statements. -/
theorem entered_eq (k : Nat) : (sampleTaken s k && rawValid k (rawAt raw k)) =
    decide ((k < min s.ldr.cfg.nMod 6 ∨ (k = 6 ∧ s.ldr.straps.flowSrc = true) ∨
        (k = 7 ∧ s.ldr.straps.uvtSrc = true)) ∧
      ¬ (k < 6 ∧ (s.wip.state = .strokeOut ∨ s.wip.state = .strokeBack)) ∧
      (if k < 6 then 20 else 180) ≤ (raw.getD k 0).toNat ∧ (raw.getD k 0).toNat ≤ 1003) := by
  rw [Bool.eq_iff_iff, Bool.and_eq_true, sampleTaken_iff, rawValid_eq, decide_eq_true_eq, decide_eq_true_eq, and_assoc]
  exact Iff.rfl

/-- A module's reference at a completion: the count, the reference, the judgement, in this order. -/
theorem foulStep_published (k : Nat) (r : FoulRef) :
    foulStep (published s raw) s.scn.inputs raw (k + 1) r =
      (let i := inputAt (completeScan s raw fdir) k
       let ls := lampsOf (stepLearn (stepSamples s raw)) (k + 1)
       let entered := sampleTaken s k && rawValid k (rawAt raw k)
       let value := sensorValue s.ldr.cfg.sensorSpan i
       judgeFouling s.ldr.cfg.foulThr ls (entered && !i.fault) value
         (takeReference ls i value (countPost entered (!(inputAt s k).fault && i.fault) r))) := by
  have hldr : (published s raw).ldr = s.ldr := by simp [published]
  have hinput : inputAt (published s raw) k = inputAt (completeScan s raw fdir) k := by
    unfold inputAt
    rw [completeScan_inputs, published, stepPublish_scn]
    simp
  have htaken : sampleTaken (published s raw) k = sampleTaken s k := by
    simp [sampleTaken, blanked, convertedInputs, inStroke, published]
  have hlamps : lampsOf (published s raw) (k + 1) = lampsOf (stepLearn (stepSamples s raw)) (k + 1) := rfl
  unfold foulStep
  simp only [Nat.add_sub_cancel, hldr, hinput, htaken, hlamps]
  rfl

/-- The references of the modules that are there are stepped, and the others left alone. -/
theorem foulSteps_published : foulSteps (published s raw) s.scn.inputs raw = s.scn.refs.mapIdx fun k r =>
    if k < s.ldr.cfg.nMod then foulStep (published s raw) s.scn.inputs raw (k + 1) r else (r, false) := by
  have hrefs : (published s raw).scn.refs = s.scn.refs := by rw [published, stepPublish_scn]; simp [stepSamples_scn]
  have hldr : (published s raw).ldr = s.ldr := by simp [published]
  rw [foulSteps, hrefs, hldr]

end

/-- Settles O50: the three rows of a reference, then the completion by what it leaves of references and wiper. -/
theorem foulingIsReferencedAndJudged : Obligations.FoulingIsReferencedAndJudged := by
  unfold Obligations.FoulingIsReferencedAndJudged
  refine ⟨fun r entered faultedNow => ⟨fun h => countPost_of_disarmed h _ _, fun h => ?_⟩,
    fun ls i v r => ⟨takeReference_of_ready v, takeReference_of_not_ready v, rfl⟩,
    fun threshold v ls r ref href => ⟨fun hlit => ?_, fun hlit => ?_, judgeFouling_of_unjudged href rfl⟩,
    fun threshold ls judged v r h => judgeFouling_of_missing judged h, fun v sum h => ?_,
    fun raw fdir s hr hs => ⟨_, exec_scanComplete raw fdir hr hs, ?_⟩⟩
  · exact ⟨countPost_of_armed h _ _, countPost_of_armed h _ _, countPost_of_armed h _ _⟩
  · rw [judgeFouling_of_judged href hlit, ← refLevelSum_eq, ← belowShare_iff]
    refine ⟨fun hb => if_neg hb, fun hb hrun => ?_, fun hb hrun => ?_⟩
    · rw [if_pos hb, if_pos hrun]
    · rw [if_pos hb, if_neg (Nat.not_lt.mpr hrun)]
  · exact judgeFouling_of_unjudged href (by simp [hlit])
  · rw [ratioTo_of_pos v h]
    exact ⟨rfl, Nat.sub_add_cancel h⟩
  · have hstepped := foulSteps_published s raw
    simp only [foulStep_published s raw fdir, entered_eq] at hstepped
    have hscn := completeScan_scn s raw fdir
    have hwip := completeScan_wip s raw fdir
    unfold wipeRequests at hwip
    rw [hstepped] at hscn hwip
    exact ⟨by rw [hscn], by rw [hscn]; rfl, hwip⟩

end Sys2Proof.Machine
end

section
/-! The fluences, from the estimates, the sensors and the table of G, and the values of the inputs (O51). -/

namespace Sys2Proof.Machine

/-! ### Rounding to the nearest, half up -/

theorem roundHalfUp_bounds (a : Nat) {d : Nat} (hd : 0 < d) :
    2 * d * roundHalfUp a d ≤ 2 * a + d ∧ 2 * a + d < 2 * d * (roundHalfUp a d + 1) :=
  ⟨Nat.mul_div_le _ _, Nat.lt_mul_div_succ _ (by omega)⟩

theorem roundHalfUp_zero {d : Nat} (hd : 0 < d) : roundHalfUp 0 d = 0 :=
  Nat.div_eq_of_lt (by omega)

/-! ### G (R81) -/

/-- The first point of a rising table is not above any other. -/
theorem head_le_of_mem {p x : Nat × Nat} {points : List (Nat × Nat)}
    (h : (p :: points).Pairwise fun a b => a.1 < b.1) (hx : x ∈ p :: points) : p.1 ≤ x.1 := by
  rcases List.mem_cons.mp hx with rfl | hx
  · exact Nat.le_refl _
  · exact Nat.le_of_lt (List.rel_of_pairwise_cons h hx)

section
variable {u : Nat} {p q : Nat × Nat} {points : List (Nat × Nat)}

theorem gTable_of_first (hp : points.head? = some p) (hu : u ≤ p.1) : gTable points u = p.2 := by
  match points with
  | [] => simp at hp
  | [_] => rw [List.head?_cons, Option.some.injEq] at hp; rw [gTable, hp]
  | _ :: _ :: _ => rw [List.head?_cons, Option.some.injEq] at hp; rw [gTable, hp, if_pos hu]

/-- A transmittance that reaches the second point leaves the first behind. -/
theorem gTable_of_past (hpq : p.1 < q.1) (hu : q.1 ≤ u) : gTable (p :: q :: points) u = gTable (q :: points) u := by
  rw [gTable, if_neg (by omega), if_neg (by omega)]

theorem gTable_of_last (h : points.Pairwise fun a b => a.1 < b.1) (hp : points.getLast? = some p) (hu : p.1 ≤ u) :
    gTable points u = p.2 := by
  induction points with
  | nil => simp at hp
  | cons a points ih =>
    cases points with
    | nil => rw [List.getLast?_singleton, Option.some.injEq] at hp; rw [gTable, hp]
    | cons b points =>
      rw [List.getLast?_cons_cons] at hp
      have htail := List.Pairwise.of_cons h
      have hb : b.1 ≤ u := (head_le_of_mem htail (List.mem_of_getLast? hp)).trans hu
      rw [gTable_of_past (List.rel_of_pairwise_cons h List.mem_cons_self) hb]
      exact ih htail hp

theorem gTable_of_point (h : points.Pairwise fun a b => a.1 < b.1) (hp : p ∈ points) : gTable points p.1 = p.2 := by
  induction points with
  | nil => simp at hp
  | cons a points ih =>
    rcases List.mem_cons.mp hp with rfl | hp
    · exact gTable_of_first List.head?_cons (Nat.le_refl _)
    · cases points with
      | nil => simp at hp
      | cons b points =>
        have htail := List.Pairwise.of_cons h
        rw [gTable_of_past (List.rel_of_pairwise_cons h List.mem_cons_self) (head_le_of_mem htail hp)]
        exact ih htail hp

/-- Between two neighbouring points G is interpolated. -/
theorem gTable_of_between (h : points.Pairwise fun a b => a.1 < b.1) {k : Nat} (hp : points[k]? = some p)
    (hq : points[k + 1]? = some q) (hpu : p.1 < u) (huq : u < q.1) :
    gTable points u = roundHalfUp (p.2 * (q.1 - u) + q.2 * (u - p.1)) (q.1 - p.1) := by
  induction k generalizing points with
  | zero =>
    match points with
    | [] => simp at hp
    | [_] => simp at hq
    | a :: b :: _ =>
      obtain rfl : a = p := by simpa using hp
      obtain rfl : b = q := by simpa using hq
      rw [gTable, if_neg (by omega), if_pos huq]
  | succ k ih =>
    match points with
    | [] => simp at hp
    | [_] => simp at hp
    | a :: b :: points =>
      rw [List.getElem?_cons_succ] at hp hq
      have htail := List.Pairwise.of_cons h
      have hb : b.1 ≤ u := (head_le_of_mem htail (List.mem_of_getElem? hp)).trans hpu.le
      rw [gTable_of_past (List.rel_of_pairwise_cons h List.mem_cons_self) hb]
      exact ih htail hp hq

end

/-- The value on the line through two points, rounded to the nearest, half up. -/
theorem interpolated_bounds {a b u : Nat} (v w : Nat) (hau : a < u) (hub : u < b) :
    (let d : Int := (b : Int) - a
     let exact : Int := v * d + ((w : Int) - v) * ((u : Int) - a)
     let g := roundHalfUp (v * (b - u) + w * (u - a)) (b - a)
     2 * d * g ≤ 2 * exact + d ∧ 2 * exact + d < 2 * d * (g + 1)) := by
  obtain ⟨hlow, hhigh⟩ := roundHalfUp_bounds (v * (b - u) + w * (u - a)) (d := b - a) (by omega)
  have hexact : (v : Int) * ((b : Int) - a) + ((w : Int) - v) * ((u : Int) - a) =
      (v * (b - u) + w * (u - a) : Nat) := by
    push_cast [hau.le, hub.le]; ring
  have hd : (b : Int) - a = (b - a : Nat) := by push_cast [(hau.trans hub).le]; ring
  simp only [hexact]
  rw [hd]
  exact ⟨by exact_mod_cast hlow, by exact_mod_cast hhigh⟩

/-! ### Sums over the lamps -/

theorem committed_eq (l : Lamp) :
    l.committed = decide (l.state = .lit ∨ l.state = .warming ∨ l.state = .striking) := by
  rw [committed_iff]
  exact decide_eq_decide.mpr (by tauto)

/-! ### Contributions (R144, R149) -/

theorem any_isLit_iff (s : State) (m : Nat) : (lampsOf s m).any Lamp.isLit = true ↔ litOf s m ≠ [] := by
  simp [litOf, List.filter_eq_nil_iff]

theorem any_burning_iff (s : State) (m : Nat) : (lampsOf s m).any Lamp.burning = true ↔
    ∃ l ∈ lampsOf s m, l.state = .lit ∨ l.state = .warming := by
  simp only [List.any_eq_true, burning_iff]

theorem sensorValue_eq_none {span : Nat} {i : Input} (h : i.window = []) : sensorValue span i = none := if_pos h

section
variable {s : State} {m : Nat}

theorem contribution_of_dark (h : (lampsOf s m).any Lamp.burning = false) : contribution s m = 0 := by
  unfold contribution; simp [h]

/-- An estimated module; one with no lamp LIT contributes a sum over none. -/
theorem contribution_of_estimated (h : (lampsOf s m).any Lamp.burning = true)
    (hf : (inputAt s (m - 1)).fault = true) : contribution s m = gFactor s * litLevelSum (lampsOf s m) := by
  unfold contribution
  simp only [h, hf, Bool.not_true, Bool.false_eq_true, if_false, if_true]
  split
  · rfl
  · rename_i hnone
    have hlit : (lampsOf s m).filter Lamp.isLit = [] := by
      rwa [any_isLit_iff, not_not] at hnone
    rw [litLevelSum, hlit]
    rfl

theorem contribution_of_sensor (h : (lampsOf s m).any Lamp.burning = true)
    (hf : (inputAt s (m - 1)).fault = false) : contribution s m =
      ((sensorValue s.ldr.cfg.sensorSpan (inputAt s (m - 1))).map fun v => v * gFactor s * 20).getD 0 := by
  unfold contribution
  simp only [h, hf, Bool.not_true, Bool.false_eq_true, if_false]
  cases sensorValue s.ldr.cfg.sensorSpan (inputAt s (m - 1)) <;> rfl

end

theorem moduleEstimated_iff (s : State) (m : Nat) :
    moduleEstimated s m = true ↔ (inputAt s (m - 1)).fault = true ∧ litOf s m ≠ [] := by
  rw [← any_isLit_iff]
  exact Bool.and_eq_true_iff

/-! ### F_eff (R150, R154) -/

/-- The sum of the contributions, of which F_eff is the mean. -/
def contributions (s : State) : Nat := sumOf ((List.range s.ldr.cfg.nMod).map fun k => contribution s (k + 1))

theorem fEff_eq (s : State) : fEff s =
    if s.scn.fEffBegun = false then 0
    else if inStroke s then min (4 * contributions s / (5 * (20000 * s.ldr.cfg.nMod))) 65535
    else min (contributions s / (20000 * s.ldr.cfg.nMod)) 65535 := by
  have hsum : sumOf ((modules s).map (contribution s)) = contributions s := by
    rw [modules, List.map_map]; rfl
  have hfifth : contributions s * 80 / (100 * (20000 * s.ldr.cfg.nMod)) =
      4 * contributions s / (5 * (20000 * s.ldr.cfg.nMod)) := by
    rw [← Nat.mul_div_mul_left (4 * contributions s) _ (Nat.zero_lt_succ 19)]
    congr 1 <;> ring
  unfold fEff
  simp only [hsum, hfifth, Bool.not_eq_true']

/-- Without an image there is no module to be the mean of. -/
theorem fEff_of_absent {s : State} (h : s.ldr.cfg = .absent) : fEff s = 0 := by
  rw [fEff_eq]
  simp [h, ImageCfg.absent]

theorem fluenceOf_of_absent {s : State} (h : s.ldr.cfg = .absent) (sum : Nat) : fluenceOf s sum = 0 := by
  simp [fluenceOf, h, ImageCfg.absent]

/-! ### The values of the inputs (R145, R147) -/

section
variable {i : Input}

theorem window_length_pos (h : i.window ≠ []) : 0 < i.window.length := List.length_pos_iff.mpr h

theorem sensorValue_of_window (span : Nat) (h : i.window ≠ []) : sensorValue span i =
    some (min (roundHalfUp ((sumOf i.window - 20 * i.window.length) * span) (980 * i.window.length)) 65535) := if_neg h

theorem flowInputValue_of_window (qSpan : Nat) (h : i.window ≠ []) : flowInputValue qSpan i = some (min (min
    ((sumOf i.window - 200 * i.window.length) * qSpan / (800 * i.window.length)) qSpan) 65535) := if_neg h

theorem uvtInputValue_of_window (h : i.window ≠ []) : uvtInputValue i =
    some (min (roundHalfUp ((sumOf i.window - 200 * i.window.length) * 1000) (800 * i.window.length)) 1000) := if_neg h

end

/-- Settles O51: the fluences by their equations, G by where the transmittance lies, the inputs by their windows. -/
theorem fluencesAreComputed : Obligations.FluencesAreComputed := by
  unfold Obligations.FluencesAreComputed
  refine ⟨fun s => ⟨fun m => ?_, fun hb => ?_, fun hb hw => ?_, fun hb hout hback => ?_, rfl, rfl, ?_, fun h => ?_⟩,
    fun s h => ⟨fun p => gTable_of_first, fun p => gTable_of_last h, fun p hp hu => ?_, fun k p q hp hq hpu huq => ?_⟩,
    fun i => ⟨fun hw => ⟨fun span => ⟨if_pos hw, if_pos hw⟩, if_pos hw⟩, fun hw hs span => ?_, fun hw hs span => ?_,
      fun hw hs => ⟨fun qSpan => ?_, ?_⟩, fun hw hs => ⟨fun qSpan => ?_, ?_⟩⟩⟩
  · have hlamps : (s.seq.lamps.filter fun l => decide ((l.index + 3) / 4 = m)) = lampsOf s m := rfl
    have hlit : ((lampsOf s m).filter fun l => decide (l.state = .lit)) = litOf s m := rfl
    simp only [hlamps, hlit, ← any_burning_iff, Bool.not_eq_true]
    refine ⟨contribution_of_dark, contribution_of_estimated, fun hl hf hw => ?_, fun v hl hf hv => ?_,
      moduleEstimated_iff s m⟩
    · rw [contribution_of_sensor hl hf, sensorValue_eq_none hw]; rfl
    · rw [contribution_of_sensor hl hf, hv]; rfl
  · rw [fEff_eq, if_pos hb]
  · rw [fEff_eq, if_neg (by simp [hb]), if_pos ((inStroke_iff s).mpr hw)]; rfl
  · rw [fEff_eq, if_neg (by simp [hb]), if_neg (by simp [inStroke_iff, hout, hback])]; rfl
  · simp only [← committed_eq]; rfl
  · exact ⟨fEff_of_absent h, fluenceOf_of_absent h _, fluenceOf_of_absent h _, fluenceOf_of_absent h _⟩
  · rw [gFactor, ← hu]; exact gTable_of_point h hp
  · have hg : gFactor s = _ := gTable_of_between h hp hq hpu huq
    simp only [hg]
    exact interpolated_bounds p.2 q.2 hpu huq
  · have hn := window_length_pos hw
    rw [sensorValue_of_window span hw, Nat.sub_eq_zero_of_le hs, Nat.zero_mul, roundHalfUp_zero (by omega)]
    rfl
  · exact ⟨_, sensorValue_of_window span hw, roundHalfUp_bounds _ (by have := window_length_pos hw; omega)⟩
  · rw [flowInputValue_of_window qSpan hw, Nat.sub_eq_zero_of_le hs]
    simp
  · have hn := window_length_pos hw
    rw [uvtInputValue_of_window hw, Nat.sub_eq_zero_of_le hs, Nat.zero_mul, roundHalfUp_zero (by omega)]
    rfl
  · exact ⟨_, flowInputValue_of_window qSpan hw, Nat.mul_div_le _ _,
      Nat.lt_mul_div_succ _ (by have := window_length_pos hw; omega)⟩
  · exact ⟨_, uvtInputValue_of_window hw, roundHalfUp_bounds _ (by have := window_length_pos hw; omega)⟩

end Sys2Proof.Machine
end

section
/-! SUPPORT. The wiper's operations case by case: what admission, the claim, the wait record and the ends of a drive
make of the state where the transmit queue has room (R156–R167). -/

namespace Sys2Proof.Machine

/-! ### Admission and the claim (R159, R160) -/

section
variable {s : State}

theorem judgeAdmission_of_not (h : s.wip.state ≠ .want ∨ admitted s = false) : judgeAdmission s = s := by
  unfold judgeAdmission
  rw [if_neg (by rcases h with h | h <;> simp [h])]

theorem judgeAdmission_of_admitted (hw : s.wip.state = .want) (ha : admitted s = true) :
    judgeAdmission s = postClaim s := by
  unfold judgeAdmission
  rw [if_pos (by simp [hw, ha])]

/-- The claim of an admitted wipe takes its place in the queue (R160). -/
theorem judgeAdmission_of_room {w : Wiper} (hw : w.state = .want) (ha : admitted (s.setWip w) = true)
    (hroom : s.bus.queue.length < 12) : judgeAdmission (s.setWip w) = (s.setWip { w with
      state := .claiming, claim := some s.bus.nextTicket, window := none }).setBus (withPosted s .wipeClaim) := by
  rw [judgeAdmission_of_admitted hw ha]
  exact post_eq_withPosted _ hroom

/-- A wiper that wants a wipe has its admission judged on entry (R158, R159). -/
theorem wantWipe_setWip (w : Wiper) : wantWipe (s.setWip w) = judgeAdmission (s.setWip { w with state := .want }) := rfl

/-- A request in HOMING is owed (R158). -/
theorem requestWipe_owes (h : s.wip.state = .homing) : requestWipe s = s.setWip { s.wip with owed := true } := by
  unfold requestWipe; rw [h]

/-- A request in PARKED is taken at once (R158). -/
theorem requestWipe_wants (h : s.wip.state = .parked) : requestWipe s = wantWipe s := by
  unfold requestWipe; rw [h]

/-- The conditions under which admission is judged differ at most in the wait record (R159). -/
theorem admitted_setWip (w : Wiper) (h : w.wait = s.wip.wait) : admitted (s.setWip w) = admitted s := by
  unfold admitted
  rw [State.setWip_wip, h]
  rfl

/-! ### A claim taken back, and a wait begun (R161, R184) -/

theorem takeBackClaim_eq (s : State) : takeBackClaim s =
    (s.setWip { s.wip with claim := none, window := none }).setBus (claimTakenBack s.bus s.wip.claim) := by
  unfold takeBackClaim
  cases s.wip.claim <;> rfl

theorem yieldTo_of_want (p : Nat) (h : s.wip.state = .want) :
    yieldTo s p = s.setWip { s.wip with wait := some ⟨p, 120000⟩ } := by
  unfold yieldTo; rw [h]; rfl

/-- The bank withdraws its claim, which is counted, and waits (R161, R167). -/
theorem yieldTo_of_claiming (p : Nat) (h : s.wip.state = .claiming) :
    yieldTo s p = (s.setWip { s.wip with
      state := .want, claim := none, window := none, wait := some ⟨p, 120000⟩
      withdrawals := bump16 s.wip.withdrawals }).setBus (claimTakenBack s.bus s.wip.claim) := by
  unfold yieldTo; rw [h]; simp only [takeBackClaim_eq]; rfl

theorem yieldTo_of_others (p : Nat) (hw : s.wip.state ≠ .want) (hc : s.wip.state ≠ .claiming) : yieldTo s p = s := by
  unfold yieldTo
  split
  · exact absurd ‹_› hw
  · exact absurd ‹_› hc
  · rfl

/-! ### The wait record empties (R162) -/

theorem emptyWait_wait (s : State) : (emptyWait s).wip.wait = none := by
  unfold emptyWait judgeAdmission
  split
  · simp [postClaim, post_wip_keeps]
  · rfl

theorem emptyWaitOn_of_held {p : Nat} (h : s.wip.wait.map (·.pos) = some p) : emptyWaitOn s p = emptyWait s := by
  obtain ⟨w, hw, hp⟩ := Option.map_eq_some_iff.mp h
  unfold emptyWaitOn
  simp only [hw, hp, if_true]

/-! ### Both limits active, and the faults (R156, R164–R166) -/

/-- The wiper as a fault leaves it, in the words of the statements. -/
theorem faulted_eq (w : Wiper) : w.faulted = { w with
    state := .fault, stroke := none, release := none, claim := none, window := none, owed := false
    faults := bump16 w.faults } := rfl

/-- A stroke that ends in FAULT is told, and a scan in progress is begun again (R166). -/
theorem strokeFault_of_room (hroom : s.bus.queue.length < 12) : strokeFault s =
    ((s.setWip s.wip.faulted).setBus (withPosted s (.wipeDone 1))).setScn
      { s.scn with scan := s.scn.scan.map (· + 1) } := by
  unfold strokeFault
  rw [post_eq_withPosted (s := s.setWip s.wip.faulted) _ hroom]
  rfl

/-- The wiper itself stands in FAULT, told or not (R166). -/
theorem strokeFault_wip (s : State) : (strokeFault s).wip = s.wip.faulted := by
  have hpost := post_wip_of_ne (s.setWip s.wip.faulted) (.wipeDone wipeOutcomeFault) (by simp [faulted_eq])
  unfold strokeFault
  simpa using hpost

theorem limitsTogether_of_rest (h : s.wip.state = .homing ∨ s.wip.state = .parked ∨ s.wip.state = .want) :
    limitsTogether s = s.setWip s.wip.faulted := by
  unfold limitsTogether
  rcases h with h | h | h <;> rw [h]

theorem limitsTogether_of_stroke (h : s.wip.state = .strokeOut ∨ s.wip.state = .strokeBack) :
    limitsTogether s = strokeFault s := by
  unfold limitsTogether
  rcases h with h | h <;> rw [h]

theorem limitsTogether_of_out (h : s.wip.state = .absent ∨ s.wip.state = .fault) : limitsTogether s = s := by
  unfold limitsTogether
  rcases h with h | h <;> rw [h]

/-- Taking a claim back frees places of the queue alone. -/
theorem claimTakenBack_length_le (b : Bus) (claim : Option Nat) :
    (claimTakenBack b claim).queue.length ≤ b.queue.length := by
  cases claim with
  | none => exact le_refl _
  | some n => exact List.length_filter_le _ _

/-- In CLAIMING a claim still waiting is taken back, and one whose window runs is told (R166). -/
theorem limitsTogether_of_claiming (h : s.wip.state = .claiming) (hroom : s.bus.queue.length < 12) :
    limitsTogether s = (s.setWip s.wip.faulted).setBus (if s.wip.window.isSome
      then withPosted (s.setBus (claimTakenBack s.bus s.wip.claim)) (.wipeDone 1)
      else claimTakenBack s.bus s.wip.claim) := by
  have hback := (claimTakenBack_length_le s.bus s.wip.claim).trans_lt hroom
  unfold limitsTogether
  rw [h]
  simp only [takeBackClaim_eq]
  split
  · exact post_eq_withPosted _ hback
  · rfl

/-! ### HOMING begins and ends (R156) -/

theorem homed_of_quit (h : s.wip.owed = false) :
    homed s = s.setWip { s.wip with state := .parked, stroke := none, owed := false } := by
  unfold homed
  simp [h]

theorem homed_of_owing (h : s.wip.owed = true) :
    homed s = wantWipe (s.setWip { s.wip with state := .parked, stroke := none, owed := false }) := by
  unfold homed
  simp [h]

theorem home_of_away (h : s.wip.whome = false) :
    home s = s.setWip { s.wip with state := .homing, stroke := some 0 } := by
  unfold home
  simp [h]

theorem home_of_home (h : s.wip.whome = true) (he : s.wip.wend = false) : home s = homed s := by
  unfold home
  simp [h, he]

theorem home_of_both (h : s.wip.whome = true) (he : s.wip.wend = true) : home s = s.setWip s.wip.faulted := by
  unfold home
  simp [h, he]

end

/-! ### The wiper's expiries at a part that runs -/

section
variable {s : State} (h : Runs s)
include h

theorem exec_wipeIntervalExpiry (ht : s.wip.interval.isSome = true) : exec .wipeIntervalExpiry s =
    .next (requestWipe (s.setWip { s.wip with interval := some 0 })) := by
  refine congrArg Host.Outcome.next ((event_of_runs _ h ?_).trans (if_pos ht))
  rw [if_pos ht, requestWipe_restarting]
  rfl

theorem exec_waitRecordExpiry (hw : s.wip.wait.isSome = true) : exec .waitRecordExpiry s = .next (emptyWait s) := by
  refine congrArg Host.Outcome.next ((event_of_runs _ h ?_).trans (if_pos hw))
  rw [if_pos hw, emptyWait_restarting]

theorem exec_claimWindowExpiry (hs : s.wip.state = .claiming) (hw : s.wip.window.isSome = true) :
    exec .claimWindowExpiry s = .next (startStroke s) := by
  have hc : (decide (s.wip.state = .claiming) && s.wip.window.isSome) = true := by simp [hs, hw]
  refine congrArg Host.Outcome.next ((event_of_runs _ h ?_).trans (if_pos hc))
  rw [if_pos hc, startStroke_restarting]

end

end Sys2Proof.Machine
end

section
/-! Wipes are asked for, admitted and begun (O52). -/

namespace Sys2Proof.Machine

/-! ### The six conditions (R159) -/

theorem otherWiping_eq_false (chan : Nat) (r : Roster) : r.otherWiping chan = false ↔
    ∀ e ∈ r.entries, e.isSelf = false → e.chan = chan → e.state ≠ .lost → e.wiping = none := by
  unfold Roster.otherWiping
  rw [List.any_eq_false]
  refine forall₂_congr fun e _ => ?_
  cases hs : e.isSelf <;> simp [RosterEntry.isLost]

theorem admitted_iff (s : State) : admitted s = true ↔
    (s.ctl.mode = .dosing ∨ s.ctl.mode = .hold) ∧ s.pln.shortfall = false ∧ 100 * s.pln.fReq ≤ 70 * fMax s ∧
      s.ldr.supply.low = false ∧
      (∀ e ∈ s.ros.entries, e.isSelf = false → e.chan = s.ldr.straps.channel → e.state ≠ .lost → e.wiping = none) ∧
      s.wip.wait = none := by
  have hshare : 10 * s.pln.fReq ≤ 7 * fMax s ↔ 100 * s.pln.fReq ≤ 70 * fMax s := by omega
  rw [← doses_iff, ← otherWiping_eq_false, ← hshare]
  simp [admitted, and_assoc]

/-! ### An expiry does not read the wiper but for its stroke (R10, R18) -/

/-- Two parts that hold the same in every block are one. -/
theorem State.eq_of_blocks {s t : State} (h : ∀ b, Block.same s t b) : t = s := by
  cases s
  cases t
  rw [State.mk.injEq]
  exact ⟨h .pending, h .serial, h .hold, h .ctl, h .ldr, h .trk, h .ros, h .pln, h .seq, h .link, h .scn, h .wip,
    h .bus, h .cmd⟩

theorem refreshSetpoint_setWip (s : State) (w : Wiper) :
    refreshSetpoint (s.setWip w) = (refreshSetpoint s).setWip w := by
  unfold refreshSetpoint
  rw [State.setWip_ctl]
  split <;> rfl

theorem lampEvent_setWip (s : State) (w : Wiper) : lampEvent (s.setWip w) = (lampEvent s).setWip w := by
  have hsame := SameForLamps.lampEvent (s := s) (u := s.setWip w) ⟨rfl, rfl, rfl, rfl, rfl, rfl⟩
  refine State.eq_of_blocks fun b => ?_
  cases b with
  | seq => exact hsame.seq
  | link => exact hsame.link
  | pln =>
    have hpln : (lampEvent (s.setWip w)).pln = (lampEvent s).pln := by
      rw [lampEvent_pln, refreshSetpoint_setWip, lampEvent_pln]
      rfl
    exact hpln
  | _ => simp [Block.same]

theorem computePlan_setWip (s : State) (w : Wiper) (q : Nat) :
    computePlan (s.setWip w) q = (computePlan s q).setWip w := by
  have hserves : planServes (s.setWip w) q = planServes s q := rfl
  unfold computePlan
  rw [State.setWip_ctl, hserves]
  split
  · split <;> rfl
  · rfl

theorem computeSetpoint_setWip (s : State) (w : Wiper) (q : Nat) :
    computeSetpoint (s.setWip w) q = (computeSetpoint s q).setWip w := by
  unfold computeSetpoint
  rw [State.setWip_ctl]
  split
  · split <;> rfl
  · rw [State.setWip_pln]
    split
    · split <;> rfl
    · rfl
  · rfl

/-! Nor does what is sent of it read a wiper outside CLAIMING, which no frame given up concerns (R183). -/

theorem sendRecord_wip_of_ne (role : Role) {s : State} (r : ParcelRec) (hs : s.wip.state ≠ .claiming) :
    (sendRecord role s r).wip = s.wip := by
  cases role with
  | head | mid => exact post_wip_of_ne s _ hs
  | tail | sole => exact post_wip_of_ne (s.setTrk (s.trk.judged s.ldr.cfg.dT r)) _ hs
  | noRole => rfl

section
variable {w : Wiper} (hw : w.state ≠ .claiming)
include hw

theorem giveUpAll_setWip {s : State} (fs : List Frame) (hs : s.wip.state ≠ .claiming) :
    giveUpAll (s.setWip w) fs = (giveUpAll s fs).setWip w := by
  unfold giveUpAll
  induction fs generalizing s with
  | nil => rfl
  | cons f fs ih =>
    have hone : giveUp (s.setWip w) f = (giveUp s f).setWip w := by
      unfold giveUp
      simp only [State.setWip_wip, Wiper.claimGone_of_ne _ _ hw]
      rfl
    have hstays : (giveUp s f).wip.state ≠ .claiming := by
      simpa [giveUp, Wiper.claimGone_of_ne _ _ hs] using hs
    rw [List.foldl_cons, hone, ih hstays, List.foldl_cons]

theorem post_setWip {s : State} (b : Body) (hs : s.wip.state ≠ .claiming) :
    post (s.setWip w) b = (post s b).setWip w := by
  unfold post
  exact giveUpAll_setWip hw (s := s.setBus _) _ hs

theorem sendRecord_setWip (role : Role) {s : State} (r : ParcelRec) (hs : s.wip.state ≠ .claiming) :
    sendRecord role (s.setWip w) r = (sendRecord role s r).setWip w := by
  cases role with
  | head | mid => exact post_setWip hw _ hs
  | tail | sole => exact post_setWip hw (s := s.setTrk _) _ hs
  | noRole => rfl

theorem foldl_sendRecord_setWip (role : Role) (l : List ParcelRec) {s : State} (hs : s.wip.state ≠ .claiming) :
    l.foldl (sendRecord role) (s.setWip w) = (l.foldl (sendRecord role) s).setWip w := by
  induction l generalizing s with
  | nil => rfl
  | cons r l ih =>
    have hstays : (sendRecord role s r).wip.state ≠ .claiming := by rwa [sendRecord_wip_of_ne role r hs]
    rw [List.foldl_cons, sendRecord_setWip hw role r hs, ih hstays, List.foldl_cons]

/-- An expiry before its judgement of admission, at a bank whose wiper neither claims nor strokes (R10). -/
theorem replanned_setWip {s : State} (hs : s.wip.state ≠ .claiming) (hstroke : w.state.stroking = inStroke s) :
    replanned (s.setWip w) = (replanned s).setWip w := by
  have hstrokes : inStroke (s.setWip w) = inStroke s := hstroke
  have haccrued : accrued (restarted (s.setWip w)) = accrued (restarted s) := by
    have hfluence : fEff (s.setWip w) = fEff s := by unfold fEff; rw [hstrokes]; rfl
    have hflags : accrualFlags (s.setWip w) = accrualFlags s := by unfold accrualFlags; rw [hstrokes]; rfl
    rw [accrued_restarted, accrued_restarted, accrued_eq, accrued_eq, hfluence, hflags]
    rfl
  have haccrue : accrue (restarted (s.setWip w)) = (accrue (restarted s)).setWip w := by
    cases hd : s.ctl.mode.doses with
    | true =>
      rw [accrue_of_doses (s := restarted (s.setWip w)) hd, haccrued, accrue_of_doses (s := restarted s) hd]
      exact foldl_sendRecord_setWip hw _ _ (s := (restarted s).setTrk (accrued (restarted s)).exit) hs
    | false =>
      rw [accrue_of_rests (s := restarted (s.setWip w)) hd, accrue_of_rests (s := restarted s) hd]
      rfl
  have hplanned : planned (s.setWip w) = (planned s).setWip w := by
    unfold planned
    rw [haccrue, computePlan_setWip]
    rfl
  unfold replanned
  rw [hplanned, computeSetpoint_setWip]
  rfl

end

/-- In PARKED an expiry keeps the wiper, and it judges no admission (R158, R159). -/
theorem expired_of_parked {s : State} (h : s.wip.state = .parked) :
    expired s = lampEvent (replanned s) ∧ (expired s).wip = s.wip := by
  have hwip : (lampEvent (replanned s)).wip = s.wip := by
    have hself := replanned_setWip (s := s) (w := s.wip) (by simp [h]) (by simp [h]) rfl
    calc (lampEvent (replanned s)).wip = (replanned (s.setWip s.wip)).wip := by simp; rfl
      _ = s.wip := by rw [hself]; rfl
  have hwant : (lampEvent (replanned s)).wip.state ≠ .want := by rw [hwip, h]; decide
  have hnone : expired s = lampEvent (replanned s) := judgeAdmission_of_not (.inl hwant)
  exact ⟨hnone, by rw [hnone, hwip]⟩

/-- In WANT an expiry ends with the judgement of admission, and does the rest as in PARKED (R159). -/
theorem expired_of_want {s : State} (h : s.wip.state = .want) : expired s =
    judgeAdmission ((expired (s.setWip { s.wip with state := .parked })).setWip s.wip) := by
  have hrest := replanned_setWip (s := s.setWip { s.wip with state := .parked }) (w := s.wip) (by simp [h])
    (by simp) (by rw [h]; rfl)
  rw [(expired_of_parked (s := s.setWip { s.wip with state := .parked }) rfl).1, ← lampEvent_setWip, ← hrest]
  rfl

/-! ### The stroke begins (R163, R164) -/

/-- The wiper as the claim window's end leaves it where WEND is not active (R163). -/
def Wiper.strokeBegun (w : Wiper) : Wiper :=
  { w with state := .strokeOut, window := none, claim := none, stroke := some 0
           release := if w.whome then some 0 else none }

/-- The part with the stroke begun, told, and a scan in progress begun again (R139, R163). -/
def strokeBegun (s : State) : State := restartScan (post (s.setWip s.wip.strokeBegun) .wipeActive)

theorem strokeBegun_wip (s : State) : (strokeBegun s).wip = s.wip.strokeBegun := by
  simpa [strokeBegun] using post_wip_of_ne (s.setWip s.wip.strokeBegun) .wipeActive (by simp [Wiper.strokeBegun])

theorem strokeBegun_of_room {s : State} (hroom : s.bus.queue.length < 12) : strokeBegun s =
    ((s.setWip s.wip.strokeBegun).setBus (withPosted s .wipeActive)).setScn
      { s.scn with scan := s.scn.scan.map (· + 1) } := by
  unfold strokeBegun
  rw [post_eq_withPosted (s := s.setWip s.wip.strokeBegun) _ hroom]
  rfl

theorem startStroke_eq (s : State) : startStroke s =
    if s.wip.whome && s.wip.wend then strokeFault (strokeBegun s)
    else if s.wip.wend then turnBack (strokeBegun s) else strokeBegun s := by
  change (if (strokeBegun s).wip.whome && (strokeBegun s).wip.wend then strokeFault (strokeBegun s)
      else if (strokeBegun s).wip.wend then turnBack (strokeBegun s) else strokeBegun s) = _
  rw [strokeBegun_wip]
  rfl

theorem startStroke_of_away {s : State} (he : s.wip.wend = false) : startStroke s = strokeBegun s := by
  rw [startStroke_eq]
  simp [he]

theorem startStroke_of_end {s : State} (he : s.wip.wend = true) (hh : s.wip.whome = false) :
    startStroke s = turnBack (strokeBegun s) := by
  rw [startStroke_eq]
  simp [he, hh]

theorem startStroke_of_both {s : State} (he : s.wip.wend = true) (hh : s.wip.whome = true) :
    startStroke s = strokeFault (strokeBegun s) := by
  rw [startStroke_eq]
  simp [he, hh]

theorem startStroke_onlyChanges (s : State) : OnlyChanges [.scn, .wip, .bus, .cmd] s (startStroke s) := by
  intro b hb
  cases b <;> simp at hb <;> simp [Block.same]

/-! ### The statements -/

/-- The interval restarts, and what it asks for depends on the state of the wiper (R157, R158). -/
theorem wipeInterval_taken {s : State} (hr : Runs s) (ht : s.wip.interval.isSome = true) {w : Wiper}
    (hwiper : { s.wip with interval := some 0 } = w) :
    (s.wip.state = .homing → exec .wipeIntervalExpiry s = .next (s.setWip { w with owed := true })) ∧
    (s.wip.state ≠ .parked → s.wip.state ≠ .homing → exec .wipeIntervalExpiry s = .next (s.setWip w)) ∧
    (s.wip.state = .parked → admitted (s.setWip { w with state := .want }) = false →
      exec .wipeIntervalExpiry s = .next (s.setWip { w with state := .want })) ∧
    (s.wip.state = .parked → admitted (s.setWip { w with state := .want }) = true → s.bus.queue.length < 12 →
      exec .wipeIntervalExpiry s = .next ((s.setWip
        { w with state := .claiming, claim := some s.bus.nextTicket, window := none }).setBus
        (withPosted s .wipeClaim))) := by
  have hstate : s.wip.state = (s.setWip w).wip.state := by rw [← hwiper]; rfl
  rw [exec_wipeIntervalExpiry hr ht, hwiper, hstate]
  refine ⟨fun h => ?_, fun hp hh => ?_, fun h ha => ?_, fun h ha hroom => ?_⟩
  · rw [requestWipe_owes h]
    rfl
  · rw [requestWipe_of_others hp hh]
  · rw [requestWipe_wants h, wantWipe_setWip, judgeAdmission_of_not (.inr ha)]
  · rw [requestWipe_wants h, wantWipe_setWip, judgeAdmission_of_room rfl ha hroom]

/-- Settles O52: the interval by the state it finds, the six conditions, the judgement at the close of an expiry, and
the stroke that the window's end begins. -/
theorem wipesAreRequestedAndBegun : Obligations.WipesAreRequestedAndBegun := by
  unfold Obligations.WipesAreRequestedAndBegun
  refine ⟨⟨fun s hr ht => wipeInterval_taken hr ht rfl, admitted_iff, fun s hr ha hw => ?_⟩,
    fun s hr hc hw hroom => ?_⟩
  · obtain ⟨-, hwip⟩ := expired_of_parked (s := s.setWip { s.wip with state := .parked }) rfl
    have hwait : s.wip.wait = (expired (s.setWip { s.wip with state := .parked })).wip.wait := by rw [hwip]; rfl
    rw [exec_accrualTimerExpiry hr ha, expired_of_want hw]
    refine ⟨_, exec_accrualTimerExpiry hr ha, hwip, fun hn => ?_, fun hy hroom => ?_⟩
    · rw [judgeAdmission_of_not (.inr ((admitted_setWip _ hwait).trans hn))]
    · rw [judgeAdmission_of_room hw ((admitted_setWip _ hwait).trans hy) hroom]
  · rw [exec_claimWindowExpiry hr hc hw]
    refine ⟨fun he => ?_, fun he hh => ?_, fun he hh => ⟨_, rfl, startStroke_onlyChanges s, ?_⟩⟩
    · rw [startStroke_of_away he, strokeBegun_of_room hroom]
      rfl
    · rw [startStroke_of_end he hh, strokeBegun_of_room hroom]
      rfl
    · rw [startStroke_of_both he hh, strokeFault_wip, strokeBegun_wip]
      exact ⟨rfl, rfl⟩

end Sys2Proof.Machine
end

section
/-! The wiper's two commands, by the state that they find (O33). -/

namespace Sys2Proof.Machine

/-- An admitted wipe posts its claim, whatever else the wiper holds (R160). -/
theorem wantWipe_claims {s : State} {w : Wiper} (ha : admitted (s.setWip { w with state := .want }) = true) :
    wantWipe (s.setWip w) = post (s.setWip { w with
      state := .claiming, claim := some s.bus.nextTicket, window := none }) .wipeClaim := by
  rw [wantWipe_setWip, judgeAdmission_of_admitted rfl ha]
  rfl

section
variable {s : State} {a : Src} {b : CommandBody} (h : TakesFrames s) (ha : AimedHere s a b)
  (hm : (readied s a).ctl.mode ≠ .failsafe)
include h ha hm

/-- WIPE_NOW is done in PARKED alone (R168). -/
theorem wipeNow_answers : ∃ t, exec (.wipeNow a b) s = .next t ∧
    OwnerAnswers 5 (fun u => decide (u.wip.state = .parked)) wantWipe (readied s a) t :=
  ⟨_, rfl, commandEvent_ownerAnswers h ha hm 5 _ wantWipe_restarting⟩

/-- CLEAR_WIPER is done in FAULT alone (R168). -/
theorem clearWiper_answers : ∃ t, exec (.clearWiper a b) s = .next t ∧
    OwnerAnswers 4 (fun u => decide (u.wip.state = .fault)) home (readied s a) t :=
  ⟨_, rfl, commandEvent_ownerAnswers h ha hm 4 _ home_restarting⟩

end

/-- Settles O33: the two commands by the state they find, and the wipe they may leave wanted or claimed. -/
theorem wiperCommandsTakeTheirStates : Obligations.WiperCommandsTakeTheirStates := by
  unfold Obligations.WiperCommandsTakeTheirStates
  intro a b s h ha hm
  obtain ⟨t, ht, hdone, hrefused⟩ := wipeNow_answers h ha hm
  obtain ⟨v, hv, hcleared, hkept⟩ := clearWiper_answers h ha hm
  simp only [decide_eq_true_eq, decide_eq_false_iff_not] at hdone hrefused hcleared hkept
  refine ⟨fun hp hn => ⟨t, ht, ?_⟩, fun hp hy => ⟨t, ht, ?_⟩, fun hp => ⟨t, ht, hrefused hp⟩,
    fun hf => ⟨v, hv, hkept hf⟩, fun hf hh => ⟨v, hv, ?_⟩, fun hf hh he => ?_, fun hf hh he => ⟨v, hv, ?_⟩⟩
  · have hwant : wantWipe (readied s a) = _ := judgeAdmission_of_not (.inr hn)
    rw [← hwant]
    exact hdone hp
  · have hclaim : wantWipe (readied s a) = _ := wantWipe_claims (w := (readied s a).wip) hy
    rw [hclaim] at hdone
    exact hdone hp
  · rw [home_of_away hh] at hcleared
    exact hcleared hf
  · rw [home_of_home hh he] at hcleared
    refine ⟨fun ho => ⟨v, hv, ?_⟩, fun ho hn => ⟨v, hv, ?_⟩, fun ho hy => ⟨v, hv, ?_⟩⟩
    · rw [homed_of_quit ho] at hcleared
      exact hcleared hf
    · rw [homed_of_owing ho, wantWipe_setWip, judgeAdmission_of_not (.inr hn)] at hcleared
      exact hcleared hf
    · rw [homed_of_owing ho, wantWipe_claims hy] at hcleared
      exact hcleared hf
  · rw [home_of_both hh he] at hcleared
    exact hcleared hf

end Sys2Proof.Machine
end

section
/-! Frames of other wipers: what they yield, what they show on the roster, and when the wait for them ends (O30). -/

namespace Sys2Proof.Machine

/-! ### The frames, by where they come from (R161, R173) -/

section
variable {s : State} {a : Src}

/-- A claim from below on the own channel is yielded to (R161). -/
theorem exec_wipeClaimReceived (h : TakesFrames s) : exec (.wipeClaimReceived a) s =
    .next (if (isBankAddress a = true ∧ a.chan.toNat = s.ldr.straps.channel) ∧ a.pos.toNat < s.ldr.straps.position
      then yieldTo (learned s a) a.pos.toNat else learned s a) := by
  have hwhen : (fromOwnChannelBank (learned s a) a && decide (a.pos.toNat < (learned s a).ldr.straps.position)) = true ↔
      (isBankAddress a = true ∧ a.chan.toNat = s.ldr.straps.channel) ∧ a.pos.toNat < s.ldr.straps.position := by
    rw [Bool.and_eq_true, fromOwnChannelBank_iff, decide_eq_true_eq, learned_ldr]
  simp only [← hwhen]
  refine congrArg Host.Outcome.next (frameEvent_of_takes _ h ?_)
  change (if _ then yieldTo (learned s a) a.pos.toNat else learned s a).restarting = s.restarting
  split
  · rw [yieldTo_restarting, learned_restarting]
  · exact learned_restarting s a

theorem learnedWiping_ldr (w : Option Nat) : (learnedWiping s a w).ldr = s.ldr := by simp [learnedWiping]

theorem learnedWiping_restarting (w : Option Nat) : (learnedWiping s a w).restarting = s.restarting := by
  unfold learnedWiping
  rw [settle_restarting]
  rfl

/-- A WIPE_ACTIVE from another position of the own channel is yielded to (R161). -/
theorem exec_wipeActiveReceived (h : TakesFrames s) : exec (.wipeActiveReceived a) s =
    .next (if (isBankAddress a = true ∧ a.chan.toNat = s.ldr.straps.channel) ∧ a.pos.toNat ≠ s.ldr.straps.position
      then yieldTo (learnedWiping s a (some 0)) a.pos.toNat else learnedWiping s a (some 0)) := by
  have hwhen : (fromOwnChannelBank (learnedWiping s a (some 0)) a &&
      decide (a.pos.toNat ≠ (learnedWiping s a (some 0)).ldr.straps.position)) = true ↔
      (isBankAddress a = true ∧ a.chan.toNat = s.ldr.straps.channel) ∧ a.pos.toNat ≠ s.ldr.straps.position := by
    rw [Bool.and_eq_true, fromOwnChannelBank_iff, decide_eq_true_eq, learnedWiping_ldr]
  simp only [← hwhen]
  refine congrArg Host.Outcome.next (frameEvent_of_takes _ h ?_)
  change (if _ then yieldTo (learnedWiping s a (some 0)) a.pos.toNat
    else learnedWiping s a (some 0)).restarting = s.restarting
  split
  · rw [yieldTo_restarting, learnedWiping_restarting]
  · exact learnedWiping_restarting (some 0)

/-- A WIPE_DONE from a bank of the own channel may end the wait (R162). -/
theorem exec_wipeDoneReceived (o : Byte) (h : TakesFrames s) : exec (.wipeDoneReceived a o) s =
    .next (if isBankAddress a = true ∧ a.chan.toNat = s.ldr.straps.channel
      then emptyWaitOn (learnedWiping s a none) a.pos.toNat else learnedWiping s a none) := by
  have hwhen : fromOwnChannelBank (learnedWiping s a none) a = true ↔
      isBankAddress a = true ∧ a.chan.toNat = s.ldr.straps.channel := by
    rw [fromOwnChannelBank_iff, learnedWiping_ldr]
  simp only [← hwhen]
  refine congrArg Host.Outcome.next (frameEvent_of_takes _ h ?_)
  change (if _ then emptyWaitOn (learnedWiping s a none) a.pos.toNat
    else learnedWiping s a none).restarting = s.restarting
  split
  · rw [emptyWaitOn_restarting, learnedWiping_restarting]
  · exact learnedWiping_restarting none

end

/-! ### The indication on the roster (R56) -/

/-- The entries at a source outside LOST. -/
def presentAt (a : Src) (es : List RosterEntry) : List RosterEntry := es.filter fun e => e.foreignAt a && !e.isLost

/-- The entries with the indication of one key set. -/
def indicated (k : EntryKey) (w : Option Nat) (es : List RosterEntry) : List RosterEntry :=
  es.map fun g => if g.hasKey k then { g with wiping := w } else g

/-- What R59 makes of one entry among `es`. -/
def conflictJudged (es : List RosterEntry) (e : RosterEntry) : RosterEntry :=
  if e.stands then { e with state := if 2 ≤ standing es e.chan e.pos then .conflict else .active } else e

theorem judgeConflicts_eq (es : List RosterEntry) : judgeConflicts es = es.map (conflictJudged es) := rfl

/-- Judging an entry leaves where it stands, whether it is LOST, and its key. -/
theorem conflictJudged_keeps (es : List RosterEntry) (e : RosterEntry) (a : Src) :
    (conflictJudged es e).foreignAt a = e.foreignAt a ∧ (conflictJudged es e).isLost = e.isLost ∧
      (conflictJudged es e).key = e.key := by
  unfold conflictJudged
  split
  · rename_i hs
    refine ⟨rfl, ?_, rfl⟩
    have hheld : e.isLost = false := by
      unfold RosterEntry.isLost
      cases hst : e.state <;> simp [RosterEntry.stands, hst] at hs ⊢
    rw [hheld]
    unfold RosterEntry.isLost
    dsimp only
    split <;> rfl
  · exact ⟨rfl, rfl, rfl⟩

theorem presentAt_judgeConflicts (a : Src) (es : List RosterEntry) :
    presentAt a (judgeConflicts es) = (presentAt a es).map (conflictJudged es) := by
  have hsame : ((fun e : RosterEntry => e.foreignAt a && !e.isLost) ∘ conflictJudged es) =
      fun e => e.foreignAt a && !e.isLost := by
    funext e
    obtain ⟨hat, hlost, -⟩ := conflictJudged_keeps es e a
    simp only [Function.comp, hat, hlost]
  rw [judgeConflicts_eq, presentAt, List.filter_map, hsame]
  rfl

/-- The indication is no matter to the conflicts. -/
theorem judgeConflicts_indicated (k : EntryKey) (w : Option Nat) (es : List RosterEntry) :
    judgeConflicts (indicated k w es) = indicated k w (judgeConflicts es) := by
  have hstanding (c p : Nat) : standing (indicated k w es) c p = standing es c p := by
    unfold standing indicated
    rw [List.countP_map]
    refine List.countP_congr fun e _ => ?_
    simp only [Function.comp]
    split <;> rfl
  rw [judgeConflicts_eq, judgeConflicts_eq]
  unfold indicated
  rw [List.map_map, List.map_map]
  refine List.map_congr_left fun e _ => ?_
  have hkey : (conflictJudged es e).hasKey k = e.hasKey k := by unfold conflictJudged; split <;> rfl
  simp only [Function.comp, hkey]
  unfold indicated at hstanding
  unfold conflictJudged
  simp only [hstanding]
  cases hk : e.hasKey k
  · rfl
  · have hstands : ({ e with wiping := w } : RosterEntry).stands = e.stands := rfl
    simp only [if_true, hstands]
    split <;> rfl

theorem Roster.setWiping_of_one {r : Roster} {a : Src} {e : RosterEntry} (w : Option Nat)
    (h : presentAt a r.entries = [e]) : (r.setWiping a w).entries = indicated e.key w r.entries := by
  unfold presentAt at h
  unfold Roster.setWiping
  rw [h]
  rfl

theorem Roster.setWiping_of_other {r : Roster} {a : Src} (w : Option Nat) (h : (presentAt a r.entries).length ≠ 1) :
    r.setWiping a w = r := by
  unfold presentAt at h
  unfold Roster.setWiping
  split
  · rename_i e he
    rw [he] at h
    exact absurd rfl h
  · rfl

/-- The entries once a wipe frame has been learned and the judgements re-made (R53, R56, R59). -/
theorem learnedWiping_entries (s : State) (a : Src) (w : Option Nat) :
    (learnedWiping s a w).ros.entries = judgeConflicts ((s.ros.learnPlain a).setWiping a w).entries :=
  settle_entries _

theorem learned_entries (s : State) (a : Src) :
    (learned s a).ros.entries = judgeConflicts (s.ros.learnPlain a).entries := settle_entries _

/-- The one entry at the source as the frame leaves it shows the indication (R56). -/
theorem learnedWiping_of_one {s : State} {a : Src} (w : Option Nat) {e : RosterEntry}
    (h : presentAt a (learned s a).ros.entries = [e]) :
    (learnedWiping s a w).ros.entries = indicated e.key w (learned s a).ros.entries := by
  rw [learned_entries, presentAt_judgeConflicts] at h
  obtain ⟨g, hg, hge⟩ := List.map_eq_singleton_iff.mp h
  obtain ⟨-, -, hkey⟩ := conflictJudged_keeps (s.ros.learnPlain a).entries g a
  rw [learnedWiping_entries, Roster.setWiping_of_one w hg, judgeConflicts_indicated, learned_entries, ← hge, hkey]

/-- With none or several at the source all stay as learned (R56). -/
theorem learnedWiping_of_other {s : State} {a : Src} (w : Option Nat)
    (h : (presentAt a (learned s a).ros.entries).length ≠ 1) :
    (learnedWiping s a w).ros.entries = (learned s a).ros.entries := by
  rw [learned_entries, presentAt_judgeConflicts, List.length_map] at h
  rw [learnedWiping_entries, Roster.setWiping_of_other w h, learned_entries]

theorem presentAt_eq (a : Src) (es : List RosterEntry) :
    (es.filter (RosterEntry.foreignAt a)).filter (fun e => !e.isLost) = presentAt a es := by
  rw [List.filter_filter, presentAt]
  exact List.filter_congr fun e _ => Bool.and_comm _ _

/-- The one entry at the source before the frame is refreshed by it and shows the indication (R53, R56). -/
theorem learnPlain_setWiping_of_one {r : Roster} {a : Src} (h : isBankAddress a = true ∨ isPlantAddress a = true)
    (w : Option Nat) {e : RosterEntry} (he : presentAt a r.entries = [e]) :
    ((r.learnPlain a).setWiping a w).entries = r.entries.map fun g =>
      if g.hasKey e.key then { g with lastHeard := 0, sinceLost := none, wiping := w } else g := by
  have hlearned := Roster.learnPlain_of_one h ((presentAt_eq a r.entries).trans he)
  have hpresent : presentAt a (r.change e.key RosterEntry.refreshed).entries =
      [if e.hasKey e.key then e.refreshed else e] := by
    have hsame : ((fun g : RosterEntry => g.foreignAt a && !g.isLost) ∘
        fun g : RosterEntry => if g.hasKey e.key then g.refreshed else g) = fun g => g.foreignAt a && !g.isLost := by
      funext g
      simp only [Function.comp]
      split <;> rfl
    unfold presentAt at he
    rw [presentAt, Roster.change, List.filter_map, hsame, he]
    rfl
  have hkey : (if e.hasKey e.key then e.refreshed else e).key = e.key := by split <;> rfl
  rw [hlearned, Roster.setWiping_of_one w hpresent, hkey]
  unfold indicated Roster.change
  rw [List.map_map]
  refine List.map_congr_left fun g _ => ?_
  simp only [Function.comp]
  by_cases hg : g.hasKey e.key = true
  · have hrefreshed : g.refreshed.hasKey e.key = true := hg
    simp only [hg, if_true, hrefreshed]
    rfl
  · simp only [hg, if_false, Bool.false_eq_true]

/-- Several entries at the source before the frame are left alone by it (R53, R56). -/
theorem learnPlain_setWiping_of_many {r : Roster} {a : Src} (h : isBankAddress a = true ∨ isPlantAddress a = true)
    (w : Option Nat) (hmany : 2 ≤ (presentAt a r.entries).length) : (r.learnPlain a).setWiping a w = r := by
  rw [Roster.learnPlain_of_many h (by rw [presentAt_eq]; exact hmany), Roster.setWiping_of_other w (by omega)]

/-! ### The wait ends (R162) -/

/-- The wait record empties, and in WANT the wipe may be admitted (R159, R160, R162). -/
theorem emptyWait_taken (u : State) :
    (u.wip.state ≠ .want ∨ admitted (u.setWip { u.wip with wait := none }) = false →
      emptyWait u = u.setWip { u.wip with wait := none }) ∧
    (u.wip.state = .want → admitted (u.setWip { u.wip with wait := none }) = true → u.bus.queue.length < 12 →
      emptyWait u = (u.setWip { u.wip with
        wait := none, state := .claiming, claim := some u.bus.nextTicket, window := none }).setBus
        (withPosted u .wipeClaim)) :=
  ⟨fun h => judgeAdmission_of_not h, fun hw ha hroom => judgeAdmission_of_room hw ha hroom⟩

/-! ### The statement -/

/-- What a yielding bank does, by the state of its wiper (R161, R167). -/
theorem yieldTo_taken (u : State) (p : Nat) :
    (u.wip.state = .want → yieldTo u p = u.setWip { u.wip with wait := some ⟨p, 120000⟩ }) ∧
    (u.wip.state = .claiming → yieldTo u p = (u.setWip { u.wip with
      state := .want, claim := none, window := none, wait := some ⟨p, 120000⟩
      withdrawals := bump16 u.wip.withdrawals }).setBus (claimTakenBack u.bus u.wip.claim)) ∧
    (u.wip.state ≠ .want → u.wip.state ≠ .claiming → yieldTo u p = u) :=
  ⟨yieldTo_of_want p, yieldTo_of_claiming p, yieldTo_of_others p⟩

/-- Settles O30: the frames by their source, the indication by the entries there, and the end of the wait. -/
theorem wipesOfOthersAreWaitedFor : Obligations.WipesOfOthersAreWaitedFor := by
  unfold Obligations.WipesOfOthersAreWaitedFor
  refine ⟨⟨fun a s h => ⟨⟨_, exec_wipeClaimReceived h, fun hown hp => ?_, fun hnot => ?_⟩,
    ⟨_, exec_wipeActiveReceived h, fun hown hp => ?_, fun hnot => ?_⟩⟩, fun a w s => ⟨fun e he => ?_, fun hn => ?_,
      fun h => ⟨fun e he => ?_, fun hmany => ?_⟩⟩⟩, fun s hr hw => ?_, fun a o s h => ?_⟩
  · rw [if_pos ⟨hown, hp⟩]
    exact yieldTo_taken _ _
  · exact if_neg fun hc => hnot.elim (· hc.1) (Nat.not_le.mpr hc.2)
  · rw [if_pos ⟨hown, hp⟩]
    exact yieldTo_taken _ _
  · exact if_neg fun hc => hnot.elim (· hc.1) hc.2
  · exact learnedWiping_of_one w he
  · exact learnedWiping_of_other w hn
  · rw [learnedWiping_entries, learnPlain_setWiping_of_one h w he]
  · rw [learnedWiping_entries, learnPlain_setWiping_of_many h w hmany]
  · exact ⟨_, exec_waitRecordExpiry hr hw, emptyWait_wait s, emptyWait_taken s⟩
  · obtain ⟨-, -, hstays⟩ := emptyWaitOn_spec (learnedWiping s a none) a.pos.toNat
    refine ⟨_, exec_wipeDoneReceived o h, fun ⟨hbank, hchan, hpos⟩ => ?_, fun hnot => ?_⟩
    · rw [if_pos ⟨hbank, hchan⟩, emptyWaitOn_of_held hpos]
      exact ⟨emptyWait_wait _, emptyWait_taken _⟩
    · split
      · rename_i hown
        exact hstays fun hpos => hnot ⟨hown.1, hown.2, hpos⟩
      · rfl

end Sys2Proof.Machine
end

section
/-! What drives the wiper, and what the two limits and the two timers make of it in every state (O53). -/

namespace Sys2Proof.Machine

/-! ### The outputs (R155) -/

theorem wfwd_iff (s : State) : wfwd s = true ↔ s.hold.held = false ∧ s.wip.state = .strokeOut := by
  simp [wfwd]

theorem wrev_iff (s : State) : wrev s = true ↔ s.hold.held = false ∧
    (s.wip.state = .strokeBack ∨ (s.wip.state = .homing ∧ s.wip.whome = false)) := by
  simp [wrev]

/-- The two outputs name different states. -/
theorem not_wfwd_and_wrev (s : State) : ¬ (wfwd s = true ∧ wrev s = true) := by
  rw [wfwd_iff, wrev_iff]
  rintro ⟨⟨-, hout⟩, -, hback | ⟨hhoming, -⟩⟩
  · exact absurd (hout.symm.trans hback) (by decide)
  · exact absurd (hout.symm.trans hhoming) (by decide)

/-! ### The limits at a part that runs (R155) -/

/-- What has not stood for 10 ms is no change (R155). -/
theorem exec_limit_of_short {ms : Nat} (s : State) (hms : ms < 10) :
    exec (.whomeActive ms) s = .next s ∧ exec (.whomeInactive ms) s = .next s ∧
      ∀ b, exec (.wendActive b ms) s = .next s :=
  ⟨congrArg Host.Outcome.next (onceStood_of_lt s _ hms), congrArg Host.Outcome.next (onceStood_of_lt s _ hms),
    fun _ => congrArg Host.Outcome.next (onceStood_of_lt s _ hms)⟩

theorem wendReached_restarting (s : State) : (wendReached s).restarting = s.restarting := by
  unfold wendReached
  split
  · exact limitsTogether_restarting s
  · split <;> rfl

theorem whomeReached_restarting (s : State) : (whomeReached s).restarting = s.restarting := by
  unfold whomeReached
  split
  · exact limitsTogether_restarting s
  · split
    · exact homed_restarting s
    · exact strokeDone_restarting s
    · rfl

/-- The part with the filtered level of WEND active. -/
def atEnd (s : State) : State := s.setWip { s.wip with wend := true }

/-- The part with the filtered level of WHOME active. -/
def atHome (s : State) : State := s.setWip { s.wip with whome := true }

section
variable {ms : Nat} {s : State} (h : Runs s) (hms : 10 ≤ ms)
include h hms

theorem exec_whomeInactive : exec (.whomeInactive ms) s = .next (s.setWip { s.wip with
    whome := false, release := if s.wip.state = .strokeOut then none else s.wip.release }) :=
  congrArg Host.Outcome.next ((onceStood_of_le s _ hms).trans (outsideReset_of_run _ h.1))

/-- WEND reported as it stands is no change (log 7). -/
theorem exec_wendActive_of_same {b : Bool} (he : s.wip.wend = b) : exec (.wendActive b ms) s = .next s := by
  refine congrArg Host.Outcome.next ((onceStood_of_le s _ hms).trans ((event_of_runs _ h ?_).trans (if_pos he)))
  rw [if_pos he]

theorem exec_wendActive_of_left (he : s.wip.wend = true) :
    exec (.wendActive false ms) s = .next (s.setWip { s.wip with wend := false }) := by
  have hne : ¬ s.wip.wend = false := by simp [he]
  refine congrArg Host.Outcome.next ((onceStood_of_le s _ hms).trans ((event_of_runs _ h ?_).trans (if_neg hne)))
  rw [if_neg hne]
  rfl

theorem exec_wendActive_of_reached (he : s.wip.wend = false) :
    exec (.wendActive true ms) s = .next (wendReached (atEnd s)) := by
  have hne : ¬ s.wip.wend = true := by simp [he]
  refine congrArg Host.Outcome.next ((onceStood_of_le s _ hms).trans ((event_of_runs _ h ?_).trans (if_neg hne)))
  rw [if_neg hne]
  exact wendReached_restarting _

theorem exec_whomeActive_of_same (hh : s.wip.whome = true) : exec (.whomeActive ms) s = .next s := by
  refine congrArg Host.Outcome.next ((onceStood_of_le s _ hms).trans ((event_of_runs _ h ?_).trans (if_pos hh)))
  rw [if_pos hh]

theorem exec_whomeActive_of_reached (hh : s.wip.whome = false) :
    exec (.whomeActive ms) s = .next (whomeReached (atHome s)) := by
  have hne : ¬ s.wip.whome = true := by simp [hh]
  refine congrArg Host.Outcome.next ((onceStood_of_le s _ hms).trans ((event_of_runs _ h ?_).trans (if_neg hne)))
  rw [if_neg hne]
  exact whomeReached_restarting _

end

/-! ### What a limit reached does, by the state of the wiper (R156, R164, R165) -/

section
variable {s : State}

theorem wendReached_of_home (hh : s.wip.whome = true) : wendReached s = limitsTogether s := if_pos hh

theorem wendReached_of_out (hh : s.wip.whome = false) (hs : s.wip.state = .strokeOut) : wendReached s = turnBack s := by
  unfold wendReached
  rw [if_neg (by simp [hh]), if_pos hs]

theorem wendReached_of_others (hh : s.wip.whome = false) (hs : s.wip.state ≠ .strokeOut) : wendReached s = s := by
  unfold wendReached
  rw [if_neg (by simp [hh]), if_neg hs]

theorem whomeReached_of_end (he : s.wip.wend = true) : whomeReached s = limitsTogether s := if_pos he

theorem whomeReached_of_homing (he : s.wip.wend = false) (hs : s.wip.state = .homing) : whomeReached s = homed s := by
  unfold whomeReached
  rw [if_neg (by simp [he]), hs]

theorem whomeReached_of_back (he : s.wip.wend = false) (hs : s.wip.state = .strokeBack) :
    whomeReached s = strokeDone s := by
  unfold whomeReached
  rw [if_neg (by simp [he]), hs]

theorem whomeReached_of_others (he : s.wip.wend = false) (hb : s.wip.state ≠ .strokeBack)
    (hh : s.wip.state ≠ .homing) : whomeReached s = s := by
  unfold whomeReached
  rw [if_neg (by simp [he])]
  split
  · exact absurd ‹_› hh
  · exact absurd ‹_› hb
  · rfl

/-- A stroke completed is told and counted, the interval starts again, and every reference is armed (R165). -/
theorem strokeDone_of_room (hroom : s.bus.queue.length < 12) : strokeDone s = ((s.setWip { s.wip with
    state := .parked, stroke := none, release := none, interval := some 0, strokes := bump16 s.wip.strokes }).setBus
    (withPosted s (.wipeDone 0))).setScn { s.scn with
      scan := s.scn.scan.map (· + 1), refs := s.scn.refs.map fun r => { r with armed := true, postCount := 0 } } := by
  unfold strokeDone
  simp only
  rw [post_eq_withPosted _ (by exact hroom)]
  rfl

/-- Both limits active, by the state of the wiper: `w` is the wiper with both (R156, R164–R166). -/
theorem limitsTogether_taken {w : Wiper} (hroom : s.bus.queue.length < 12) (hstate : w.state = s.wip.state)
    (hclaim : w.claim = s.wip.claim) (hwindow : w.window = s.wip.window) :
    (s.wip.state = .homing ∨ s.wip.state = .parked ∨ s.wip.state = .want →
      limitsTogether (s.setWip w) = s.setWip w.faulted) ∧
    (s.wip.state = .claiming → limitsTogether (s.setWip w) = (s.setWip w.faulted).setBus (if s.wip.window.isSome
      then withPosted (s.setBus (claimTakenBack s.bus s.wip.claim)) (.wipeDone 1)
      else claimTakenBack s.bus s.wip.claim)) ∧
    (s.wip.state = .strokeOut ∨ s.wip.state = .strokeBack → limitsTogether (s.setWip w) =
      ((s.setWip w.faulted).setBus (withPosted s (.wipeDone 1))).setScn
        { s.scn with scan := s.scn.scan.map (· + 1) }) ∧
    (s.wip.state = .absent ∨ s.wip.state = .fault → limitsTogether (s.setWip w) = s.setWip w) := by
  rw [← hstate, ← hclaim, ← hwindow]
  refine ⟨fun hs => limitsTogether_of_rest hs, fun hs => limitsTogether_of_claiming (s := s.setWip w) hs hroom,
    fun hs => ?_, fun hs => limitsTogether_of_out hs⟩
  rw [limitsTogether_of_stroke (s := s.setWip w) hs, strokeFault_of_room (s := s.setWip w) hroom]
  rfl

end

/-! ### The stroke timer and the release timer (R156, R164, R165) -/

/-- What the 40 s of the stroke timer end: homing, or the stroke (R156, R164, R165). -/
def strokeTimedOut (s : State) : State :=
  match s.wip.state with
  | .homing => s.setWip s.wip.faulted
  | .strokeOut | .strokeBack => strokeFault s
  | _ => s

section
variable {s : State}

theorem strokeTimedOut_restarting (s : State) : (strokeTimedOut s).restarting = s.restarting := by
  unfold strokeTimedOut
  split
  · rfl
  · exact strokeFault_restarting s
  · exact strokeFault_restarting s
  · rfl

theorem strokeTimedOut_of_stroke (hs : s.wip.state = .strokeOut ∨ s.wip.state = .strokeBack) :
    strokeTimedOut s = strokeFault s := by
  unfold strokeTimedOut
  rcases hs with hs | hs <;> rw [hs]

theorem strokeTimedOut_of_homing (hs : s.wip.state = .homing) : strokeTimedOut s = s.setWip s.wip.faulted := by
  unfold strokeTimedOut
  rw [hs]

theorem strokeTimedOut_of_others (hs : ¬ (s.wip.state = .strokeOut ∨ s.wip.state = .strokeBack))
    (hh : s.wip.state ≠ .homing) : strokeTimedOut s = s := by
  unfold strokeTimedOut
  split
  · exact absurd ‹_› hh
  · exact absurd (.inl ‹_›) hs
  · exact absurd (.inr ‹_›) hs
  · rfl

theorem exec_strokeTimerExpiry (h : Runs s) : exec .strokeTimerExpiry s =
    .next (if s.wip.stroke.isSome = true then strokeTimedOut s else s) := by
  refine congrArg Host.Outcome.next (event_of_runs _ h ?_)
  change (if s.wip.stroke.isSome = true then strokeTimedOut s else s).restarting = s.restarting
  split
  · exact strokeTimedOut_restarting s
  · rfl

theorem exec_releaseTimerExpiry (h : Runs s) : exec .releaseTimerExpiry s =
    .next (if s.wip.state = .strokeOut ∧ s.wip.release.isSome = true then strokeFault s else s) := by
  have hwhen : (decide (s.wip.state = .strokeOut) && s.wip.release.isSome) = true ↔
      s.wip.state = .strokeOut ∧ s.wip.release.isSome = true := by simp
  simp only [← hwhen]
  refine congrArg Host.Outcome.next (event_of_runs _ h ?_)
  split
  · exact strokeFault_restarting s
  · rfl

end

/-! ### The statement -/

/-- Settles O53: the outputs, the 10 ms, each limit by the state it finds, and the two timers. -/
theorem limitsAndTimersEndTheDrive : Obligations.LimitsAndTimersEndTheDrive := by
  unfold Obligations.LimitsAndTimersEndTheDrive
  refine ⟨fun s => ⟨wfwd_iff s, wrev_iff s, not_wfwd_and_wrev s⟩, fun ms s hms => exec_limit_of_short s hms,
    fun ms s h hroom hms => ⟨exec_whomeInactive h hms, exec_wendActive_of_left h hms,
      fun b => exec_wendActive_of_same h hms, fun he hh hs => ?_, fun he hh hs => ?_, fun he hh => ?_,
      exec_whomeActive_of_same h hms, fun hh he => ?_, fun he hh hs => ?_, fun he hh hs ho => ?_,
      fun he hh hs ho => ⟨fun hn => ?_, fun hy => ?_⟩, fun he hh hb hs => ?_, fun ht hs => ?_, fun ht hs => ?_,
      fun hnone => ?_, fun hs ht => ?_, fun hnone => ?_⟩⟩
  · rw [exec_wendActive_of_reached h hms he, wendReached_of_out (s := atEnd s) hh hs]
    rfl
  · rw [exec_wendActive_of_reached h hms he, wendReached_of_others (s := atEnd s) hh hs]
    rfl
  · rw [exec_wendActive_of_reached h hms he, wendReached_of_home (s := atEnd s) hh]
    exact ⟨_, rfl, limitsTogether_taken hroom rfl rfl rfl⟩
  · rw [exec_whomeActive_of_reached h hms hh, whomeReached_of_end (s := atHome s) he]
    exact ⟨_, rfl, limitsTogether_taken hroom rfl rfl rfl⟩
  · rw [exec_whomeActive_of_reached h hms hh, whomeReached_of_back (s := atHome s) he hs,
      strokeDone_of_room (s := atHome s) hroom]
    rfl
  · rw [exec_whomeActive_of_reached h hms hh, whomeReached_of_homing (s := atHome s) he hs,
      homed_of_quit (s := atHome s) ho]
    simp [atHome, ho]
  · rw [exec_whomeActive_of_reached h hms hh, whomeReached_of_homing (s := atHome s) he hs,
      homed_of_owing (s := atHome s) ho]
    exact congrArg Host.Outcome.next (judgeAdmission_of_not (.inr hn))
  · rw [exec_whomeActive_of_reached h hms hh, whomeReached_of_homing (s := atHome s) he hs,
      homed_of_owing (s := atHome s) ho]
    exact congrArg Host.Outcome.next (judgeAdmission_of_room rfl hy hroom)
  · rw [exec_whomeActive_of_reached h hms hh, whomeReached_of_others (s := atHome s) he hb hs]
    rfl
  · rw [exec_strokeTimerExpiry h, if_pos ht, strokeTimedOut_of_stroke hs, strokeFault_of_room hroom]
    rfl
  · rw [exec_strokeTimerExpiry h, if_pos ht, strokeTimedOut_of_homing hs]
    rfl
  · rw [exec_strokeTimerExpiry h]
    rcases hnone with hstopped | ⟨hs, hh⟩
    · rw [if_neg (by simp [hstopped])]
    · rw [strokeTimedOut_of_others hs hh, ite_self]
  · rw [exec_releaseTimerExpiry h, if_pos ⟨hs, ht⟩, strokeFault_of_room hroom]
    rfl
  · rw [exec_releaseTimerExpiry h, if_neg]
    rintro ⟨hs, ht⟩
    rcases hnone with hout | hstopped
    · exact hout hs
    · simp [hstopped] at ht

end Sys2Proof.Machine
end

section
/-! Every command and every millisecond keep the transmit queue sound (O56). -/

namespace Sys2Proof.Machine

/-! ### What the events ask of their blocks -/

section
variable {s : State} {f : State → State}

theorem ite_transmit {t : State} {p : Prop} [Decidable p] (hs : TransmitInv s) (ht : TransmitInv t) :
    TransmitInv (if p then t else s) := by
  split <;> assumption

/-- An event that leaves the waiting frames alone. -/
theorem outsideReset_transmit_of_queue (h : TransmitInv s) (hf : (f s).bus.queue = s.bus.queue) :
    TransmitInv (outsideReset s f) :=
  outsideReset_transmit _ _ h fun h => transmitInv_of_bus h hf

theorem event_transmit_of_queue (h : TransmitInv s) (hf : (f s).bus.queue = s.bus.queue) :
    TransmitInv (event s f) :=
  event_transmit _ _ h fun h => transmitInv_of_bus h hf

theorem ite_queue {t : State} {p : Prop} [Decidable p] (h : t.bus.queue = s.bus.queue) :
    (if p then t else s).bus.queue = s.bus.queue := by
  split
  · exact h
  · rfl

/-- Characters read from the line do not move the waiting frames (R171). -/
theorem readLine_transmit (g : Bus → Bus) (h : TransmitInv s) (hg : ∀ b, (g b).queue = b.queue) :
    TransmitInv (readLine s g) :=
  outsideReset_transmit_of_queue h (ite_queue (hg _))

theorem settleRos_transmit (r : Roster) (h : TransmitInv s) : TransmitInv (settle (s.setRos r)) :=
  settle_transmit _ h

end

/-! ### Lamps, ballasts and lockouts stay clear of the bus -/

section
variable (s : State)

theorem goodReply_queue (v : Visit) (r : BallastReply) : (goodReply s v r).bus.queue = s.bus.queue := by
  unfold goodReply
  simp only
  split <;> simp

theorem missedReply_queue (v : Visit) : (missedReply s v).bus.queue = s.bus.queue := by
  unfold missedReply
  simp only
  split
  · simp
  · split <;> simp
  · split <;> simp

theorem strikeBoundary_queue (i : Nat) : (strikeBoundary s i).bus.queue = s.bus.queue := by
  unfold strikeBoundary; split
  · split <;> simp
  · rfl

theorem putOut_queue : (putOut s).bus.queue = s.bus.queue := by
  unfold putOut; split <;> simp

theorem lockModule_queue (m : Nat) : (lockModule s m).bus.queue = s.bus.queue := by simp [lockModule]

theorem unlockLamp_queue (i : Nat) : (unlockLamp s i).bus.queue = s.bus.queue := by
  unfold unlockLamp; split
  · split <;> simp
  · rfl

theorem statusWatermark_queue (a : Src) (b : StatusBody) : (statusWatermark s a b).bus.queue = s.bus.queue :=
  ite_queue rfl

theorem noteBreak_queue (head : Option Nat) (a : Src) (b : JoinBody) :
    (noteBreak s head a b).bus.queue = s.bus.queue := ite_queue rfl

end

/-! ### Reset and supply: a reset empties the queue, the release leaves it -/

section
variable {s : State}

theorem takeSupply_transmit (mv : Nat) (h : TransmitInv s) : TransmitInv (takeSupply s mv) := by
  unfold takeSupply
  simp only
  split
  · exact h
  · split
    · exact takeReset_transmit _ _
    · exact h

theorem releaseReset_transmit (p : ResetPins) (h : TransmitInv s) : TransmitInv (releaseReset s p) := by
  unfold releaseReset releaseWiper
  simp only
  split
  · exact home_transmit _ h
  · exact h

theorem releaseOrHold_transmit (p : ResetPins) (h : TransmitInv s) :
    TransmitInv (if causeStands (takeLevels s p) then takeLevels s p else releaseReset (takeLevels s p) p) := by
  have hl : TransmitInv (takeLevels s p) := takeSupply_transmit p.supply h
  split
  · exact hl
  · exact releaseReset_transmit p hl

/-! ### The wiper's limits -/

theorem wendReached_transmit (h : TransmitInv s) : TransmitInv (wendReached s) := by
  unfold wendReached; split
  · exact limitsTogether_transmit s h
  · exact ite_transmit h h

theorem whomeReached_transmit (h : TransmitInv s) : TransmitInv (whomeReached s) := by
  unfold whomeReached; split
  · exact limitsTogether_transmit s h
  · split
    · exact homed_transmit s h
    · exact strokeDone_transmit s h
    · exact h

/-! ### The line -/

theorem completed_transmit (x : InFlight) (h : TransmitInv s) :
    TransmitInv (handlerTold (claimSent (s.setBus (s.bus.complete x)) x.frame.ticket) x.frame.ticket) :=
  handlerTold_transmit _ _ (transmitInv_of_bus h (ite_queue rfl))

theorem collided_transmit (x : InFlight) (asm : Assembler) (h : TransmitInv s) :
    TransmitInv (giveUpAll (s.setBus (s.bus.collide x asm).bus) (s.bus.collide x asm).givenUp) :=
  giveUpAll_transmit _ _ (Bus.collide_sound s.bus x asm h)

end

/-! ### Every command, and a millisecond -/

/-- Every command keeps the transmit queue sound: by the operations of its meaning. -/
theorem exec_transmit (c : Instr) (s : State) (h : TransmitInv s) : ∃ t, exec c s = .next t ∧ TransmitInv t := by
  cases c with
  | supplyBelowReset mv | supplyLowChange mv => exact ⟨_, rfl, takeSupply_transmit mv h⟩
  | resetnLow us => exact ⟨_, rfl, onceStood_keeps h (by split; exacts [h, takeReset_transmit _ _])⟩
  | resetRelease pins => exact ⟨_, rfl, ite_transmit h (releaseOrHold_transmit pins h)⟩
  | cfgBusError =>
    exact ⟨_, rfl, event_transmit _ _ h fun h => ite_transmit h (ite_transmit h (enterFailsafe_transmit _ _ h))⟩
  | imageReadComplete image =>
    refine ⟨_, rfl, event_transmit _ _ h fun h => ite_transmit h ?_⟩
    split
    · exact enterFailsafe_transmit _ _ h
    · exact enterListen_transmit _ _ _ h
  | listenEnd =>
    exact ⟨_, rfl, event_transmit _ _ h fun h => ite_transmit h (releaseHeld_transmit _ (listenOver_transmit s h))⟩
  | accrualTimerExpiry =>
    exact ⟨_, rfl, event_transmit _ _ h fun h => ite_transmit h (closeExpiry_transmit _ _ (accrue_transmit _ h))⟩
  | statusTimerExpiry =>
    exact ⟨_, rfl, event_transmit _ _ h fun h => ite_transmit h (post_transmit _ _ h)⟩
  | flowTimerExpiry | uvtTimerExpiry =>
    exact ⟨_, rfl, event_transmit _ _ h fun h => ite_transmit h (ite_transmit h (post_transmit _ _ h))⟩
  | flowSourceLapse => exact ⟨_, rfl, event_transmit _ _ h fun h => ite_transmit h (flowChanged_transmit _ h)⟩
  | holdTimerExpiry => exact ⟨_, rfl, event_transmit _ _ h fun h => ite_transmit h (followHold_transmit _ h)⟩
  | flowSourceDupClear | uvtSourceDupClear | pendingBreakExpiry | dayTimerExpiry | runMinute _ =>
    exact ⟨_, rfl, outsideReset_transmit_of_queue h rfl⟩
  | uvtSourceLapse | pollCycleDue | warmupEnd _ | coolingEnd _ | strikeSpacingExpiry | scanStart | servedFlagClear =>
    exact ⟨_, rfl, outsideReset_transmit_of_queue h (ite_queue (by simp))⟩
  | strikeAttemptExpiry lamp =>
    exact ⟨_, rfl, outsideReset_transmit_of_queue h (ite_queue (by simp [strikeBoundary_queue]))⟩
  | extinguishHoldoffExpiry =>
    exact ⟨_, rfl, outsideReset_transmit_of_queue h (ite_queue (by simp [putOut_queue]))⟩
  | rosterEntryLost key =>
    exact ⟨_, rfl, event_transmit _ _ h fun h =>
      ite_transmit h (freeWait_transmit _ _ _ (settleRos_transmit _ h))⟩
  | rosterEntryRemove key =>
    exact ⟨_, rfl, event_transmit _ _ h fun h => ite_transmit h (settleRos_transmit _ h)⟩
  | restartTimeout =>
    exact ⟨_, rfl, outsideReset_transmit _ _ h fun h => ite_transmit h (takeReset_transmit _ _)⟩
  | rxFrameBroken run => exact ⟨_, rfl, readLine_transmit _ h fun b => b.takeRun_queue run⟩
  | rxFrameRejected run => exact ⟨_, rfl, readLine_transmit _ h fun b => by simp⟩
  | idleMarkZeroCharacter c => exact ⟨_, rfl, readLine_transmit _ h fun b => b.takeChar_queue c⟩
  | quietGapEnd =>
    refine ⟨_, rfl, outsideReset_transmit_of_queue h ?_⟩
    simp only
    split <;> simp
  | transmitStart elapsed =>
    exact ⟨_, rfl, outsideReset_transmit _ _ h fun h => ite_transmit h (Bus.begin_sound s.bus h)⟩
  | transmitComplete read =>
    refine ⟨_, rfl, event_transmit _ _ h fun h => ?_⟩
    split
    · exact ite_transmit h (completed_transmit _ h)
    · exact h
  | collision read =>
    refine ⟨_, rfl, event_transmit _ _ h fun h => ?_⟩
    split
    · exact ite_transmit h (collided_transmit _ _ h)
    · exact h
  | formatErrorFrame src =>
    refine ⟨_, rfl, event_transmit _ _ h fun h => ?_⟩
    simp only
    split
    · exact h
    · exact learnSource_transmit _ _ h
  | joinReceived src b =>
    exact ⟨_, rfl, frameEvent_transmit _ _ h fun t h =>
      transmitInv_of_bus (settleRos_transmit _ h) (noteBreak_queue _ _ _ _)⟩
  | statusReceived src b =>
    exact ⟨_, rfl, frameEvent_transmit _ _ h fun t h =>
      transmitInv_of_bus (settleRos_transmit _ h) (statusWatermark_queue _ _ _)⟩
  | flowReceived src b =>
    exact ⟨_, rfl, frameEvent_transmit _ _ h fun t h =>
      have hl := learnSource_transmit t src h
      ite_transmit hl (flowChanged_transmit _ (transmitInv_of_bus hl (by simp)))⟩
  | uvtReceived src _ | parcelReceived src _ =>
    exact ⟨_, rfl, frameEvent_transmit _ _ h fun t h =>
      transmitInv_of_bus (learnSource_transmit t src h) (ite_queue (by simp))⟩
  | dischargeReceived src _ | reportReceived src =>
    exact ⟨_, rfl, frameEvent_transmit _ _ h fun t h => learnSource_transmit t src h⟩
  | leaveReceived src reason =>
    refine ⟨_, rfl, frameEvent_transmit _ _ h fun t h => ?_⟩
    split
    · exact settleRos_transmit _ h
    · have hs := settleRos_transmit (t.ros.leaveFrom src) h
      exact ite_transmit hs (freeWait_transmit _ _ _ hs)
  | wipeClaimReceived src =>
    exact ⟨_, rfl, frameEvent_transmit _ _ h fun t h =>
      have hl := learnSource_transmit t src h
      ite_transmit hl (yieldTo_transmit _ _ hl)⟩
  | wipeActiveReceived src =>
    exact ⟨_, rfl, frameEvent_transmit _ _ h fun t h =>
      have hl := settleRos_transmit ((t.ros.learnPlain src).setWiping src (some 0)) h
      ite_transmit hl (yieldTo_transmit _ _ hl)⟩
  | wipeDoneReceived src _ =>
    exact ⟨_, rfl, frameEvent_transmit _ _ h fun t h =>
      have hl := settleRos_transmit ((t.ros.learnPlain src).setWiping src none) h
      ite_transmit hl (emptyWaitOn_transmit _ _ hl)⟩
  | clearLamp _ _ | clearBallast _ _ | clearSensor _ _ =>
    exact ⟨_, rfl, commandEvent_transmit _ _ _ _ h fun t h =>
      applyCommand_transmit _ _ _ _ h fun h => transmitInv_of_bus h (by simp)⟩
  | clearWiper _ _ =>
    exact ⟨_, rfl, commandEvent_transmit _ _ _ _ h fun t h =>
      applyCommand_transmit _ _ _ _ h (home_transmit t)⟩
  | wipeNow _ _ =>
    exact ⟨_, rfl, commandEvent_transmit _ _ _ _ h fun t h =>
      applyCommand_transmit _ _ _ _ h (wantWipe_transmit t)⟩
  | restart src b =>
    refine ⟨_, rfl, commandEvent_transmit _ _ _ _ h fun t h => ?_⟩
    split
    · exact takeReset_transmit _ _
    · exact post_transmit _ _ (post_transmit _ _ h)
  | query src b =>
    refine ⟨_, rfl, commandEvent_transmit _ _ _ _ h fun t h => ?_⟩
    split
    · exact h
    · exact beginReply_transmit _ _ _ _ h
  | commandOtherCode src code b =>
    exact ⟨_, rfl, commandEvent_transmit _ _ _ _ h fun t h => answer_transmit t code outcomeRefused h⟩
  | ballastGoodReply reply =>
    refine ⟨_, rfl, outsideReset_transmit_of_queue h ?_⟩
    split
    · exact goodReply_queue _ _ _
    · rfl
  | ballastMiss reply =>
    refine ⟨_, rfl, outsideReset_transmit_of_queue h ?_⟩
    split
    · exact missedReply_queue _ _
    · rfl
  | lockoutOpen m ms =>
    refine ⟨_, rfl, onceStood_keeps h (outsideReset_transmit_of_queue h ?_)⟩
    split
    · rfl
    · exact ite_queue (by simp [lockModule_queue])
  | lockoutClose m ms =>
    refine ⟨_, rfl, onceStood_keeps h (outsideReset_transmit_of_queue h (ite_queue ?_))⟩
    simp only
    split <;> simp [unlockLamp_queue]
  | scanComplete raw fdir =>
    exact ⟨_, rfl, event_transmit _ _ h fun h => ite_transmit h (completeScan_transmit _ _ _ h)⟩
  | wipeIntervalExpiry => exact ⟨_, rfl, event_transmit _ _ h fun h => ite_transmit h (requestWipe_transmit _ h)⟩
  | claimWindowExpiry => exact ⟨_, rfl, event_transmit _ _ h fun h => ite_transmit h (startStroke_transmit _ h)⟩
  | waitRecordExpiry => exact ⟨_, rfl, event_transmit _ _ h fun h => ite_transmit h (emptyWait_transmit _ h)⟩
  | wendActive active ms =>
    refine ⟨_, rfl, onceStood_keeps h (event_transmit _ _ h fun h => ?_)⟩
    split
    · exact h
    · exact ite_transmit h (wendReached_transmit h)
  | whomeActive ms =>
    refine ⟨_, rfl, onceStood_keeps h (event_transmit _ _ h fun h => ?_)⟩
    split
    · exact h
    · exact whomeReached_transmit h
  | whomeInactive ms => exact ⟨_, rfl, onceStood_keeps h (outsideReset_transmit_of_queue h rfl)⟩
  | strokeTimerExpiry =>
    refine ⟨_, rfl, event_transmit _ _ h fun h => ite_transmit h ?_⟩
    split
    · exact h
    · exact strokeFault_transmit s h
    · exact strokeFault_transmit s h
    · exact h
  | releaseTimerExpiry => exact ⟨_, rfl, event_transmit _ _ h fun h => ite_transmit h (strokeFault_transmit s h)⟩

theorem tick_transmit (s : State) (h : TransmitInv s) : TransmitInv (tick s) := by
  unfold tick; split <;> exact h

/-- Settles O56: a step is a command or a millisecond, and both keep the queue. -/
theorem stepsKeepTheTransmitQueue : Obligations.StepsKeepTheTransmitQueue := by
  unfold Obligations.StepsKeepTheTransmitQueue
  exact step_keeps (fun _ _ h => h) tick_transmit exec_transmit

end Sys2Proof.Machine
end

section
/-! Every built frame is read back as its command, and is driven bit by bit as its characters (O54). -/

namespace Sys2Proof.Machine

/-! ### Byte order (section 10): the bytes of a word spell it -/

@[simp] theorem be16_bytes (x : BitVec 16) : be16 (hi8 x) (lo8 x) = x :=
  have whole : x.extractLsb' 8 8 ++ x.extractLsb' 0 8 = x.extractLsb' 0 16 :=
    BitVec.extractLsb'_append_extractLsb'_eq_extractLsb' rfl
  whole.trans BitVec.extractLsb'_eq_self

@[simp] theorem be24_bytes (x : BitVec 24) :
    be24 (x.extractLsb' 16 8) (x.extractLsb' 8 8) (x.extractLsb' 0 8) = x := by
  have upper : x.extractLsb' 16 8 ++ x.extractLsb' 8 8 = x.extractLsb' 8 16 :=
    BitVec.extractLsb'_append_extractLsb'_eq_extractLsb' rfl
  have whole : x.extractLsb' 8 16 ++ x.extractLsb' 0 8 = x.extractLsb' 0 24 :=
    BitVec.extractLsb'_append_extractLsb'_eq_extractLsb' rfl
  unfold be24
  rw [upper, whole, BitVec.extractLsb'_eq_self]

@[simp] theorem be32_bytes (x : BitVec 32) :
    be32 (x.extractLsb' 24 8) (x.extractLsb' 16 8) (x.extractLsb' 8 8) (x.extractLsb' 0 8) = x := by
  have upper : x.extractLsb' 24 8 ++ x.extractLsb' 16 8 = x.extractLsb' 16 16 :=
    BitVec.extractLsb'_append_extractLsb'_eq_extractLsb' rfl
  have lower : x.extractLsb' 16 16 ++ x.extractLsb' 8 8 = x.extractLsb' 8 24 :=
    BitVec.extractLsb'_append_extractLsb'_eq_extractLsb' rfl
  have whole : x.extractLsb' 8 24 ++ x.extractLsb' 0 8 = x.extractLsb' 0 32 :=
    BitVec.extractLsb'_append_extractLsb'_eq_extractLsb' rfl
  unfold be32
  rw [upper, lower, whole, BitVec.extractLsb'_eq_self]

/-- Byte 0 is the type code over the channel (R186). -/
theorem headByte_parts (ty chan : BitVec 4) :
    (ty ++ chan).extractLsb' 4 4 = ty ∧ (ty ++ chan).extractLsb' 0 4 = chan := by
  revert ty chan; decide +kernel

/-! ### The receiver's judgement of a built frame (R172, R186, R187) -/

/-- No body is longer than 48 bytes where a REPORT carries up to 43 bytes of records. -/
theorem bodyBytes_length_le (body : Body) (h : ∀ r, body = .report r → r.records.length ≤ 43) :
    body.bytes.length ≤ 48 := by
  cases body with
  | report r => have := h r rfl; simp [Body.bytes]; omega
  | _ => simp [Body.bytes, bytes16, bytes24, bytes32]

/-- The body bytes of every type are measured and read as its command (R186, R187). -/
theorem acceptedFrame_bytes (src : Src) (body : Body) :
    acceptedFrame body.typeCode src body.bytes = some (body.received src) := by
  cases body <;> simp [acceptedFrame, Body.typeCode, Body.bytes, Body.received, bytes16, bytes24, bytes32]

/-- A built frame passes on length and CRC, and is what its type and body say (R172). -/
theorem judgeFrame_frameBytes (src : Src) (body : Body) (h : body.bytes.length ≤ 48) :
    judgeFrame (frameBytes src body) = acceptedFrame body.typeCode src body.bytes := by
  have hlen : (BitVec.ofNat 8 body.bytes.length).toNat = body.bytes.length := by
    rw [BitVec.toNat_ofNat]; omega
  obtain ⟨hty, hchan⟩ := headByte_parts body.typeCode src.chan
  simp only [frameBytes, frameHead, List.cons_append, judgeFrame, hlen, hty, hchan]
  simp [h, bytes16]

/-! ### The bits on the line (R170) -/

theorem charBits_eq (m : Bool) (b : Byte) :
    charBits m b = [false] ++ (List.range 8).map b.getLsbD ++ [m, true] := rfl

@[simp] theorem charBits_length (m : Bool) (b : Byte) : (charBits m b).length = 11 := rfl

theorem flatMap_charBits_length (m : Bool) (bytes : List Byte) :
    (bytes.flatMap (charBits m)).length = 11 * bytes.length := by
  induction bytes with
  | nil => rfl
  | cons b rest ih => simp [ih]; omega

theorem lineBits_length (bytes : List Byte) : (lineBits bytes).length = 11 * bytes.length := by
  cases bytes with
  | nil => rfl
  | cons b rest => simp only [lineBits, List.length_append, flatMap_charBits_length]; simp; omega

/-- Characters back to back: the k-th takes the bits from 11 k on. -/
theorem flatMap_charBits_at (m : Bool) (bytes : List Byte) (k : Nat) (c : Byte) (h : bytes[k]? = some c) :
    ((bytes.flatMap (charBits m)).drop (11 * k)).take 11 = charBits m c := by
  induction bytes generalizing k with
  | nil => simp at h
  | cons b rest ih =>
    rw [List.flatMap_cons]
    cases k with
    | zero =>
      obtain rfl : b = c := by simpa using h
      exact List.take_left' rfl
    | succ k =>
      rw [show 11 * (k + 1) = (charBits m b).length + 11 * k by simp; omega, List.drop_length_add_append]
      exact ih k (by simpa using h)

/-- The k-th character on the line, mark 1 on the first alone. -/
theorem lineBits_at (bytes : List Byte) (k : Nat) (c : Byte) (h : bytes[k]? = some c) :
    ((lineBits bytes).drop (11 * k)).take 11 = charBits (decide (k = 0)) c := by
  cases bytes with
  | nil => simp at h
  | cons b rest =>
    cases k with
    | zero =>
      obtain rfl : b = c := by simpa using h
      exact List.take_left' rfl
    | succ k =>
      rw [lineBits, show 11 * (k + 1) = (charBits true b).length + 11 * k by simp; omega,
        List.drop_length_add_append]
      exact flatMap_charBits_at false rest k c (by simpa using h)

theorem driven_of_inFlight {b : Bus} {x : InFlight} (h : b.inFlight = some x) :
    b.driven = lineBits (frameBytes x.frame.src x.frame.body) := by
  unfold Bus.driven; rw [h]; rfl

theorem driven_of_none {b : Bus} (h : b.inFlight = none) : b.driven = [] := by
  unfold Bus.driven; rw [h]

/-- Settles O54: the judgement of a built frame, the characters bit by bit, and the line released. -/
theorem builtFramesAreReadBack : Obligations.BuiltFramesAreReadBack := by
  unfold Obligations.BuiltFramesAreReadBack
  refine ⟨fun src body h => ?_, fun bytes k c h => ?_, fun bytes => ?_, fun b => ?_⟩
  · rw [judgeFrame_frameBytes src body (bodyBytes_length_le body h), acceptedFrame_bytes]
  · rw [lineBits_at bytes k c h, charBits_eq, List.append_assoc]
  · exact ⟨lineBits_length bytes, lineChars_length bytes, lineChars_flat bytes⟩
  · exact ⟨fun x h => driven_of_inFlight h, driven_of_none⟩

end Sys2Proof.Machine
end

section
/-! The receive assembler row by row, and what a frame broken or rejected leaves (O37). -/

namespace Sys2Proof.Machine

/-! ### The quiet before a character, and the table (R171, R173) -/

/-- A character that goes on with the frame in assembly (R171). -/
def InLine (c : RxChar) : Prop := c.stop = true ∧ c.mark = false ∧ c.quiet ≤ 6

section
variable (chars : List Byte) (own sending : Bool) (p : AsmPhase) {c : RxChar} {quiet : Nat}

theorem Assembler.settle_of_gap (h : 14 ≤ quiet) : (⟨p, chars, own⟩ : Assembler).settle quiet =
    (⟨.idle, [], false⟩, decide (p = .inFrame) && !own && (judgeFrame chars).isNone) := by
  simp [Assembler.settle, h]

theorem Assembler.settle_of_short (a : Assembler) (h : quiet < 14) : a.settle quiet = (a, false) := by
  simp [Assembler.settle, Nat.not_le.mpr h]

/-- The quiet before a character changes nothing of an assembler in IDLE. -/
theorem Assembler.settle_idle (quiet : Nat) :
    (⟨.idle, [], false⟩ : Assembler).settle quiet = (⟨.idle, [], false⟩, false) := by
  unfold Assembler.settle
  split <;> rfl

/-- Mark 1 begins a frame in every state; one in assembly is broken by it. -/
theorem Assembler.take_of_mark (hs : c.stop = true) (hm : c.mark = true) :
    (⟨p, chars, own⟩ : Assembler).take sending c =
      (⟨.inFrame, [c.byte], sending⟩, decide (p = .inFrame) && !own) := by
  cases p <;> simp [Assembler.take, hs, hm]

/-- Neither in IDLE nor in SKIP does any other character begin one. -/
theorem Assembler.take_of_stray (h : c.stop = false ∨ c.mark = false) :
    (⟨.idle, chars, own⟩ : Assembler).take sending c = (⟨.skip, [], false⟩, !sending) ∧
      (⟨.skip, chars, own⟩ : Assembler).take sending c = (⟨.skip, [], false⟩, false) := by
  have hno : (c.stop && c.mark) = false := by rcases h with h | h <;> simp [h]
  simp [Assembler.take, hno]

theorem Assembler.take_of_framing (h : c.stop = false) :
    (⟨.inFrame, chars, own⟩ : Assembler).take sending c = (⟨.skip, [], false⟩, !own) := by
  simp [Assembler.take, h]

theorem Assembler.take_of_next (hc : InLine c) (hn : chars.length < 53) :
    (⟨.inFrame, chars, own⟩ : Assembler).take sending c = (⟨.inFrame, chars ++ [c.byte], own⟩, false) := by
  obtain ⟨hs, hm, hq⟩ := hc
  simp [Assembler.take, hs, hm, Nat.not_lt.mpr hq, Nat.not_le.mpr hn]

theorem Assembler.take_of_late_or_long (hs : c.stop = true) (hm : c.mark = false)
    (h : 6 < c.quiet ∨ 53 ≤ chars.length) :
    (⟨.inFrame, chars, own⟩ : Assembler).take sending c = (⟨.skip, [], false⟩, !own) := by
  by_cases hq : 6 < c.quiet
  · simp [Assembler.take, hs, hm, hq]
  · simp [Assembler.take, hs, hm, hq, h.resolve_left hq]

end

/-! ### A run of characters from an idle line -/

section
variable {b : Bus} {c first : RxChar} {rest : List RxChar}

/-- A character of another station moves the assembler, ends an access, and counts what the table counts (R174). -/
theorem Bus.takeChar_eq {a y : Assembler} {e g : Bool} (hs : b.asm.settle c.quiet = (a, e))
    (ht : a.take false c = (y, g)) :
    b.takeChar c = (({ b with asm := y, access := none } : Bus).countError e).countError g := by
  simp only [Bus.takeChar, hs, ht]

theorem Bus.takeRun_append (b : Bus) (x y : List RxChar) : b.takeRun (x ++ y) = (b.takeRun x).takeRun y :=
  List.foldl_append

/-- A character in line is collected. -/
theorem Bus.takeChar_of_next {chars : List Byte} (ha : b.asm = ⟨.inFrame, chars, false⟩)
    (hc : InLine c) (hn : chars.length < 53) :
    b.takeChar c = { b with asm := ⟨.inFrame, chars ++ [c.byte], false⟩, access := none } := by
  have hq : c.quiet < 14 := by have := hc.2.2; omega
  exact Bus.takeChar_eq (by rw [ha]; exact Assembler.settle_of_short _ hq)
    (Assembler.take_of_next chars false false hc hn)

theorem Bus.takeRun_of_next {chars : List Byte} (ha : b.asm = ⟨.inFrame, chars, false⟩) (hacc : b.access = none)
    (hrest : ∀ c ∈ rest, InLine c) (hn : chars.length + rest.length ≤ 53) :
    b.takeRun rest = { b with asm := ⟨.inFrame, chars ++ rest.map (·.byte), false⟩ } := by
  induction rest generalizing b chars with
  | nil => simp [Bus.takeRun, ← ha]
  | cons c rest ih =>
    simp only [List.length_cons] at hn
    have hc := Bus.takeChar_of_next ha (hrest c (by simp)) (by omega)
    change (b.takeChar c).takeRun rest = _
    rw [hc, ih rfl rfl (fun x hx => hrest x (by simp [hx])) (by simp; omega)]
    simp [hacc]

/-- From an idle line a character with mark 1 and those behind it stand collected, and no error is counted. -/
theorem Bus.takeRun_of_frame (ha : b.asm = ⟨.idle, [], false⟩) (hs : first.stop = true) (hm : first.mark = true)
    (hrest : ∀ c ∈ rest, InLine c) (hn : rest.length < 53) :
    b.takeRun (first :: rest) =
      { b with asm := ⟨.inFrame, (first :: rest).map (·.byte), false⟩, access := none } := by
  have hfirst : b.takeChar first = { b with asm := ⟨.inFrame, [first.byte], false⟩, access := none } :=
    Bus.takeChar_eq (by rw [ha]; exact Assembler.settle_idle _) (Assembler.take_of_mark [] false false .idle hs hm)
  change (b.takeChar first).takeRun rest = _
  rw [hfirst, Bus.takeRun_of_next rfl rfl hrest (by simp; omega)]
  rfl

/-- A late character breaks the frame in assembly, which counts one error. -/
theorem Bus.takeChar_of_late {chars : List Byte} (ha : b.asm = ⟨.inFrame, chars, false⟩) (hs : c.stop = true)
    (hm : c.mark = false) (hq : 6 < c.quiet) (hq' : c.quiet < 14) :
    b.takeChar c = { b with asm := ⟨.skip, [], false⟩, access := none, rxErrors := bump16 b.rxErrors } :=
  Bus.takeChar_eq (by rw [ha]; exact Assembler.settle_of_short _ hq')
    (Assembler.take_of_late_or_long chars false false hs hm (.inl hq))

/-- A character without mark 1 on an idle line counts one error. -/
theorem Bus.takeChar_of_stray (ha : b.asm = ⟨.idle, [], false⟩) (h : c.stop = false ∨ c.mark = false) :
    b.takeChar c = { b with asm := ⟨.skip, [], false⟩, access := none, rxErrors := bump16 b.rxErrors } :=
  Bus.takeChar_eq (by rw [ha]; exact Assembler.settle_idle _) (Assembler.take_of_stray [] false false h).1

/-- The quiet line completes the frame in assembly, and counts one error where it fails a check. -/
theorem Bus.takeQuiet_eq (b : Bus) : b.takeQuiet = { b with
    asm := ⟨.idle, [], false⟩
    rxErrors := if b.asm.phase = .inFrame ∧ b.asm.own = false ∧ judgeFrame b.asm.chars = none
      then bump16 b.rxErrors else b.rxErrors } := by
  have hs := Assembler.settle_of_gap b.asm.chars b.asm.own b.asm.phase (le_refl 14)
  unfold Bus.takeQuiet
  simp only [hs, Bus.countError, Bool.and_eq_true, decide_eq_true_eq, Bool.not_eq_eq_eq_not, Bool.not_true,
    Option.isNone_iff_eq_none, and_assoc]
  split <;> rfl

end

/-! ### The three rows (R171, R176) -/

theorem readLine_of_free {s : State} (f : Bus → Bus) (hh : s.hold.held = false) (hf : s.bus.inFlight = none) :
    readLine s f = s.setBus (f s.bus) := by
  simp [readLine, outsideReset_of_run _ hh, hf]

/-- While a frame of the part's own is in flight no character of another station is read (log 4). -/
theorem readLine_of_sending {s : State} (f : Bus → Bus) (hf : s.bus.inFlight.isSome = true) : readLine s f = s := by
  unfold readLine outsideReset
  split
  · rfl
  · exact if_neg (by simp [Option.isSome_iff_ne_none.mp hf])

/-- Settles O37: the table row by row, and the three rows of the broken frame, the rejected one and the stray
character, from an idle line and while a frame is in flight. -/
theorem assemblerTakesAndCountsErrors : Obligations.AssemblerTakesAndCountsErrors := by
  unfold Obligations.AssemblerTakesAndCountsErrors
  refine ⟨fun chars sending own c => ⟨fun p h => Assembler.settle_of_gap chars own p h,
      fun p h => Assembler.settle_of_short _ h,
      fun hs hm => ⟨Assembler.take_of_mark _ _ _ .idle hs hm, Assembler.take_of_mark _ _ _ .inFrame hs hm,
        Assembler.take_of_mark _ _ _ .skip hs hm⟩,
      Assembler.take_of_stray chars own sending, Assembler.take_of_framing chars own sending,
      fun hs hm => ⟨fun hq => Assembler.take_of_next chars own sending ⟨hs, hm, hq⟩,
        Assembler.take_of_late_or_long chars own sending hs hm⟩⟩,
    fun s first rest last hh hf ha => ⟨fun hs hm hrest hn => ?_, fun hstray => ?_⟩,
    fun s run c hf => ⟨congrArg Host.Outcome.next (readLine_of_sending _ hf),
      congrArg Host.Outcome.next (readLine_of_sending _ hf), congrArg Host.Outcome.next (readLine_of_sending _ hf)⟩⟩
  · have hframe := Bus.takeRun_of_frame ha hs hm hrest hn
    refine ⟨fun hls hlm hq hq' => congrArg Host.Outcome.next ((readLine_of_free _ hh hf).trans ?_),
      fun hj => congrArg Host.Outcome.next ((readLine_of_free _ hh hf).trans ?_)⟩
    · rw [Bus.takeRun_append, hframe]
      exact congrArg s.setBus (Bus.takeChar_of_late rfl hls hlm hq hq')
    · rw [hframe, Bus.takeQuiet_eq, if_pos ⟨rfl, rfl, hj⟩]
  · exact congrArg Host.Outcome.next ((readLine_of_free _ hh hf).trans
      (congrArg s.setBus (Bus.takeChar_of_stray ha hstray)))

end Sys2Proof.Machine
end

section
/-! Posting: the classes, the places in the queue, and what becomes of a frame on a full queue (O18). -/

namespace Sys2Proof.Machine

/-! ### Types (R178, R180) -/

/-- At most one STATUS, one FLOW and one UVT waits: these types alone are renewed (R180). -/
theorem sameRenewable_iff (b : Body) (g : Frame) : sameRenewable b g = true ↔
    (∃ v w, b = .status v ∧ g.body = .status w) ∨ (∃ v w, b = .flow v ∧ g.body = .flow w) ∨
      ∃ v w, b = .uvt v ∧ g.body = .uvt w := by
  unfold sameRenewable
  cases b with
  | status v | flow v | uvt v => cases g.body <;> simp [renewable, Body.typeCode]
  | _ => simp [renewable]

theorem isParcel_of_body {g : Frame} {a : ParcelBody} (h : g.body = .parcel a) : g.isParcel = true := by
  unfold Frame.isParcel; rw [h]

/-! ### What a full queue gives up (R181, R182) -/

section
variable {q older newer : List Frame} {g : Frame}

/-- The frame to displace: the first of the class that stands last. -/
theorem displaceable_of_oldest (hq : q = older ++ g :: newer) (ho : ∀ x ∈ older, x.cls < g.cls)
    (hn : ∀ x ∈ newer, x.cls = g.cls) (hg : g.cls ≠ 0) : displaceable q = some g := by
  obtain ⟨last, hlast, hcls⟩ : ∃ last, q.getLast? = some last ∧ last.cls = g.cls := by
    have hmem : ∀ x ∈ g :: newer, x.cls = g.cls := List.forall_mem_cons.mpr ⟨rfl, hn⟩
    exact ⟨_, by rw [hq, List.getLast?_append_cons, List.getLast?_eq_some_getLast],
      hmem _ (List.getLast_mem (by simp))⟩
  have hfind : q.find? (fun h => h.cls == g.cls) = some g := by
    rw [hq, List.find?_append, List.find?_eq_none.mpr fun x hx => by simpa using (ho x hx).ne]
    simp
  unfold displaceable
  rw [hlast]
  simp only [hcls, if_neg hg, hfind]

/-- Among URGENT frames alone none is displaced. -/
theorem displaceable_of_urgent (h : ∀ x ∈ q, x.cls = 0) : displaceable q = none := by
  unfold displaceable
  split
  · rename_i last hlast
    rw [if_pos (h last (List.mem_of_getLast? hlast))]
  · rfl

theorem newestParcel_of_last (hq : q = older ++ g :: newer) (hg : g.isParcel = true)
    (hn : ∀ x ∈ newer, x.isParcel = false) : newestParcel q = some g := by
  have hnone : newer.filter Frame.isParcel = [] := List.filter_eq_nil_iff.mpr fun x hx => by simp [hn x hx]
  unfold newestParcel
  rw [hq, List.filter_append, List.filter_cons_of_pos hg, hnone]
  simp

/-- The newest waiting PARCEL takes the range, the lower dose and the flags of the newer one where they are adjacent. -/
theorem mergeInto_of_newest {a p : ParcelBody} (hg : newestParcel q = some g) (ha : g.body = .parcel a) :
    mergeInto p q = if a.lastSeq + 1 = p.firstSeq then some (q.map fun h =>
      if h.isParcel = true ∧ h.ticket = g.ticket then { h with body := .parcel (mergeParcel a p) } else h)
    else none := by
  unfold mergeInto
  simp only [hg, ha, Bool.and_eq_true, beq_iff_eq]

theorem mergeInto_of_none {p : ParcelBody} (h : ∀ x ∈ q, x.isParcel = false) : mergeInto p q = none := by
  have hnone : newestParcel q = none := by
    unfold newestParcel
    rw [List.filter_eq_nil_iff.mpr fun x hx => by simp [h x hx]]
    rfl
  unfold mergeInto
  rw [hnone]

end

/-! ### A frame posted on a full queue, row by row (R181–R183) -/

section
variable {b : Bus} {f : Frame}

theorem Bus.postFull_of_lower (h : f.cls ≠ 0) : b.postFull f = b.refuse f := if_neg h

theorem Bus.postFull_of_displaced {g : Frame} (hf : f.cls = 0) (hg : displaceable b.queue = some g) :
    b.postFull f =
      ⟨{ b with queue := enqueue f (dropTicket g.ticket b.queue), dropped := bump16 b.dropped }, [g]⟩ := by
  simp [Bus.postFull, hf, hg]

theorem Bus.postFull_of_merged {p : ParcelBody} {q : List Frame} (hf : f.body = .parcel p)
    (hu : ∀ x ∈ b.queue, x.cls = 0) (hm : mergeInto p b.queue = some q) :
    b.postFull f = ⟨{ b with queue := q }, []⟩ := by
  have hc : f.cls = 0 := by unfold Frame.cls; rw [hf]; rfl
  simp [Bus.postFull, hc, displaceable_of_urgent hu, hf, hm]

/-- Among URGENT frames alone, what is no PARCEL that can be merged is refused. -/
theorem Bus.postFull_of_unmerged (hu : ∀ x ∈ b.queue, x.cls = 0)
    (hm : ∀ p, f.body = .parcel p → mergeInto p b.queue = none) : b.postFull f = b.refuse f := by
  unfold Bus.postFull
  rw [displaceable_of_urgent hu]
  split
  · cases hb : f.body with
    | parcel p => simp only [hm p hb]
    | _ => rfl
  · rfl

end

/-! ### Posting -/

/-- The bus once a frame to be posted has its ticket (log 23). -/
def Bus.ticketed (b : Bus) : Bus := { b with nextTicket := b.nextTicket + 1 }

section
variable {s : State} {b : Body}

theorem post_of_place (h : HasPlaceFor s b) : post s b = s.setBus (withPosted s b) := by
  by_cases hr : s.bus.queue.any (sameRenewable b) = true
  · unfold post Bus.post withPosted
    rw [if_pos (show s.bus.queue.any (sameRenewable (ownFrame s b).body) = true from hr), if_pos hr]
    rfl
  · exact post_eq_withPosted b (h.resolve_left hr)

theorem post_of_full {p : Posted} (h : ¬ HasPlaceFor s b) (hp : s.bus.ticketed.postFull (ownFrame s b) = p) :
    post s b = giveUpAll (s.setBus p.bus) p.givenUp := by
  obtain ⟨hr, hn⟩ := not_or.mp h
  have hpost : s.bus.ticketed.post (ownFrame s b) = p := ((if_neg hr).trans (if_neg hn)).trans hp
  unfold post
  rw [← hpost]
  rfl

/-- A frame refused is counted and given up (R183). -/
theorem givenUp_of_refused (h : ¬ HasPlaceFor s b)
    (hp : s.bus.ticketed.postFull (ownFrame s b) = s.bus.ticketed.refuse (ownFrame s b)) :
    GivenUp (ownFrame s b) { s.bus.ticketed with dropped := bump16 s.bus.dropped } s (post s b) := by
  rw [post_of_full h hp]
  exact giveUpAll_givenUp s _ _

theorem givenUp_of_displaced {g : Frame} (h : ¬ HasPlaceFor s b) (hb : classOf b = 0)
    (hg : displaceable s.bus.queue = some g) :
    GivenUp g { s.bus.ticketed with
      queue := enqueue (ownFrame s b) (dropTicket g.ticket s.bus.queue), dropped := bump16 s.bus.dropped }
      s (post s b) := by
  rw [post_of_full h (Bus.postFull_of_displaced (b := s.bus.ticketed) (f := ownFrame s b) hb hg)]
  exact giveUpAll_givenUp s _ _

theorem post_of_merged {p : ParcelBody} {q : List Frame} (h : ¬ HasPlaceFor s (.parcel p))
    (hu : ∀ x ∈ s.bus.queue, x.cls = 0) (hm : mergeInto p s.bus.queue = some q) :
    post s (.parcel p) = s.setBus { s.bus.ticketed with queue := q } :=
  post_of_full h (Bus.postFull_of_merged (b := s.bus.ticketed) (f := ownFrame s (.parcel p)) rfl hu hm)

/-- On a full queue of URGENT frames a PARCEL meets the newest waiting one: merged where adjacent, refused where not. -/
theorem post_parcel_of_newest {p a : ParcelBody} {g : Frame} (h : ¬ HasPlaceFor s (.parcel p))
    (hu : ∀ x ∈ s.bus.queue, x.cls = 0) (hg : newestParcel s.bus.queue = some g) (ha : g.body = .parcel a) :
    (a.lastSeq + 1 = p.firstSeq → post s (.parcel p) = s.setBus { s.bus.ticketed with
      queue := s.bus.queue.map fun h => if h.isParcel = true ∧ h.ticket = g.ticket then
        { h with body := .parcel (mergeParcel a p) } else h }) ∧
    (a.lastSeq + 1 ≠ p.firstSeq → GivenUp (ownFrame s (.parcel p))
      { s.bus.ticketed with dropped := bump16 s.bus.dropped } s (post s (.parcel p))) := by
  have hm := mergeInto_of_newest (p := p) hg ha
  refine ⟨fun hadj => post_of_merged h hu (hm.trans (if_pos hadj)), fun hadj => ?_⟩
  refine givenUp_of_refused h (Bus.postFull_of_unmerged hu fun p' hp' => ?_)
  obtain rfl : p = p' := by simpa [ownFrame] using hp'
  exact hm.trans (if_neg hadj)

end

/-- Settles O18: the classes, the places, and posting with a place and on a full queue. -/
theorem postingKeepsClassAndAge : Obligations.PostingKeepsClassAndAge := by
  unfold Obligations.PostingKeepsClassAndAge
  refine ⟨fun b => by cases b <;> rfl, fun f q => ⟨enqueue_place f q, requeue_place f q, ?_, sameRenewable_iff f.body⟩,
    fun s b => ⟨post_of_place, fun h => ⟨fun hb => ?_, fun hb older g newer hq ho hn hg => ?_, fun hb hu => ⟨?_, ?_⟩⟩⟩⟩
  · rintro before g behind rfl hg hbefore
    exact renew_place f g before behind hg hbefore
  · exact givenUp_of_refused h (Bus.postFull_of_lower hb)
  · exact givenUp_of_displaced h hb (displaceable_of_oldest hq ho hn hg)
  · rintro p older g newer a rfl hq ha hn
    exact post_parcel_of_newest h hu (newestParcel_of_last hq (isParcel_of_body ha) hn) ha
  · intro hp
    exact givenUp_of_refused h (Bus.postFull_of_unmerged hu fun p hbody => mergeInto_of_none (hp p hbody))

end Sys2Proof.Machine
end

section
/-! A frame is started and completed: the access, and who is told (O38). -/

namespace Sys2Proof.Machine

/-! ### The end of an event (R199) -/

section
variable {s : State}

/-- A restart that waits for a frame is not due. -/
theorem restartDue_of_waiting (h : ∀ r, s.cmd.restart = some r → r.report ≠ none ∨ r.leave ≠ none) :
    restartDue s = false := by
  unfold restartDue
  split
  · rename_i r hr
    rcases h r hr with hw | hw <;> simp [hw, Option.isSome_iff_ne_none]
  · rfl

/-- A restart that waits for no frame once that of a ticket is resolved waited for that one alone. -/
theorem lastOfRestart_of_resolved {n : Nat} {r : Restart} (h : s.cmd.restart.map (Restart.resolve · n) = some r)
    (hreport : r.report = none) (hleave : r.leave = none) : LastOfRestart s n := by
  have hnone (o : Option Nat) (ho : (if o = some n then none else o) = none) : o = none ∨ o = some n := by
    by_cases ht : o = some n
    · exact .inr ht
    · exact .inl (by rwa [if_neg ht] at ho)
  obtain ⟨r', hr', rfl⟩ := Option.map_eq_some_iff.mp h
  exact ⟨r', hr', hnone _ hreport, hnone _ hleave⟩

/-- An event after which no restart is due is its own effect. -/
theorem event_of_undue (f : State → State) (hh : s.hold.held = false) (hd : restartDue (f s) = false) :
    event s f = f s := by
  rw [event, outsideReset_of_run _ hh, closeRestart, hd, if_neg Bool.false_ne_true]

/-- An event that does nothing leaves a part whose restart waits as it stands. -/
theorem event_of_same (f : State → State) (hh : s.hold.held = false)
    (hw : ∀ r, s.cmd.restart = some r → r.report ≠ none ∨ r.leave ≠ none) (hf : f s = s) : event s f = s :=
  (event_of_undue f hh (by rw [hf]; exact restartDue_of_waiting hw)).trans hf

theorem event_of_due (f : State → State) (hh : s.hold.held = false) (hd : restartDue (f s) = true) :
    event s f = takeRestart (f s) := by
  rw [event, outsideReset_of_run _ hh, closeRestart, if_pos hd]

/-! ### The access (R174, R175) -/

theorem exec_quietGapEnd (hh : s.hold.held = false) (hf : s.bus.inFlight = none) :
    exec .quietGapEnd s = .next (s.setBus { s.bus with
      access := some (if s.bus.served then 36 else 0), asm := ⟨.idle, [], false⟩
      rxErrors := if s.bus.asm.phase = .inFrame ∧ s.bus.asm.own = false ∧ judgeFrame s.bus.asm.chars = none
        then bump16 s.bus.rxErrors else s.bus.rxErrors }) := by
  refine congrArg Host.Outcome.next ((outsideReset_of_run _ hh).trans ?_)
  simp only [Bus.takeQuiet_eq, hf, Option.isNone_none, if_true]
  rfl

/-- The head frame starts where its W has elapsed on the access, and only there (R174). -/
theorem exec_transmitStart {f : Frame} {q : List Frame} {penalty : Nat} (elapsed : Nat) (hh : s.hold.held = false)
    (hq : s.bus.queue = f :: q) (ha : s.bus.access = some penalty) (hf : s.bus.inFlight = none) :
    exec (.transmitStart elapsed) s =
      .next (if 72 * f.cls + slotOf s.ldr.straps.channel s.ldr.straps.position + penalty ≤ elapsed then
        s.setBus { s.bus with queue := q, inFlight := some ⟨f, false⟩, access := none } else s) := by
  refine congrArg Host.Outcome.next ((outsideReset_of_run _ hh).trans ?_)
  simp only [accessReached, hq, ha, hf, Option.isNone_none, Bool.true_and, decide_eq_true_eq, Bus.begin]
  rfl

end

/-! ### Who is told of a completion (R160, R197, R199) -/

/-- The wiper once the frame of a ticket has been sent: the bank's own claim has its window (R160). -/
def Wiper.claimSent (w : Wiper) (n : Nat) : Wiper :=
  if w.state = .claiming ∧ w.claim = some n then { w with claim := none, window := some 0 } else w

/-- The state once the frame in flight `x` has completed: it has left the line, the bank's own claim has its window,
a restart waits for it no longer, and `r` is what has become of the reply. -/
def sentWith (s : State) (x : InFlight) (r : Option Reply) : State :=
  ((s.setBus (s.bus.complete x)).setWip (s.wip.claimSent x.frame.ticket)).setCmd
    { s.cmd with reply := r, restart := s.cmd.restart.map (Restart.resolve · x.frame.ticket) }

/-- What a completion does before a due restart is taken. -/
def frameSent (s : State) (x : InFlight) : State :=
  handlerTold (claimSent (s.setBus (s.bus.complete x)) x.frame.ticket) x.frame.ticket

section
variable {s : State} {x : InFlight} {table next owed : Nat}

theorem claimSent_eq (s : State) (n : Nat) : claimSent s n = s.setWip (s.wip.claimSent n) := by
  unfold claimSent Wiper.claimSent
  split <;> rfl

/-- Of the wiper a completion moves the claim and its window alone. -/
theorem Wiper.claimSent_keeps (w : Wiper) (n : Nat) : (w.claimSent n).strokes = w.strokes ∧
    (w.claimSent n).faults = w.faults ∧ (w.claimSent n).withdrawals = w.withdrawals := by
  unfold Wiper.claimSent
  split <;> simp

theorem frameSent_eq (s : State) (x : InFlight) : frameSent s x =
    match s.cmd.reply with
    | some (.running table next owed k) =>
      if k = x.frame.ticket then nextReply (sentWith s x s.cmd.reply) table next owed else sentWith s x s.cmd.reply
    | _ => sentWith s x s.cmd.reply := by
  unfold frameSent
  rw [claimSent_eq]
  rfl

/-- A frame of no running reply leaves the reply as it stands. -/
theorem frameSent_of_other (h : ∀ table next owed, s.cmd.reply ≠ some (.running table next owed x.frame.ticket)) :
    frameSent s x = sentWith s x s.cmd.reply := by
  rw [frameSent_eq]
  split
  · rename_i table next owed k hk
    refine if_neg ?_
    rintro rfl
    exact h _ _ _ hk
  · rfl

theorem frameSent_of_running (h : s.cmd.reply = some (.running table next owed x.frame.ticket)) :
    frameSent s x = nextReply (sentWith s x s.cmd.reply) table next owed := by
  rw [frameSent_eq, h]
  exact if_pos rfl

/-- A completion changes nothing that a table holds. -/
theorem tableRecords_sentWith (s : State) (x : InFlight) (r : Option Reply) (table : Nat) :
    tableRecords (sentWith s x r) table = tableRecords s table := by
  obtain ⟨hstrokes, hfaults, hwithdrawals⟩ := s.wip.claimSent_keeps x.frame.ticket
  have hwip : (sentWith s x r).wip = s.wip.claimSent x.frame.ticket := rfl
  have hcounters : counters (sentWith s x r) = counters s := by
    unfold counters
    rw [hwip, hstrokes, hfaults, hwithdrawals]
    rfl
  unfold tableRecords
  rw [hcounters]
  rfl

/-! ### The next frame of a reply (R197) -/

theorem nextReply_of_end (h : owed = 0 ∨ tableSize s table ≤ next) : nextReply s table next owed = setReply s none :=
  if_pos h

theorem nextReply_of_more (ho : 1 ≤ owed) (hn : next < tableSize s table) (hroom : s.bus.queue.length < 12) :
    nextReply s table next owed =
      (let m := min (min owed (perFrame table)) (tableSize s table - next)
       (setReply s (some (.running table (next + m) (owed - m) s.bus.nextTicket))).setBus
         (withPosted s (.report (dataBody s table next m)))) := by
  unfold nextReply postData
  rw [if_neg (by omega)]
  exact post_eq_withPosted _ (by simpa [setReply] using hroom)

/-! ### The completion (R171, R176, R185) -/

theorem transmitComplete_eq (hx : s.bus.inFlight = some x) :
    exec (.transmitComplete (sentChars x)) s = .next (event s fun _ => frameSent s x) := by
  have hsent : sentChars x = x.frame.chars := rfl
  refine congrArg Host.Outcome.next ?_
  unfold event outsideReset
  simp only [hx, hsent, if_true]
  rfl

/-- The restart is as the completion has left it. -/
theorem exec_transmitComplete_of_waiting {r : Option Reply} {b : Bus} (hh : s.hold.held = false)
    (hx : s.bus.inFlight = some x) (hf : frameSent s x = (sentWith s x r).setBus b)
    (hw : ∀ r, s.cmd.restart.map (Restart.resolve · x.frame.ticket) = some r → r.report ≠ none ∨ r.leave ≠ none) :
    exec (.transmitComplete (sentChars x)) s = .next ((sentWith s x r).setBus b) := by
  rw [transmitComplete_eq hx, ← hf]
  refine congrArg Host.Outcome.next (event_of_undue _ hh ?_)
  rw [hf]
  exact restartDue_of_waiting hw

/-- The last frame of a restart brings the reset. -/
theorem exec_transmitComplete_of_last {r : Restart} (hh : s.hold.held = false) (hx : s.bus.inFlight = some x)
    (hw : s.cmd.restart.map (Restart.resolve · x.frame.ticket) = some r) (hreport : r.report = none)
    (hleave : r.leave = none) :
    exec (.transmitComplete (sentChars x)) s = .next (takeRestart (frameSent s x)) := by
  have hlast := lastOfRestart_of_resolved hw hreport hleave
  rw [transmitComplete_eq hx]
  refine congrArg Host.Outcome.next (event_of_due _ hh (handlerTold_restartDue ?_))
  unfold LastOfRestart at hlast ⊢
  simpa using hlast

/-- Characters read back that are not the ones sent, and a completion without a frame in flight, change nothing. -/
theorem exec_transmitComplete_of_not {read : List (BitVec 11)} (hh : s.hold.held = false)
    (hw : ∀ r, s.cmd.restart = some r → r.report ≠ none ∨ r.leave ≠ none)
    (hx : ∀ x, s.bus.inFlight = some x → read ≠ sentChars x) : exec (.transmitComplete read) s = .next s := by
  refine congrArg Host.Outcome.next (event_of_same _ hh hw ?_)
  split
  · rename_i x hf
    exact if_neg (hx x hf)
  · rfl

end

/-- Settles O38: the access, a completion by what waits for it, and read-backs that say nothing of the kind. -/
theorem framesAreStartedAndCompleted : Obligations.FramesAreStartedAndCompleted := by
  unfold Obligations.FramesAreStartedAndCompleted
  refine ⟨fun s hh => ⟨exec_quietGapEnd hh, fun f q penalty elapsed hq ha hf => ⟨fun he => ?_, fun he => ?_⟩⟩,
    fun s x hh hx => ⟨fun hw => ⟨fun hother => ?_,
      fun table next owed hr => ⟨fun hend => ?_, fun ho hn hroom => ?_⟩⟩,
      fun r hr hreport hleave => ?_⟩,
    fun s read hh hw => ⟨fun hf => exec_transmitComplete_of_not hh hw (by simp [hf]), fun x hx hne =>
      exec_transmitComplete_of_not hh hw fun y hy => by rwa [← Option.some.inj (hx.symm.trans hy)]⟩⟩
  · rw [exec_transmitStart elapsed hh hq ha hf, if_pos he]
  · rw [exec_transmitStart elapsed hh hq ha hf, if_neg (Nat.not_le.mpr he)]
  · exact exec_transmitComplete_of_waiting hh hx (frameSent_of_other hother) hw
  · exact exec_transmitComplete_of_waiting hh hx ((frameSent_of_running hr).trans (nextReply_of_end hend)) hw
  · refine ⟨dataBody (sentWith s x s.cmd.reply) table next _, rfl, rfl, rfl, rfl, rfl, ?_,
      exec_transmitComplete_of_waiting hh hx ((frameSent_of_running hr).trans (nextReply_of_more ho hn hroom)) hw⟩
    rw [← tableRecords_sentWith s x s.cmd.reply]
    rfl
  · exact ⟨_, exec_transmitComplete_of_last hh hx hr hreport hleave, rfl, rfl, rfl⟩

end Sys2Proof.Machine
end

section
/-! A frame in flight meets a collision: what becomes of it, and what the assembler holds after it (O39). -/

namespace Sys2Proof.Machine

/-! ### What becomes of the frame (R177, R184) -/

/-- The frame in flight with one collision more. -/
def InFlight.bumped (x : InFlight) : Frame := { x.frame with coll := x.frame.coll + 1 }

/-- The bus after a collision, before the frame is placed: counted, nothing in flight, the assembler as it stands. -/
def Bus.collided (b : Bus) (asm : Assembler) : Bus :=
  { b with inFlight := none, collisions := bump16 b.collisions, asm := asm }

section
variable {b : Bus} {x : InFlight} {asm : Assembler}

theorem Bus.collide_of_withdrawn (hw : x.withdrawn = true) : b.collide x asm =
    ⟨if x.bumped.isParcel then { b.collided asm with lost := bump16 b.lost } else b.collided asm, []⟩ :=
  if_pos hw

theorem Bus.collide_of_few (hw : x.withdrawn = false) (hn : x.frame.coll < 15) :
    b.collide x asm = (b.collided asm).takeBack x.bumped :=
  (if_neg (by simp [hw])).trans (if_pos (Nat.succ_lt_succ hn))

/-- At the sixteenth collision the frame is given up. -/
theorem Bus.collide_of_sixteenth (hw : x.withdrawn = false) (hn : 15 ≤ x.frame.coll) : b.collide x asm =
    ⟨{ b.collided asm with dropped := bump16 b.dropped, busFault := true }, [x.bumped]⟩ :=
  (if_neg (by simp [hw])).trans (if_neg (Nat.not_lt.mpr (Nat.succ_le_succ hn)))

variable {f : Frame}

/-- A newer frame of its type waits: the frame is superseded. -/
theorem Bus.takeBack_of_superseded (h : b.queue.any (sameRenewable f.body) = true) : b.takeBack f = ⟨b, []⟩ := if_pos h

theorem Bus.takeBack_of_room (h : b.queue.any (sameRenewable f.body) = false) (hn : b.queue.length < 12) :
    b.takeBack f = ⟨{ b with queue := requeue f b.queue }, []⟩ :=
  (if_neg (by simp [h])).trans (if_pos hn)

/-- From a full queue the last frame is given up. -/
theorem Bus.takeBack_of_full {kept : List Frame} {g : Frame} (h : b.queue.any (sameRenewable f.body) = false)
    (hn : 12 ≤ b.queue.length) (hq : requeue f b.queue = kept ++ [g]) :
    b.takeBack f = ⟨{ b with queue := kept, dropped := bump16 b.dropped }, [g]⟩ := by
  have hfull : ¬ b.queue.length < transmitCap := Nat.not_lt.mpr hn
  simp [Bus.takeBack, h, hfull, hq]

end

/-! ### The event (R176, R199) -/

section
variable {s : State} {x : InFlight} {read : List (BitVec 11)}

/-- What a collision does before a due restart is taken. -/
def frameCollided (s : State) (x : InFlight) (read : List (BitVec 11)) : State :=
  giveUpAll (s.setBus (s.bus.collide x (s.bus.asm.takeReadBack read)).bus)
    (s.bus.collide x (s.bus.asm.takeReadBack read)).givenUp

theorem readBackDiffers_iff (x : InFlight) (read : List (BitVec 11)) :
    ReadBackDiffers x read ↔ differsLast x.frame.chars read = true := (differsLast_iff _ _).symm

theorem collision_eq (hx : s.bus.inFlight = some x) (hr : ReadBackDiffers x read) :
    exec (.collision read) s = .next (event s fun _ => frameCollided s x read) := by
  refine congrArg Host.Outcome.next ?_
  unfold event outsideReset
  simp only [hx, (readBackDiffers_iff x read).mp hr, if_true]
  rfl

/-- Nothing is given up. -/
theorem exec_collision_of_none {b : Bus} (hh : s.hold.held = false) (hx : s.bus.inFlight = some x)
    (hr : ReadBackDiffers x read) (hw : ∀ r, s.cmd.restart = some r → r.report ≠ none ∨ r.leave ≠ none)
    (hp : s.bus.collide x (s.bus.asm.takeReadBack read) = ⟨b, []⟩) :
    exec (.collision read) s = .next (s.setBus b) := by
  have hsame : frameCollided s x read = s.setBus b := by
    unfold frameCollided
    rw [hp]
    rfl
  rw [collision_eq hx hr, hsame]
  exact congrArg Host.Outcome.next (event_of_undue _ hh (restartDue_of_waiting (s := s.setBus b) hw))

/-- One frame is given up: its consequences, and the reset where it was the last of a restart. -/
theorem exec_collision_of_one {b : Bus} {f : Frame} (hh : s.hold.held = false) (hx : s.bus.inFlight = some x)
    (hr : ReadBackDiffers x read) (hp : s.bus.collide x (s.bus.asm.takeReadBack read) = ⟨b, [f]⟩) :
    (¬ LastOfRestart s f.ticket → ∃ t, exec (.collision read) s = .next t ∧ GivenUp f b s t) ∧
    (LastOfRestart s f.ticket →
      ∃ t, exec (.collision read) s = .next t ∧ t.hold.held = true ∧ t.hold.restart = true) := by
  have hone : frameCollided s x read = giveUpAll (s.setBus b) [f] := by
    unfold frameCollided
    rw [hp]
  have hresolved : (giveUpAll (s.setBus b) [f]).cmd.restart = s.cmd.restart.map (Restart.resolve · f.ticket) := rfl
  rw [collision_eq hx hr, hone]
  refine ⟨fun hl => ⟨_, congrArg Host.Outcome.next (event_of_undue _ hh (restartDue_of_waiting fun r hr => ?_)),
      giveUpAll_givenUp s b f⟩,
    fun hl => ⟨_, congrArg Host.Outcome.next (event_of_due _ hh (restartDue_of_resolved hl hresolved)), rfl, rfl⟩⟩
  by_contra hnone
  obtain ⟨hreport, hleave⟩ := not_or.mp hnone
  exact hl (lastOfRestart_of_resolved (hresolved.symm.trans hr) (not_not.mp hreport) (not_not.mp hleave))

/-- Characters read back otherwise, and a collision without a frame in flight, change nothing. -/
theorem exec_collision_of_not (hh : s.hold.held = false)
    (hw : ∀ r, s.cmd.restart = some r → r.report ≠ none ∨ r.leave ≠ none)
    (hx : ∀ x, s.bus.inFlight = some x → ¬ ReadBackDiffers x read) : exec (.collision read) s = .next s := by
  refine congrArg Host.Outcome.next (event_of_same _ hh hw ?_)
  split
  · rename_i x hf
    exact if_neg fun h => hx x hf ((readBackDiffers_iff x read).mpr h)
  · rfl

end

/-! ### What the assembler holds (R171) -/

/-- One character read back. -/
theorem Assembler.takeReadBack_one (a : Assembler) (c : BitVec 11) :
    a.takeReadBack [c] = if c.getLsbD 0 then a else (a.take true (readBackChar c)).1 :=
  a.takeReadBack_cons c []

/-- A character read back at an idle assembler: without its start bit it begins nothing, and it begins a frame by stop
bit and mark alone. -/
theorem takeReadBack_one_of_idle (r : BitVec 11) : (⟨.idle, [], false⟩ : Assembler).takeReadBack [r] =
    if r.getLsbD 0 then ⟨.idle, [], false⟩
    else if r.getLsbD 10 = true ∧ r.getLsbD 9 = true then ⟨.inFrame, [r.extractLsb' 1 8], true⟩
    else ⟨.skip, [], false⟩ := by
  rw [Assembler.takeReadBack_one]
  split
  · rfl
  · split
    · rename_i h
      rw [Assembler.take_of_mark (c := readBackChar r) _ _ _ _ h.1 h.2]
      rfl
    · rename_i h
      have hstray : (readBackChar r).stop = false ∨ (readBackChar r).mark = false := by
        simpa [readBackChar] using not_and_or.mp h
      rw [(Assembler.take_of_stray _ _ _ hstray).1]

/-- A character read back behind others of its frame: a stop bit 0 breaks it, mark 1 begins another. -/
theorem takeReadBack_one_of_inFrame {chars : List Byte} (r : BitVec 11) (hn : chars.length < 53) :
    (⟨.inFrame, chars, true⟩ : Assembler).takeReadBack [r] =
      if r.getLsbD 0 then ⟨.inFrame, chars, true⟩
      else if r.getLsbD 10 = false then ⟨.skip, [], false⟩
      else if r.getLsbD 9 then ⟨.inFrame, [r.extractLsb' 1 8], true⟩
      else ⟨.inFrame, chars ++ [r.extractLsb' 1 8], true⟩ := by
  rw [Assembler.takeReadBack_one]
  split
  · rfl
  · split
    · rename_i h
      rw [Assembler.take_of_framing (c := readBackChar r) _ _ _ h]
    · rename_i hstop
      have hs : (readBackChar r).stop = true := by simpa [readBackChar] using hstop
      split
      · rename_i hm
        rw [Assembler.take_of_mark (c := readBackChar r) _ _ _ _ hs hm]
        rfl
      · rename_i hm
        have hm : (readBackChar r).mark = false := by simpa [readBackChar] using hm
        rw [Assembler.take_of_next _ _ _ ⟨hs, hm, Nat.zero_le 6⟩ hn]
        rfl

/-- Settles O39: what becomes of the frame case by case, read-backs that are no collision, and the assembler. -/
theorem collisionReturnsTheFrame : Obligations.CollisionReturnsTheFrame := by
  unfold Obligations.CollisionReturnsTheFrame
  refine ⟨fun s x read hh hx hr hw => ⟨fun hlive hn hany => ?_, fun hlive hn hany hroom => ?_,
      fun hlive hn hany hfull kept g hq => ?_, fun hlive hn => ?_, fun hdrawn => ?_⟩,
    fun s read hh hw => ⟨fun hf => exec_collision_of_not hh hw (by simp [hf]), fun x hx hne =>
      exec_collision_of_not hh hw fun y hy => by rwa [← Option.some.inj (hx.symm.trans hy)]⟩,
    fun x k r hk h53 => ?_⟩
  · exact exec_collision_of_none hh hx hr hw
      ((Bus.collide_of_few hlive hn).trans (Bus.takeBack_of_superseded hany))
  · exact exec_collision_of_none hh hx hr hw
      ((Bus.collide_of_few hlive hn).trans (Bus.takeBack_of_room hany hroom))
  · exact exec_collision_of_one hh hx hr
      ((Bus.collide_of_few hlive hn).trans (Bus.takeBack_of_full hany hfull hq))
  · exact exec_collision_of_one (f := x.bumped) hh hx hr (Bus.collide_of_sixteenth hlive hn)
  · exact exec_collision_of_none hh hx hr hw (Bus.collide_of_withdrawn hdrawn)
  · have hlen : k ≤ (frameBytes x.frame.src x.frame.body).length := by
      rw [sentChars, lineChars_length] at hk
      exact hk.le
    simp only [Assembler.takeReadBack_append]
    rw [sentChars, Assembler.takeReadBack_sent _ _ hlen h53.le]
    by_cases h0 : k = 0
    · simp only [if_pos h0, takeReadBack_one_of_idle]
      cases r.getLsbD 10 <;> simp
    · simp only [if_neg h0]
      exact takeReadBack_one_of_inFrame r (by simp; omega)

end Sys2Proof.Machine
end

section
/-! The records of the four tables, byte by byte, and the counters in their order (O36). -/

namespace Sys2Proof.Machine

/-! ### Fields packed into one byte -/

/-- The `w` bits of a byte from bit `i` on spell the number that stands there. -/
theorem byteOf_field {n v i w : Nat} (h : i + w ≤ 8) (hv : n / 2 ^ i % 2 ^ w = v % 2 ^ w) :
    (byteOf n).extractLsb' i w = BitVec.ofNat w v := by
  have shifted : BitVec.ofNat w (n / 2 ^ i) = BitVec.ofNat w v := BitVec.eq_of_toNat_eq hv
  rw [← shifted]
  refine BitVec.eq_of_getLsbD_eq fun k hk => ?_
  have hik : i + k < 8 := by omega
  rw [BitVec.getLsbD_extractLsb', byteOf, BitVec.getLsbD_ofNat, BitVec.getLsbD_ofNat, Nat.testBit_div_two_pow,
    Nat.add_comm k i]
  simp only [hk, hik, decide_true, Bool.true_and]

/-- Bit `i` of a byte is the flag that stands there. -/
theorem byteOf_bit {n i : Nat} {c : Bool} (h : i < 8) (hc : n / 2 ^ i % 2 = c.toNat) :
    (byteOf n).getLsbD i = c := by
  rw [byteOf, BitVec.getLsbD_ofNat, decide_eq_true h, Bool.true_and, Nat.testBit_eq_decide_div_mod_eq, hc]
  cases c <;> rfl

theorem flagBit_eq (c : Bool) (n : Nat) : flagBit c n = c.toNat * n := by cases c <;> simp [flagBit]

/-! ### The lamp record (R188) -/

theorem lampState_code_lt (x : LampState) : x.code < 8 := by cases x <;> decide

theorem failCause_code_lt (c : Option FailCause) : (c.map FailCause.code).getD 0 < 8 := by
  rcases c with _ | c
  · decide
  · cases c <;> decide

/-- Byte 0 of a lamp record: fitted over the state, a zero bit and the cause. -/
theorem lampHead_fields (f : Bool) {st c : Nat} (hst : st < 8) (hc : c < 8) :
    let b := byteOf (flagBit f 128 + 16 * st + c)
    b.getLsbD 7 = f ∧ b.getLsbD 3 = false ∧ b.extractLsb' 4 3 = BitVec.ofNat 3 st ∧
      b.extractLsb' 0 3 = BitVec.ofNat 3 c := by
  have hf := f.toNat_le
  simp only [flagBit_eq]
  exact ⟨byteOf_bit (by decide) (by omega), byteOf_bit (by decide) (by rw [Bool.toNat_false]; omega),
    byteOf_field (by decide) (by omega), byteOf_field (by decide) (by omega)⟩

theorem tableRecords_lamp {s : State} {k : Nat} {l : Lamp} (h : s.seq.lamps[k]? = some l) :
    (tableRecords s 0)[k]? = some (lampRecord l) := by
  simp [tableRecords, h]

/-! ### The queue record (R8, R21, R188) -/

theorem tableRecords_parcel {s : State} {k : Nat} {r : ParcelRec} (h : s.trk.queue[k]? = some r) :
    (tableRecords s 1)[k]? = some (queueRecord s.trk r) := by
  simp [tableRecords, h]

/-- Bytes 4–6 of a queue record: the origin over one bit of the volume and the dose. -/
theorem queueWord_fields (o : BitVec 3) (v : BitVec 1) (d : BitVec 20) :
    (o ++ v ++ d).extractLsb' 21 3 = o ∧ (o ++ v ++ d).getLsbD 20 = v.getLsbD 0 ∧
      (o ++ v ++ d).extractLsb' 0 20 = d := by
  refine ⟨?_, ?_, ?_⟩
  · rw [BitVec.append_assoc]
    exact BitVec.extractLsb'_append_eq_left
  · rw [BitVec.getLsbD_append, BitVec.getLsbD_append]
    rfl
  · exact BitVec.extractLsb'_append_eq_right

theorem originField_of_slot {o : Byte} (h1 : 1 ≤ o.toNat) (h8 : o.toNat ≤ 8) :
    originField o = BitVec.ofNat 3 (o.toNat - 1) := if_pos ⟨h1, h8⟩

/-- The volume's bit 16, of the seventeen that the record holds. -/
theorem remainingVolume_bit16 (t : Tracker) (r : ParcelRec) :
    (BitVec.ofNat 1 (remainingVolume t r / 65536)).getLsbD 0 = (r.exitMark - t.counter).getLsbD 16 := by
  simp [remainingVolume, BitVec.getLsbD, Nat.testBit_eq_decide_div_mod_eq]

theorem remainingVolume_low (t : Tracker) (r : ParcelRec) :
    BitVec.ofNat 16 (remainingVolume t r) = (r.exitMark - t.counter).extractLsb' 0 16 := by
  rw [remainingVolume]; exact BitVec.eq_of_toNat_eq (by simp [-BitVec.toNat_sub])

/-! ### The roster record (R188) -/

theorem tableRecords_entry {s : State} {k : Nat} {e : RosterEntry} (h : s.ros.entries[k]? = some e) :
    (tableRecords s 2)[k]? = some (rosterRecord (ownView s) e) := by
  simp [tableRecords, h]

theorem bankMode_code_lt (m : Option BankMode) : (m.map BankMode.code).getD 0 < 8 := by
  rcases m with _ | m
  · decide
  · cases m <;> decide

/-- Byte 0 of a roster record: the channel over the position. -/
theorem addressByte_fields (chan : Nat) {pos : Nat} (h : pos < 16) :
    (byteOf (16 * chan + pos)).extractLsb' 4 4 = BitVec.ofNat 4 chan ∧
      (byteOf (16 * chan + pos)).extractLsb' 0 4 = BitVec.ofNat 4 pos :=
  ⟨byteOf_field (by decide) (by omega), byteOf_field (by decide) (by omega)⟩

/-- Byte 5 of a roster record: the state over the mode and three flags. -/
theorem entryByte_fields {st m : Nat} (wiping digest config : Bool) (hm : m < 8) :
    let b := byteOf (64 * st + 8 * m + flagBit wiping 4 + flagBit digest 2 + flagBit config 1)
    b.extractLsb' 6 2 = BitVec.ofNat 2 st ∧ b.extractLsb' 3 3 = BitVec.ofNat 3 m ∧ b.getLsbD 2 = wiping ∧
      b.getLsbD 1 = digest ∧ b.getLsbD 0 = config := by
  have hw := wiping.toNat_le
  have hd := digest.toNat_le
  have hc := config.toNat_le
  simp only [flagBit_eq]
  exact ⟨byteOf_field (by decide) (by omega), byteOf_field (by decide) (by omega), byteOf_bit (by decide) (by omega),
    byteOf_bit (by decide) (by omega), byteOf_bit (by decide) (by omega)⟩

/-! ### The counters (R189) -/

theorem two_upper32 (x : BitVec 32) : two (upper32 x) = bytes16 (x.extractLsb' 16 16) :=
  congrArg bytes16 (BitVec.eq_of_toNat_eq (by simp [upper32, Nat.shiftRight_eq_div_pow]))

theorem two_lower32 (x : BitVec 32) : two (lower32 x) = bytes16 (x.extractLsb' 0 16) :=
  congrArg bytes16 (BitVec.eq_of_toNat_eq (by simp [lower32]))

/-! ### The statement -/

/-- Settles O36: the three records field by field, and the counters in their order. -/
theorem reportRecordsAreLaidOut : Obligations.ReportRecordsAreLaidOut := by
  unfold Obligations.ReportRecordsAreLaidOut
  refine fun s => ⟨fun k l hl => ?_, fun k r hr => ?_, fun k e he hpos => ?_, ?_⟩
  · obtain ⟨hfitted, hzero, hstate, hcause⟩ :=
      lampHead_fields l.fitted (lampState_code_lt l.state) (failCause_code_lt l.cause)
    refine ⟨_, _, _, _, _, _, _, _, _, tableRecords_lamp hl, hfitted, hzero, hstate.trans ?_, hcause.trans ?_, rfl,
      be16_bytes _, be24_bytes _, be16_bytes _⟩
    · cases l.state <;> rfl
    · rcases l.cause with _ | c
      · rfl
      · cases c <;> rfl
  · obtain ⟨horigin, hvolume, hdose⟩ := queueWord_fields (originField r.origin)
      (BitVec.ofNat 1 (remainingVolume s.trk r / 65536)) (BitVec.ofNat 20 r.dose)
    refine ⟨_, _, _, _, _, _, _, _, _, _, tableRecords_parcel hr, be16_bytes _, be16_bytes _, rfl, ?_,
      fun h1 h8 => ?_, (be16_bytes _).trans (remainingVolume_low s.trk r), ?_⟩
    · rw [be24_bytes, hdose]
    · rw [be24_bytes, horigin, originField_of_slot h1 h8]
    · rw [be24_bytes, hvolume, remainingVolume_bit16]
  · obtain ⟨hchan, hposition⟩ := addressByte_fields e.chan hpos
    obtain ⟨hstate, hmode, hwiping, hdigest, hconfig⟩ := entryByte_fields e.wiping.isSome
      (e.digestIn (ownView s)).isSome (configFailFlag e.flags) (bankMode_code_lt (e.modeIn (ownView s)))
    refine ⟨_, _, _, _, _, _, _, _, tableRecords_entry he, hchan, hposition, be32_bytes _, hstate.trans ?_,
      hmode.trans ?_, hwiping, hdigest, hconfig, be16_bytes _⟩
    · cases e.state <;> rfl
    · change BitVec.ofNat 3 ((Option.map BankMode.code (if e.isSelf then some s.ctl.mode else e.mode)).getD 0) = _
      rcases (if e.isSelf then some s.ctl.mode else e.mode) with _ | m
      · rfl
      · cases m <;> rfl
  · have hfailure : (s.ldr.failure.map LoadFailure.code).getD 0 = (match s.ldr.failure with
        | none => 0 | some .imageAbsent => 1 | some .imageCrc => 2 | some .imageRange => 3) := by
      rcases s.ldr.failure with _ | f
      · rfl
      · cases f <;> rfl
    have hcause : s.ctl.resetCause.code.toNat = (match s.ctl.resetCause with
        | .powerOn => 1 | .pin => 2 | .supply => 3 | .restart => 4) := by
      cases s.ctl.resetCause <;> rfl
    simp only [tableRecords, counters, List.map_append, List.map_cons, List.map_nil, two_upper32, two_lower32,
      hfailure, hcause]
    rfl

end Sys2Proof.Machine
end

section
/-! The part held in reset and released from it (O4), SUPPLY_LOW and the indications that clear by time (O7). -/

namespace Sys2Proof.Machine

/-! ### A held part takes the commands of reset and supply alone (R194) -/

theorem exec_readsSupply {c : Instr} {mv : Nat} (h : ReadsSupply c mv) (s : State) :
    exec c s = .next (takeSupply s mv) := by
  rcases h with rfl | rfl <;> rfl

theorem outsideReset_of_held {s : State} (f : State → State) (h : s.hold.held = true) : outsideReset s f = s := if_pos h

theorem frameEvent_of_held {s : State} (f : State → State) (h : s.hold.held = true) : frameEvent s f = s :=
  event_of_held _ h

/-- Every command but the four is an event outside reset, behind the time its level must have stood or not (log 32). -/
theorem exec_of_held {c : Instr} {s : State} (hc : ¬ JudgesReset c) (h : s.hold.held = true) : exec c s = .next s := by
  have stood (least ms : Nat) (f : State → State) : onceStood least ms s (outsideReset · f) = s :=
    onceStood_keeps (P := (· = s)) rfl (outsideReset_of_held f h)
  cases c with
  | supplyBelowReset mv => exact absurd (.inl ⟨mv, .inl rfl⟩) hc
  | supplyLowChange mv => exact absurd (.inl ⟨mv, .inr rfl⟩) hc
  | resetnLow us => exact absurd (.inr (.inl ⟨us, rfl⟩)) hc
  | resetRelease p => exact absurd (.inr (.inr ⟨p, rfl⟩)) hc
  | lockoutOpen | lockoutClose | wendActive | whomeActive | whomeInactive =>
    exact congrArg Host.Outcome.next (stood _ _ _)
  | joinReceived | statusReceived | flowReceived | uvtReceived | parcelReceived | dischargeReceived | reportReceived
  | leaveReceived | wipeClaimReceived | wipeActiveReceived | wipeDoneReceived | clearLamp | clearBallast | clearSensor
  | clearWiper | wipeNow | restart | query | commandOtherCode =>
    exact congrArg Host.Outcome.next (frameEvent_of_held _ h)
  | _ => exact congrArg Host.Outcome.next (outsideReset_of_held _ h)

theorem exec_resetnLow_of_short {us : Nat} (s : State) (h : us < 10) : exec (.resetnLow us) s = .next s :=
  congrArg Host.Outcome.next (onceStood_of_lt s _ h)

theorem exec_resetnLow_of_held {us : Nat} {s : State} (hh : s.hold.held = true) (h : 10 ≤ us) :
    exec (.resetnLow us) s = .next (s.setHold { s.hold with resetn := true, resetnLow := true }) :=
  congrArg Host.Outcome.next ((onceStood_of_le s _ h).trans (if_pos hh))

/-! ### A cause that ends (R194) -/

theorem takeLevels_of_held {s : State} (p : ResetPins) (h : s.hold.held = true) :
    takeLevels s p = (supplyNoted s p.supply).setHold { (supplyNoted s p.supply).hold with
      resetnLow := s.hold.resetnLow && !p.resetn, restarting := false } := by
  unfold takeLevels
  rw [takeSupply_of_held _ h]
  rfl

theorem exec_resetRelease_of_free {s : State} (p : ResetPins) (h : s.hold.held = false) :
    exec (.resetRelease p) s = .next s :=
  congrArg Host.Outcome.next (if_neg (by simp [h]))

/-- A cause still stands: the levels are noted, and the part stays held. -/
theorem exec_resetRelease_of_standing {s : State} {p : ResetPins} (h : s.hold.held = true)
    (hc : causeStands (takeLevels s p) = true) : exec (.resetRelease p) s = .next (takeLevels s p) :=
  congrArg Host.Outcome.next ((if_pos h).trans (if_pos hc))

/-- The last cause has ended. -/
theorem exec_resetRelease_of_last {s : State} {p : ResetPins} (h : s.hold.held = true)
    (hc : causeStands (takeLevels s p) = false) :
    exec (.resetRelease p) s = .next (releaseReset (takeLevels s p) p) :=
  congrArg Host.Outcome.next ((if_pos h).trans (if_neg (by simp [hc])))

/-- A good supply adds nothing to what happened during the reset, so the cause is the one noted (R194). -/
theorem takeLevels_noted {s : State} {p : ResetPins} (h : s.hold.held = true)
    (hlow : (supplyAt s.ldr.supply p.supply).belowReset = false) :
    (takeLevels s p).hold.belowRetention = s.hold.belowRetention ∧
      causeOf (takeLevels s p).hold = causeOf s.hold := by
  have hretention : (supplyAt s.ldr.supply p.supply).belowRetention = false :=
    Bool.eq_false_iff.mpr fun hr => Bool.false_ne_true (hlow.symm.trans (supplyAt_nested _ _ hr))
  rw [takeLevels_of_held p h]
  simp [supplyNoted, causeOf, hlow, hretention]

/-! ### What the release takes (R94, R105, R155, R191, R194) -/

section
variable (s : State) (p : ResetPins)

theorem releaseReset_ctl : (releaseReset s p).ctl = { s.ctl with resetCause := causeOf s.hold } := by
  simp [releaseReset]

theorem releaseReset_seq : (releaseReset s p).seq = { s.seq with
    lockouts := p.lockouts
    lamps := if s.hold.belowRetention then s.seq.lamps.map fun l => Lamp.fresh l.index else s.seq.lamps } := by
  cases hr : s.hold.belowRetention <;> simp [releaseReset, setLamps, hr]

/-- What the release has taken before it sees to the wiper. -/
def pinsLatched (s : State) (p : ResetPins) : State :=
  let s := setLamps s (s.seq.lamps.map fun l => if s.hold.belowRetention then Lamp.fresh l.index else l)
  let s := s.setCtl { s.ctl with resetCause := causeOf s.hold }
  let s := s.setLdr { s.ldr with straps := latchStraps p }
  let s := s.setSeq { s.seq with lockouts := p.lockouts }
  s.setWip { s.wip with whome := p.whome, wend := p.wend, state := .absent, owed := false }

theorem releaseReset_wip :
    (releaseReset s p).wip = (if p.wipeFit then home (pinsLatched s p) else pinsLatched s p).wip := rfl

/-- The wiper by its limits as they stand: with nothing owed it homes into one of three states, or is not fitted. -/
theorem releaseReset_wiper :
    let w := { s.wip with whome := p.whome, wend := p.wend, state := .absent, owed := false }
    (p.wipeFit = false → (releaseReset s p).wip = w) ∧
    (p.wipeFit = true → p.whome = true → p.wend = false →
      (releaseReset s p).wip = { w with state := .parked, stroke := none }) ∧
    (p.wipeFit = true → p.whome = true → p.wend = true → (releaseReset s p).wip =
      { w with state := .fault, stroke := none, release := none, claim := none, window := none
               faults := bump16 s.wip.faults }) ∧
    (p.wipeFit = true → p.whome = false → (releaseReset s p).wip = { w with state := .homing, stroke := some 0 }) := by
  have hwip : (releaseReset s p).wip = _ := releaseReset_wip s p
  rw [hwip]
  refine ⟨fun hf => ?_, fun hf hh he => ?_, fun hf hh he => ?_, fun hf hh => ?_⟩
  · rw [if_neg (by simp [hf])]; rfl
  · rw [if_pos hf, home_of_home hh he, homed_of_quit rfl]; rfl
  · rw [if_pos hf, home_of_both hh he]; rfl
  · rw [if_pos hf, home_of_away hh]; rfl

end

/-- What the levels and the release after them change (R191, R194). -/
theorem released_onlyChanges {s : State} (p : ResetPins) (h : s.hold.held = true) :
    OnlyChanges [.hold, .ctl, .ldr, .seq, .wip] s (releaseReset (takeLevels s p) p) := by
  obtain ⟨-, -, hpending, hserial, htrk, hros, hpln, hlink, hscn, hbus, hcmd⟩ :=
    releaseReset_keeps (takeLevels s p) p
  rw [takeLevels_of_held p h] at *
  intro b hb
  cases b <;> simp at hb <;> assumption

/-! ### The statements -/

/-- Settles O4: what a held part takes of each command, the short pulse, and the release by whether a cause stands. -/
theorem resetIsHeldAndReleased : Obligations.ResetIsHeldAndReleased := by
  unfold Obligations.ResetIsHeldAndReleased
  refine ⟨fun s hh => ⟨fun c mv hc => ?_, fun us hus => exec_resetnLow_of_held hh hus, fun c hm hl hr => ?_⟩,
    fun us s hus => exec_resetnLow_of_short s hus,
    fun p s => ⟨exec_resetRelease_of_free p, fun hh hc => ?_, fun hh hlow hhigh => ?_⟩⟩
  · rw [exec_readsSupply hc, takeSupply_of_held mv hh]
  · refine exec_of_held ?_ hh
    rintro (⟨mv, hc⟩ | ⟨us, hc⟩ | ⟨p, hc⟩)
    · exact hm mv hc
    · exact hl us hc
    · exact hr p hc
  · rw [exec_resetRelease_of_standing hh, takeLevels_of_held p hh]
    rw [causeStands_takeLevels p hh]
    simpa using hc
  · have hcause : causeStands (takeLevels s p) = false := by
      rw [causeStands_takeLevels p hh, hlow]
      rcases hhigh with h | h <;> simp [h]
    obtain ⟨hretention, hnoted⟩ := takeLevels_noted hh hlow
    have hctl := releaseReset_ctl (takeLevels s p) p
    have hseq := releaseReset_seq (takeLevels s p) p
    have hwip := releaseReset_wiper (takeLevels s p) p
    have hframe := released_onlyChanges p hh
    obtain ⟨hhold, hldr, -⟩ := releaseReset_keeps (takeLevels s p) p
    rw [hnoted] at hctl
    rw [hretention] at hseq
    refine ⟨_, exec_resetRelease_of_last hh hcause, ?_⟩
    rw [hctl, hseq, hldr, hhold]
    rw [takeLevels_of_held p hh] at hframe hwip ⊢
    exact ⟨hframe, rfl, rfl, fun h => by simp [causeOf, h], fun h g => by simp [causeOf, h, g],
      fun h g k => by simp [causeOf, h, g, k], fun h g k _ => by simp [causeOf, h, g, k], rfl, rfl, hwip⟩

/-! ### SUPPLY_LOW, and the indications that clear by time (R42, R75, R78, R159, R175, R195) -/

/-- No wipe is admitted on a low supply. -/
theorem admitted_of_low {s : State} (h : s.ldr.supply.low = true) : admitted s = false := by simp [admitted, h]

/-- Settles O7: a good supply judged, then each indication. -/
theorem supplyLowAndIndicationsMove : Obligations.SupplyLowAndIndicationsMove := by
  unfold Obligations.SupplyLowAndIndicationsMove
  have clears (f : State → State) {s : State} (hh : s.hold.held = false) :
      Host.Outcome.next (outsideReset s f) = (.next (f s) : Host.Outcome State Fault Refusal) :=
    congrArg Host.Outcome.next (outsideReset_of_run f hh)
  refine ⟨fun c mv s hh hc hgood => ⟨_, ?_, rfl, decide_eq_true_iff, admitted_of_low⟩,
    fun s hh => ⟨clears _ hh, clears _ hh, clears _ hh, fun hf => ?_, fun x hf => ?_⟩⟩
  · rw [exec_readsSupply hc, takeSupply_of_good hh hgood]
  · exact (clears _ hh).trans (congrArg Host.Outcome.next (if_pos (by simp [hf])))
  · exact (clears _ hh).trans (congrArg Host.Outcome.next (if_neg (by simp [hf])))

end Sys2Proof.Machine
end

section
/-! The loader's lines and attempts, and FAILSAFE entered by a load that fails (O8). -/

namespace Sys2Proof.Machine

/-! ### What the loader sends (R192) -/

section
variable {s : State}

theorem loaderSends_of_held (h : s.hold.held = true) : loaderSends s = [] := if_pos h

theorem loaderSends_of_first (h : s.hold.held = false) (hm : s.ctl.mode = .loading) (h0 : s.ldr.attempts = 0) :
    loaderSends s = readAttempt := by
  unfold loaderSends
  rw [h, hm, h0]
  rfl

/-- The attempt before is ended first. -/
theorem loaderSends_of_next {n : Nat} (h : s.hold.held = false) (hm : s.ctl.mode = .loading)
    (hn : s.ldr.attempts = n + 1) : loaderSends s = abandonAttempt ++ readAttempt := by
  unfold loaderSends
  rw [h, hm, hn]
  rfl

theorem loaderSends_of_failsafe (h : s.hold.held = false) (hm : s.ctl.mode = .failsafe) :
    loaderSends s = if s.ldr.failure = some .imageAbsent then abandonAttempt else [] := by
  unfold loaderSends
  rw [h, hm]
  rfl

theorem loaderSends_of_others (hl : s.ctl.mode ≠ .loading) (hf : s.ctl.mode ≠ .failsafe) : loaderSends s = [] := by
  unfold loaderSends
  split
  · rfl
  · cases hm : s.ctl.mode with
    | loading => exact absurd hm hl
    | failsafe => exact absurd hm hf
    | _ => rfl

end

/-! ### FAILSAFE entered (R51, R69, R118, R135) -/

/-- The part on its way into FAILSAFE, before it posts its LEAVE and its roster is judged. -/
def failsafeBegun (s : State) (cause : LoadFailure) : State :=
  let s := s.setLdr { s.ldr with failure := some cause }
  let s := s.setCtl { s.ctl with mode := .failsafe, statusTimer := some 0 }
  startReadback (fitLamps (startAccrual (addSelf s)) (BitVec.allOnes 24) 0) 12

@[simp] theorem failsafeBegun_keeps (s : State) (cause : LoadFailure) :
    (failsafeBegun s cause).pending = s.pending ∧ (failsafeBegun s cause).serial = s.serial ∧
      (failsafeBegun s cause).hold = s.hold ∧ (failsafeBegun s cause).pln = s.pln ∧
      (failsafeBegun s cause).scn = s.scn ∧ (failsafeBegun s cause).wip = s.wip ∧
      (failsafeBegun s cause).bus = s.bus ∧ (failsafeBegun s cause).cmd = s.cmd := by
  simp [failsafeBegun]

theorem failsafeBegun_blocks (s : State) (cause : LoadFailure) :
    (failsafeBegun s cause).ctl = { s.ctl with mode := .failsafe, statusTimer := some 0 } ∧
      (failsafeBegun s cause).ldr = { s.ldr with failure := some cause } ∧
      (failsafeBegun s cause).trk = { s.trk with accrual := some 0 } ∧
      (failsafeBegun s cause).ros.entries = insertEntry (selfOf s) s.ros.entries ∧
      (failsafeBegun s cause).link.phase = .readback [] ∧ (failsafeBegun s cause).link.count = 12 ∧
      (failsafeBegun s cause).link.visit.map (·.ballast) = some 1 := ⟨rfl, rfl, rfl, rfl, rfl, rfl, rfl⟩

/-- Every lamp is fitted. -/
theorem failsafeBegun_seq (s : State) (cause : LoadFailure) : (failsafeBegun s cause).seq = { s.seq with
    lamps := s.seq.lamps.map fun l => { l with fitted := decide (l.index ≤ 24), e := 0 } } := by
  have hfitted (i : Nat) : (BitVec.allOnes 24).getLsbD (i - 1) = decide (i ≤ 24) := by
    rw [BitVec.getLsbD_allOnes]
    exact decide_eq_decide.mpr (by omega)
  simp only [← hfitted]
  rfl

/-- FAILSAFE settles by the judgement of its roster alone. -/
theorem enterFailsafe_eq (s : State) (cause : LoadFailure) :
    enterFailsafe s cause = judgeRoster (post (failsafeBegun s cause) (.leave 3)) := by
  have hmode : (post (failsafeBegun s cause) (.leave 3)).ctl.mode = .failsafe := by simp [failsafeBegun_blocks]
  change settle (post (failsafeBegun s cause) (.leave 3)) = _
  rw [settle_of_quiet (by rw [hmode]; rfl) (by rw [hmode]; decide)]

theorem enterFailsafe_ldr (s : State) (cause : LoadFailure) :
    (enterFailsafe s cause).ldr = { s.ldr with failure := some cause } := by
  rw [enterFailsafe_eq]
  simp [failsafeBegun_blocks]

theorem enterFailsafe_entered (s : State) (cause : LoadFailure) : FailsafeEntered cause s (enterFailsafe s cause) := by
  obtain ⟨hctl, -, htrk, hros, hphase, hcount, hvisit⟩ := failsafeBegun_blocks s cause
  have hstation : (enterFailsafe s cause).ctl.mode = .failsafe ∧ (enterFailsafe s cause).ctl.statusTimer = some 0 ∧
      (enterFailsafe s cause).ros.entries = judgeConflicts (insertEntry (selfOf s) s.ros.entries) := by
    rw [enterFailsafe_eq]
    simp [judgeRoster, Roster.judge, hctl, hros]
  obtain ⟨hmode, hstatus, hentries⟩ := hstation
  have hldr : (enterFailsafe s cause).ldr =
      { s.ldr with failure := some cause, attempts := (enterFailsafe s cause).ldr.attempts } := by
    rw [enterFailsafe_ldr]
  refine ⟨fun b hb => ?_, hmode, hstatus, hldr, ?_, hentries, ?_, ?_, ?_, ?_, fun hroom => ?_⟩ <;>
    rw [enterFailsafe_eq]
  · cases b <;> simp at hb <;> simp [Block.same]
  · simp [htrk]
  · simp [hphase]
  · simp [hcount]
  · simpa using hvisit
  · simp [failsafeBegun_seq]
  · rw [post_eq_withPosted _ (by simpa using hroom)]
    rfl

/-- After a load that failed the end of an attempt is sent where a bus error failed it. -/
theorem loaderSends_enterFailsafe {s : State} (cause : LoadFailure) (h : s.hold.held = false) :
    loaderSends (enterFailsafe s cause) = if cause = .imageAbsent then abandonAttempt else [] := by
  obtain ⟨-, hmode, -⟩ := enterFailsafe_entered s cause
  rw [loaderSends_of_failsafe (by simpa using h) hmode, enterFailsafe_ldr]
  simp

/-- The attempts do not show in what FAILSAFE is entered from. -/
theorem failsafeEntered_of_attempts {cause : LoadFailure} {s t : State} {n : Nat}
    (h : FailsafeEntered cause (s.setLdr { s.ldr with attempts := n }) t) : FailsafeEntered cause s t := by
  obtain ⟨hframe, hrest⟩ := h
  refine ⟨fun b hb => ?_, hrest⟩
  have hsame := hframe b hb
  cases b <;> simp at hb <;> exact hsame

/-! ### The loader's events (R192, R193) -/

section
variable {s : State}

/-- A third error in a row fails the load, one before begins the next attempt. -/
theorem exec_cfgBusError (h : Runs s) (hm : s.ctl.mode = .loading) : exec .cfgBusError s =
    (let u := s.setLdr { s.ldr with attempts := s.ldr.attempts + 1 }
     .next (if 3 ≤ s.ldr.attempts + 1 then enterFailsafe u .imageAbsent else u)) := by
  refine congrArg Host.Outcome.next ((event_of_runs _ h ?_).trans (if_pos hm))
  simp only [if_pos hm]
  split
  · exact enterFailsafe_restarting _ _
  · rfl

theorem exec_imageReadComplete_failed {img : List Byte} {cause : LoadFailure} (h : Runs s)
    (hm : s.ctl.mode = .loading) (hf : imageFailure img = some cause) :
    exec (.imageReadComplete img) s = .next (enterFailsafe s cause) := by
  refine congrArg Host.Outcome.next ((event_of_runs _ h ?_).trans ?_) <;> rw [if_pos hm, hf]
  exact enterFailsafe_restarting _ _

/-- A load failed by its image: FAILSAFE with its cause, and nothing more is sent. -/
theorem imageFailed {img : List Byte} {cause : LoadFailure} (h : Runs s) (hm : s.ctl.mode = .loading)
    (hf : imageFailure img = some cause) (hc : cause ≠ .imageAbsent) :
    ∃ t, exec (.imageReadComplete img) s = .next t ∧ FailsafeEntered cause s t ∧
      t.ldr.attempts = s.ldr.attempts ∧ loaderSends t = [] := by
  refine ⟨_, exec_imageReadComplete_failed h hm hf, enterFailsafe_entered s cause, ?_, ?_⟩
  · rw [enterFailsafe_ldr]
  · rw [loaderSends_enterFailsafe cause h.1, if_neg hc]

end

/-- Settles O8: the lines by mode and attempts, a bus error by the attempts before it, an image by its failure. -/
theorem failedLoadEntersFailsafe : Obligations.FailedLoadEntersFailsafe := by
  unfold Obligations.FailedLoadEntersFailsafe
  refine ⟨fun s => loaderSends_of_held, fun s => loaderSends_of_others, fun s h hm => ⟨fun h0 => ?_, fun h2 => ?_,
    fun h2 => ?_, fun img hf => ?_, fun img hf hr => ?_⟩⟩
  · exact loaderSends_of_first h.1 hm h0
  · exact ⟨_, (exec_cfgBusError h hm).trans (congrArg Host.Outcome.next (if_neg (by omega))), rfl,
      loaderSends_of_next (n := s.ldr.attempts) h.1 hm rfl⟩
  · refine ⟨_, (exec_cfgBusError h hm).trans (congrArg Host.Outcome.next (if_pos (by omega))),
      failsafeEntered_of_attempts (enterFailsafe_entered _ _), ?_, loaderSends_enterFailsafe _ h.1⟩
    rw [enterFailsafe_ldr, State.setLdr_ldr, h2]
  · exact imageFailed h hm (if_neg (by simp [hf])) (by decide)
  · exact imageFailed h hm ((if_pos hf).trans (if_neg (by simp [hr]))) (by decide)

end Sys2Proof.Machine
end

section
/-! COMMANDs ignored and refused (O31), RESTART (O34) and QUERY (O35). -/

namespace Sys2Proof.Machine

/-! ### The path of a COMMAND (R196, R199) -/

theorem screened_iff (s : State) (a : Src) (b : CommandBody) : screened s a b = true ↔ AimedHere s a b := by
  have hplant : a.chan.toNat = 15 ↔ a.chan = 15 := BitVec.toNat_inj (y := 15#4)
  simp [screened, isPlantAddress, AimedHere, hplant, and_assoc]

theorem aimedHere_learned {s : State} {a : Src} {b : CommandBody} : AimedHere (learned s a) a b ↔ AimedHere s a b := by
  unfold AimedHere; rw [learned_ldr]

/-- Every row of a COMMAND goes the one path. -/
theorem exec_isCommand {c : Instr} {a : Src} {b : CommandBody} (h : IsCommand c a b) :
    ∃ f, ∀ s, exec c s = .next (commandEvent s a b f) := by
  rcases h with rfl | rfl | rfl | rfl | rfl | rfl | rfl | ⟨code, rfl⟩ <;> exact ⟨_, fun _ => rfl⟩

section
variable {s : State} {a : Src} {b : CommandBody}

/-- Outside LOADING a frame is handed on, and a restart that is due then is taken. -/
theorem frameEvent_of_handed (f : State → State) (hh : s.hold.held = false) (hm : s.ctl.mode ≠ .loading) :
    frameEvent s f = closeRestart (f (s.setBus s.bus.frameTaken)) := by
  unfold frameEvent event
  rw [outsideReset_of_run _ hh]
  exact congrArg closeRestart (if_neg hm)

theorem learned_restart_none (h : s.cmd.restart = none) : (learned s a).cmd.restart = none := by
  have hr : (learned s a).restarting = s.restarting := learned_restarting s a
  simpa [State.restarting, h] using hr

theorem commandEvent_of_screened (f : State → State) (h : TakesFrames s) (ha : AimedHere s a b) :
    commandEvent s a b f = closeRestart (f (readied s a)) := by
  obtain ⟨⟨hh, hr⟩, hm⟩ := h
  have hscreen : (screened (learned s a) a b && (learned s a).cmd.restart.isNone) = true := by
    rw [(screened_iff _ _ _).mpr (aimedHere_learned.mpr ha), learned_restart_none hr]
    rfl
  exact (frameEvent_of_handed _ hh hm).trans (congrArg closeRestart (if_pos hscreen))

theorem commandEvent_of_ignored (f : State → State) (hh : s.hold.held = false) (hm : s.ctl.mode ≠ .loading)
    (h : ¬ AimedHere s a b ∨ s.cmd.restart.isSome = true) :
    commandEvent s a b f = closeRestart (countIgnored (learned s a)) := by
  have hscreen : ¬ (screened (learned s a) a b && (learned s a).cmd.restart.isNone) = true := by
    rw [Bool.and_eq_true, screened_iff, aimedHere_learned]
    rintro ⟨ha, hnone⟩
    have hr : (learned s a).cmd.restart.isSome = s.cmd.restart.isSome := learned_restarting s a
    rcases h with h | h
    · exact h ha
    · rw [h] at hr
      simp [Option.isNone_iff_eq_none.mp hnone] at hr
  exact (frameEvent_of_handed _ hh hm).trans (congrArg closeRestart (if_neg hscreen))

end

/-! ### Refused (R188, R196) -/

/-- FAILSAFE refuses what is given to an owner. -/
theorem applyCommand_of_failsafe {s : State} (code : Byte) (done : Bool) (f : State → State)
    (hm : s.ctl.mode = .failsafe) : applyCommand s code done f = answer s code 1 := by
  unfold applyCommand
  rw [if_neg (by simp [inFailsafe, hm])]
  rfl

theorem exec_ownersCommand {c : Instr} {code : Byte} {a : Src} {b : CommandBody} (h : IsOwnersCommand c code a b) :
    ∃ (done : State → Bool) (f : State → State), ∀ s,
      exec c s = .next (commandEvent s a b fun u => applyCommand u code (done u) f) := by
  rcases h with ⟨rfl, rfl⟩ | ⟨rfl, rfl⟩ | ⟨rfl, rfl⟩ | ⟨rfl, rfl⟩ | ⟨rfl, rfl⟩ <;> exact ⟨_, _, fun _ => rfl⟩

theorem commandEvent_of_answer {s : State} {a : Src} {b : CommandBody} {f : State → State} {code : Byte}
    (h : TakesFrames s) (ha : AimedHere s a b) (hf : f (readied s a) = answer (readied s a) code 1) :
    commandEvent s a b f = answer (readied s a) code 1 := by
  rw [commandEvent_of_aimed f h ha (by rw [hf, answer_restarting, readied_restarting]), hf]

/-- Settles O31: by what the screen says, then the refusals of FAILSAFE and of an unknown code. -/
theorem commandsAreIgnoredOrRefused : Obligations.CommandsAreIgnoredOrRefused := by
  unfold Obligations.CommandsAreIgnoredOrRefused
  refine ⟨fun c a b s hc hh hm => ?_, fun c code a b s h ha => ?_⟩
  · obtain ⟨f, hf⟩ := exec_isCommand hc
    refine ⟨fun hr hna => ?_, fun r hr => ?_⟩
    · have hrun : (countIgnored (learned s a)).cmd.restart = none := learned_restart_none hr
      rw [hf, commandEvent_of_ignored f hh hm (.inl hna), closeRestart_of_none hrun]
      rfl
    · rw [hf, commandEvent_of_ignored f hh hm (.inr (by simp [hr]))]
      rfl
  · have hunknown : exec (.commandOtherCode a code b) s = .next (answer (readied s a) code 1) :=
      congrArg Host.Outcome.next (commandEvent_of_answer h ha rfl)
    obtain ⟨hheld, hposted⟩ := answered_answer (readied s a) code 1
    refine ⟨fun hc hm => ?_, fun hm => ?_, fun hm => ?_⟩
    · obtain ⟨done, f, hf⟩ := exec_ownersCommand hc
      rw [hf, commandEvent_of_answer h ha (applyCommand_of_failsafe code (done _) f hm)]
      exact congrArg Host.Outcome.next (hposted (by simp [hm]))
    · exact hunknown.trans (congrArg Host.Outcome.next (hposted hm))
    · exact hunknown.trans (congrArg Host.Outcome.next (hheld hm))

/-! ### RESTART (R72, R199) -/

/-- A frame of none of the types of which one waits joins the queue by class and age. -/
theorem withPosted_of_plain (s : State) {b : Body} (hb : renewable b = false) : withPosted s b =
    { s.bus with nextTicket := s.bus.nextTicket + 1, queue := enqueue (ownFrame s b) s.bus.queue } := by
  have hnone : s.bus.queue.any (sameRenewable b) = false := by simp [sameRenewable, hb]
  unfold withPosted
  rw [hnone]
  rfl

/-- Two such frames, posted one after the other where there is room for both. -/
theorem post_post_of_room {s : State} {b c : Body} (hb : renewable b = false) (hc : renewable c = false)
    (hroom : s.bus.queue.length ≤ 10) : post (post s b) c = s.setBus { s.bus with
      nextTicket := s.bus.nextTicket + 2
      queue := enqueue { ownFrame s c with ticket := s.bus.nextTicket + 1 }
        (enqueue (ownFrame s b) s.bus.queue) } := by
  have hsecond : (s.setBus (withPosted s b)).bus.queue.length < 12 :=
    (withPosted_length_le s b).trans_lt (by omega)
  rw [post_eq_withPosted b (by omega), post_eq_withPosted c hsecond, withPosted_of_plain s hb, withPosted_of_plain _ hc]
  rfl

/-- The REPORT and behind it the LEAVE take their places, and the restart waits for both. -/
theorem postRestart_of_room {s : State} (hroom : s.bus.queue.length ≤ 10) : postRestart s =
    (s.setCmd { s.cmd with restart := some ⟨0, some s.bus.nextTicket, some (s.bus.nextTicket + 1)⟩ }).setBus
      { s.bus with
        nextTicket := s.bus.nextTicket + 2
        queue := enqueue { ownFrame s (.leave 4) with ticket := s.bus.nextTicket + 1 }
          (enqueue (ownFrame s (.report (answerBody 6 0))) s.bus.queue) } :=
  post_post_of_room (s := s.setCmd _) rfl rfl hroom

theorem exec_restart {s : State} {a : Src} {b : CommandBody} (h : TakesFrames s) (ha : AimedHere s a b) :
    exec (.restart a b) s = .next (closeRestart
      (if (readied s a).ctl.mode = .listen then takeRestart (readied s a) else postRestart (readied s a))) :=
  congrArg Host.Outcome.next (commandEvent_of_screened _ h ha)

theorem exec_restartTimeout {s : State} (hh : s.hold.held = false) (hr : s.cmd.restart.isSome = true) :
    exec .restartTimeout s = .next (takeRestart s) :=
  congrArg Host.Outcome.next ((outsideReset_of_run _ hh).trans (if_pos hr))

/-- Settles O34: by the mode in which the RESTART is taken, then its second. -/
theorem restartLeavesAndResets : Obligations.RestartLeavesAndResets := by
  unfold Obligations.RestartLeavesAndResets
  refine ⟨fun a b s h ha => ⟨fun hm => ?_, fun hm hroom => ?_⟩, fun s r hh hr => exec_restartTimeout hh (by simp [hr])⟩
  · rw [exec_restart h ha, if_pos hm, closeRestart_of_none rfl]
    rfl
  · have hposted := postRestart_of_room hroom
    have hpending : closeRestart (postRestart (readied s a)) = postRestart (readied s a) := by
      rw [closeRestart, restartDue_of_waiting, if_neg Bool.false_ne_true]
      rw [hposted]
      rintro r ⟨⟩
      exact .inl (Option.some_ne_none _)
    rw [exec_restart h ha, if_neg hm, hpending]
    refine ⟨_, rfl, fun k hk => ?_, ?_, ?_⟩ <;> rw [hposted]
    · cases k <;> simp at hk <;> rfl
    · rfl
    · rfl

/-! ### QUERY (R187, R188, R197) -/

/-- A reply begun at once begins as one that LISTEN has held (R196). -/
theorem beginReply_readied (s : State) (a : Src) (table start count : Nat) :
    beginReply (readied s a) table start count =
      releaseHeld (setReply (readied s a) (some (.heldQuery table start count))) := rfl

theorem exec_query {s : State} {a : Src} {b : CommandBody} (h : TakesFrames s) (ha : AimedHere s a b) :
    exec (.query a b) s =
      (let u := readied s a
       .next (if u.ctl.mode = .listen then
           setReply u (some (.heldQuery (queryTable b) (queryStart b) b.arg2.toNat))
         else beginReply u (queryTable b) (queryStart b) b.arg2.toNat)) := by
  refine congrArg Host.Outcome.next (commandEvent_of_aimed _ h ha ?_)
  rw [← readied_restarting s a]
  split
  · exact setReply_restarting _ _
  · exact beginReply_restarting _ _ _ _

/-- Settles O35: by the mode in which the QUERY is taken. -/
theorem queryBeginsItsReply : Obligations.QueryBeginsItsReply := by
  unfold Obligations.QueryBeginsItsReply
  refine fun a b s h ha => ⟨fun hm => ?_, fun hm hroom => ?_⟩
  · exact (exec_query h ha).trans (congrArg Host.Outcome.next (if_pos hm))
  · refine (exec_query h ha).trans (congrArg Host.Outcome.next ((if_neg hm).trans ?_))
    rw [beginReply_readied]
    exact releaseHeld_of_query (s := setReply (readied s a) (some (.heldQuery _ _ _))) rfl hroom

end Sys2Proof.Machine
end

section
/-! A step is its front command (O1), and every command has a next state that waits for the same commands (O3). -/

namespace Sys2Proof.Machine

/-! ### The queue's front -/

theorem step_of_pending_cons {s : State} {c : Instr} {rest : List Instr} (h : s.pending = c :: rest) :
    step s = exec c (s.setPending rest) := by
  rw [step, h]

/-- Settles O1: the step takes the front, and the rest replaces the queue that held it. -/
theorem stepRunsTheFrontCommand : Obligations.StepRunsTheFrontCommand := by
  unfold Obligations.StepRunsTheFrontCommand
  intro c rest s
  have hrest : (s.setPending (c :: rest)).setPending rest = s.setPending rest := rfl
  rw [step_of_pending_cons (s.setPending_pending (c :: rest)), hrest]

/-! ### What waits, and the serial number, by the operations -/

/-- `t` holds the waiting commands and the serial number of `s`. -/
structure SameWaiting (s t : State) : Prop where
  pending : t.pending = s.pending
  serial : t.serial = s.serial

theorem SameWaiting.refl (s : State) : SameWaiting s s := ⟨rfl, rfl⟩

theorem SameWaiting.trans {s t u : State} (h : SameWaiting s t) (g : SameWaiting t u) : SameWaiting s u :=
  ⟨g.pending.trans h.pending, g.serial.trans h.serial⟩

/-- A reset keeps both (R194). -/
theorem takeReset_waiting (s : State) (k : ResetHold) : SameWaiting s (takeReset s k) := by
  constructor <;> simp

/-- The station's operations keep both, whatever they are run on. -/
theorem sameWaiting_kept (s : State) : KeptByOperations (SameWaiting s) where
  same h g := h.1.trans ⟨g.pending, g.serial⟩
  restart h := h.1.trans (takeReset_waiting _ _)
  settle h _ := h.1.trans (by constructor <;> simp)
  followHold h := h.1.trans (by constructor <;> simp)
  listenOver h _ := h.1.trans (by constructor <;> simp)
  enterFailsafe _ h _ := h.1.trans (by constructor <;> simp)
  enterListen _ _ h _ := h.1.trans (by constructor <;> simp)

/-! ### The commands of reset and supply (R194, R195) -/

/-- A voltage read keeps both: noted in reset, noted outside it, or taken as a reset. -/
theorem takeSupply_waiting (s : State) (mv : Nat) : SameWaiting s (takeSupply s mv) := by
  cases hh : s.hold.held with
  | true => rw [takeSupply_of_held mv hh]; constructor <;> rfl
  | false =>
    cases hm : (supplyAt s.ldr.supply mv).belowReset with
    | false => rw [takeSupply_of_good hh hm]; constructor <;> rfl
    | true =>
      rw [takeSupply_of_low hh hm]
      exact SameWaiting.trans (by constructor <;> rfl) (takeReset_waiting _ _)

theorem execResetnLow_waiting (s : State) (us : Nat) :
    ∃ t, execResetnLow s us = .next t ∧ SameWaiting s t := by
  refine ⟨_, rfl, onceStood_keeps (.refl s) ?_⟩
  split
  · constructor <;> rfl
  · exact takeReset_waiting s _

theorem takeLevels_waiting (s : State) (p : ResetPins) : SameWaiting s (takeLevels s p) :=
  (takeSupply_waiting s p.supply).trans (by constructor <;> rfl)

theorem releaseReset_waiting (s : State) (p : ResetPins) : SameWaiting s (releaseReset s p) := by
  obtain ⟨-, -, hpending, hserial, -⟩ := releaseReset_keeps s p
  exact ⟨hpending, hserial⟩

theorem execResetRelease_waiting (s : State) (p : ResetPins) :
    ∃ t, execResetRelease p s = .next t ∧ SameWaiting s t := by
  have hl := takeLevels_waiting s p
  refine ⟨_, rfl, ?_⟩
  split
  · simp only
    split
    · exact hl
    · exact hl.trans (releaseReset_waiting _ p)
  · exact .refl s

/-! ### The statement -/

/-- Every command keeps both: those of reset and supply by themselves, the others by the operations. -/
theorem exec_waiting (c : Instr) (s : State) : ∃ t, exec c s = .next t ∧ SameWaiting s t :=
  (sameWaiting_kept s).exec_all
    (fun u mv h => h.trans (takeSupply_waiting u mv))
    (fun u us h =>
      have ⟨t, ht, g⟩ := execResetnLow_waiting u us
      ⟨t, ht, h.trans g⟩)
    (fun u p h =>
      have ⟨t, ht, g⟩ := execResetRelease_waiting u p
      ⟨t, ht, h.trans g⟩)
    c s (.refl s)

/-- Settles O3: each command's next state holds what waited and the serial number. -/
theorem everyCommandAnswersNext : Obligations.EveryCommandAnswersNext := by
  unfold Obligations.EveryCommandAnswersNext
  intro c s
  obtain ⟨t, ht, hpending, hserial⟩ := exec_waiting c s
  exact ⟨t, ht, hpending, hserial⟩

end Sys2Proof.Machine
end
